-- ==== Sys2Proof/Word.lean ====
section
/-! DEFINITION. The word types of the machine: what the manual numbers as bits. -/
namespace Sys2Proof

/-- One byte. -/
abbrev Byte := BitVec 8
/-- The value of a system register, an address, or bits [63:0] of a g register (R20, R38). -/
abbrev W64 := BitVec 64
/-- The value of a g register or of a capability (R20, R26). -/
abbrev W128 := BitVec 128
/-- The value of a v register, a line or an engine command (R33). -/
abbrev W512 := BitVec 512
/-- The number of a register in an instruction field (R76). -/
abbrev RegNo := BitVec 6

end Sys2Proof
end

