-- ==== Sys2Proof/Config.lean ====
section
/-! DEFINITION. What the manual leaves to the device without stating a value: constants with no body, so that no proof can
rest on one of their values. Each is named in the assumption log. -/
namespace Sys2Proof.Config

/-- The internal approximation of VEXP2 (0), VLOG2 (1), VRCP (2) and VRSQ (3): a fixed function of the operation, the element
format's TYPE code, the input's bits, the rounding mode and the state of SEED (R184). The manual does not state its bits. DESIGN CHOICE (log 3): safe. -/
opaque approx (op fmt : Nat) (x : BitVec 32) (mode : Nat) (seed : W64) : BitVec 32

/-- The operations of a handler entry whose staged bytes were written while CODE was 5 (R300: the result is undefined). DESIGN CHOICE (log 5): safe. -/
opaque handlerWord : Nat → Nat → BitVec 32

/-- The bytes of a line whose contents are not promised (R490), or of a word read after an uncorrected error is ignored. DESIGN CHOICE (log 5): safe. -/
opaque lostByte : Nat → Nat → Byte

/-- Which of several statuses that apply, in increasing order, is delivered where no order of the checks is stated (R212, R218).
DESIGN CHOICE (log 59): safe. -/
opaque openStatus : List Nat → Nat

/-- The words of 4 bytes by which RESUME with SKIP passes an instruction at `pc` that has no readable length (R224). DESIGN CHOICE
(log 71): safe. -/
opaque skipWords : BitVec 64 → Nat

/-- A byte that a LAUNCH packet's data capability names outside the package's memory and its translated pages: of another package, or of
a local memory that is no core's (R354). By the tick and the address. DESIGN CHOICE (log 73): safe. -/
opaque hostFarByte : Nat → Nat → Byte

/-- What a CONV step makes of an element `x` of format `src` where it or the result has the format b128 (R195), which no rule of
conversion names. DESIGN CHOICE (log 72): safe. -/
opaque convB128 : Nat → Nat → Nat → Nat

/-- The router at which a message from another package (argument 0) enters the mesh, and the end of its die row at which service core n
stands (argument n + 1; even: x = 0) (R13, R240): the manual does not place them. DESIGN CHOICE (log 74): safe. -/
opaque entryRouter : Nat → Nat

/-- The ORD field of the page of another package that an access names: what the home's translation of access `n` to page `page` gives. The
answer to the access agrees with it. DESIGN CHOICE (log 76): safe. -/
opaque farOrd (n page : Nat) : BitVec 2

/-- Whether the home maps such a page as coherent-global, so that an answer may grant its line. DESIGN CHOICE (log 76): safe. -/
opaque farCg (n page : Nat) : Bool

/-- The words of the pending-fault list at the places of consumed records (R518). DESIGN CHOICE (log 5): safe. -/
opaque spentWord : Nat → W64

/-- The payload bits of flit `i` of a packet that the manual leaves to the packet's kind (R463). DESIGN CHOICE (log 5): safe. -/
opaque packetBits (serial i : Nat) : BitVec 928

/-- SHA-512 of a byte string (R510, R521): an external standard, uninterpreted here. DESIGN CHOICE (log 9): safe. -/
opaque sha512 : List Byte → W512

/-- The signature and certificate bytes of the device identity key (R520, R522). DESIGN CHOICE (log 9): safe. -/
opaque signature : List Byte → Nat → Byte

/-- The certificate chain of the device identity key (R520). DESIGN CHOICE (log 9): safe. -/
opaque certificate : List Byte

/-- The device serial number, and the version of a firmware image (R522). DESIGN CHOICE (log 9): safe. -/
opaque serial : W64
opaque fwVersion : List Byte → BitVec 32

/-- The log entries of the boot stages after the first (R521). DESIGN CHOICE (log 5): safe. -/
opaque bootStages : List Byte

/-- The bytes of the body of a drain image (R509): the manual does not give its encoding. DESIGN CHOICE (log 5): safe. -/
opaque drainByte : Nat → Nat → Byte

/-- Whether a firmware image's signature verifies against the fused key (R521). DESIGN CHOICE (log 9): safe. -/
opaque firmwareValid : List Byte → Bool

end Sys2Proof.Config
end

