-- ==== Sys2Proof/Syntax.lean ====
section
/-! DEFINITION. The syntax: one constructor per row of the table of operations and events. An encoded instruction carries the
fields of its form (R76) as they stand in its words; a device event names the objects it acts on and what arrives from
outside the package. -/
namespace Sys2Proof

/-- The fields of an F64-R encoding (R76). -/
structure FR where
  pred : BitVec 4
  sub  : BitVec 8
  mod  : BitVec 12
  c    : RegNo
  b    : RegNo
  a    : RegNo
  d    : RegNo
  deriving DecidableEq, Repr

/-- The fields of an F64-I encoding (R76). -/
structure FI where
  pred : BitVec 4
  mod  : BitVec 6
  imm  : BitVec 32
  a    : RegNo
  d    : RegNo
  deriving DecidableEq, Repr

/-- The fields of an F96 encoding (R76). -/
structure FX where
  imm  : BitVec 44
  pred : BitVec 4
  sub  : BitVec 8
  mod  : BitVec 12
  b    : RegNo
  a    : RegNo
  d    : RegNo
  deriving DecidableEq, Repr

/-- The fields of an F128 encoding (R76). -/
structure FL where
  imm  : BitVec 64
  pred : BitVec 4
  sub  : BitVec 8
  mod  : BitVec 16
  c    : RegNo
  b    : RegNo
  a    : RegNo
  d    : RegNo
  deriving DecidableEq, Repr

/-- What an answer from outside the package brings to a request that left it: whether it was performed, the refusal's cause
(R304, R380), the data with its granule tags and the marks of its expired bytes (R141), the refresh wait it carries (R411), the
page kind, the race-check attribute and the line's metadata (R330, R375), a race record made there (R345), the writer whose
horizon entry made a check pass there (R333), and, where the home grants the line to this package, the
state it grants (0 S, 1 E, 3 M) with the line's place at its home and its CMP attribute (R391, R416). It is read only for a
request whose target is another package. -/
structure Ext where
  ok      : Bool
  cause   : BitVec 8
  data    : W512
  tags    : BitVec 4
  marks   : BitVec 64
  refwait : Nat
  ord     : BitVec 2
  rc      : Bool
  meta_   : BitVec 64
  race    : Option W512
  grant   : Option (BitVec 2)
  hline   : Nat
  cmp     : Bool
  used    : Option (BitVec 18)
  deriving DecidableEq, Repr

/-- A die, a package or a tray, as the subject of a loss (R492, R494). -/
inductive DieRef where
  | cdie (n : Nat)
  | mdie (n : Nat)
  | sdie (n : Nat)
  | vdie
  | package (p : Nat)
  | tray (ps : List Nat)
  deriving DecidableEq, Repr

/-- Where stored state flips of itself (R20, R250, R276, R391, R337, R404); double marks an error that the check bits cannot
correct. -/
inductive ErrSite where
  | gReg  (cid slot reg : Nat) (double : Bool)
  | vReg  (cid slot reg : Nat) (double : Bool)
  | localWord (cid word : Nat) (double : Bool)
  | tile  (cl tile word bit : Nat)
  | llc   (md line : Nat) (double : Bool)
  | metadata  (pa : Nat) (double : Bool)
  | hbm   (pa : Nat) (double : Bool)
  | directory (pline : Nat) (both : Bool)
  deriving DecidableEq, Repr

/-- The register spaces that a write without a row of its own can name (R5): the host register space (R515), an M-die window
(R385), the atomic handler window (R299), and a core's breakpoint and counter registers (R434, R440). -/
inductive RegSpace where
  | host
  | mdie (m : Nat)
  | handler
  | core (cid : Nat)
  deriving DecidableEq, Repr

/-- One constructor per row of the table. -/
inductive Instr where
  | add (f : FR)
  | addi (f : FI)
  | addiF96 (f : FX)
  | addiF128 (f : FL)
  | sub (f : FR)
  | addc (f : FR)
  | subb (f : FR)
  | mul (f : FR)
  | div (f : FR)
  | rem (f : FR)
  | negR (f : FR)
  | absR (f : FR)
  | minR (f : FR)
  | minF96 (f : FX)
  | maxR (f : FR)
  | maxF96 (f : FX)
  | andR (f : FR)
  | andF96 (f : FX)
  | orR (f : FR)
  | orF96 (f : FX)
  | xorR (f : FR)
  | xorF96 (f : FX)
  | andn (f : FR)
  | orn (f : FR)
  | shl (f : FR)
  | shlF96 (f : FX)
  | shr (f : FR)
  | shrF96 (f : FX)
  | sar (f : FR)
  | sarF96 (f : FX)
  | rol (f : FR)
  | rolF96 (f : FX)
  | ror (f : FR)
  | rorF96 (f : FX)
  | clz (f : FR)
  | ctz (f : FR)
  | popc (f : FR)
  | brev (f : FR)
  | bswap (f : FR)
  | bfx (f : FR)
  | bfi (f : FR)
  | sel (f : FR)
  | cmp (f : FR)
  | cmpF96 (f : FX)
  | li (f : FI)
  | liF96 (f : FX)
  | liF128 (f : FL)
  | mov (f : FR)
  | cbound (f : FR)
  | cboundF96 (f : FX)
  | cperm (f : FR)
  | cpermF96 (f : FX)
  | coff (f : FR)
  | coffF96 (f : FX)
  | coffF128 (f : FL)
  | cseta (f : FR)
  | csetaF96 (f : FX)
  | csetaF128 (f : FL)
  | cget (f : FR)
  | cclr (f : FR)
  | cchan (f : FR)
  | cchanF96 (f : FX)
  | csub (f : FR)
  | nop (f : FR)
  | nopF96 (f : FX)
  | nopF128 (f : FL)
  | b (f : FI)
  | bF96 (f : FX)
  | bp (f : FI)
  | bpF96 (f : FX)
  | call (f : FI)
  | callF96 (f : FX)
  | jmp (f : FR)
  | ret (f : FR)
  | loop (f : FI)
  | loopF96 (f : FX)
  | wait (f : FR)
  | yield (f : FR)
  | actend (f : FR)
  | ld (f : FR)
  | ldF96 (f : FX)
  | st (f : FR)
  | stF96 (f : FX)
  | ldv (f : FR)
  | ldvF96 (f : FX)
  | stv (f : FR)
  | stvF96 (f : FX)
  | ldvg (f : FR)
  | stvs (f : FR)
  | ldc (f : FR)
  | ldcF96 (f : FX)
  | stc (f : FR)
  | stcF96 (f : FX)
  | pref (f : FR)
  | prefF96 (f : FX)
  | touch (f : FR)
  | touchF96 (f : FX)
  | fence (f : FR)
  | drain (f : FR)
  | amo (f : FR)
  | amoF96 (f : FX)
  | amof (f : FR)
  | amofF96 (f : FX)
  | cas (f : FR)
  | mcst (f : FR)
  | mcstF96 (f : FX)
  | mred (f : FR)
  | mredF96 (f : FX)
  | l1inv (f : FR)
  | l1wb (f : FR)
  | fadd (f : FR)
  | faddF96 (f : FX)
  | faddF128 (f : FL)
  | fsub (f : FR)
  | fsubF96 (f : FX)
  | fsubF128 (f : FL)
  | fmul (f : FR)
  | fmulF96 (f : FX)
  | fmulF128 (f : FL)
  | fma (f : FR)
  | fdiv (f : FR)
  | fsqrt (f : FR)
  | fmin (f : FR)
  | fminF96 (f : FX)
  | fmax (f : FR)
  | fmaxF96 (f : FX)
  | fsgn (f : FR)
  | fcmp (f : FR)
  | fcmpF96 (f : FX)
  | fclass (f : FR)
  | fcvt (f : FR)
  | ftoi (f : FR)
  | itof (f : FR)
  | fround (f : FR)
  | vadd (f : FR)
  | vaddF96 (f : FX)
  | vsub (f : FR)
  | vsubF96 (f : FX)
  | vmul (f : FR)
  | vmulF96 (f : FX)
  | vfma (f : FR)
  | vmin (f : FR)
  | vminF96 (f : FX)
  | vmax (f : FR)
  | vmaxF96 (f : FX)
  | vsgn (f : FR)
  | vcmp (f : FR)
  | vcmpF96 (f : FX)
  | vsel (f : FR)
  | vand (f : FR)
  | vandF96 (f : FX)
  | vor (f : FR)
  | vorF96 (f : FX)
  | vxor (f : FR)
  | vxorF96 (f : FX)
  | vshl (f : FR)
  | vshlF96 (f : FX)
  | vshr (f : FR)
  | vshrF96 (f : FX)
  | vsar (f : FR)
  | vsarF96 (f : FX)
  | vred (f : FR)
  | vscan (f : FR)
  | vperm (f : FR)
  | vbcast (f : FI)
  | vbcastF96 (f : FX)
  | vbcastF128 (f : FL)
  | vext (f : FR)
  | vins (f : FR)
  | vcvt (f : FR)
  | vquant (f : FR)
  | vdeq (f : FR)
  | vexp2 (f : FR)
  | vlog2 (f : FR)
  | vrcp (f : FR)
  | vrsq (f : FR)
  | vlut (f : FR)
  | vdot (f : FR)
  | vmov (f : FR)
  | vmovPop (f : FR)
  | vmovPush (f : FR)
  | laccClr (f : FR)
  | laccAdd (f : FR)
  | laccMac (f : FR)
  | laccRd (f : FR)
  | laccMrg (f : FR)
  | sbind (f : FR)
  | sbindF128 (f : FL)
  | sfree (f : FR)
  | sstat (f : FR)
  | send (f : FR)
  | sendF96 (f : FX)
  | sendr (f : FR)
  | hset (f : FR)
  | hmask (f : FR)
  | hmaskF96 (f : FX)
  | launch (f : FR)
  | evset (f : FR)
  | evsetF96 (f : FX)
  | evclr (f : FR)
  | evclrF96 (f : FX)
  | evwait (f : FR)
  | evwaitF96 (f : FX)
  | evtest (f : FR)
  | evtestF96 (f : FX)
  | barrier (f : FR)
  | groupid (f : FR)
  | corenum (f : FR)
  | dopen (f : FR)
  | dclose (f : FR)
  | dabort (f : FR)
  | dstat (f : FR)
  | jwait (f : FR)
  | jwaitF96 (f : FX)
  | jpoll (f : FR)
  | jpollF96 (f : FX)
  | jstat (f : FR)
  | srd (f : FI)
  | swr (f : FI)
  | trap (f : FI)
  | bkpt (f : FI)
  | mark (f : FI)
  | markF96 (f : FX)
  | killg (f : FR)
  | resume (f : FR)
  | pgreply (f : FR)
  | tlbinv (f : FR)
  | loadResponse (id : Nat) (x : Ext)
  | storeAck (id : Nat) (x : Ext)
  | storeFaultReport (id : Nat) (x : Ext)
  | unreachResponse (id : Nat)
  | depositArrival (cid dir : Nat)
  | messageAccept (mid : Nat)
  | payloadComplete (cid chan k : Nat) (crcOk : Bool)
  | select (cid : Nat)
  | agePromotion (cid chan : Nat)
  | actTimeout (cid slot : Nat)
  | waitWake (cid slot : Nat)
  | evwaitWake (cid slot : Nat)
  | jwaitWake (cid slot : Nat)
  | barrierComplete (k : Nat)
  | sendQueueIssue (cid : Nat)
  | messageRefused (mid : Nat) (x : Ext)
  | sendRetry (cid mid : Nat)
  | spillOffer (cid : Nat)
  | spillHeadTimeout (cid : Nat)
  | lmRefresh (cid bank row : Nat)
  | ephemeralSweep (cid row : Nat)
  | remoteCoreAccess (id : Nat)
  | homeAccess (id : Nat)
  | pageWalk (id : Nat)
  | jobAccept (win : Nat)
  | mma (cl : Nat)
  | mzero (cl : Nat)
  | mload (cl : Nat)
  | mstore (cl : Nat)
  | mtcfg (cl : Nat)
  | mtrel (cl : Nat)
  | copy (cl : Nat)
  | conv (cl : Nat)
  | quant (cl : Nat)
  | gather (cl : Nat)
  | scatter (cl : Nat)
  | fill (cl : Nat)
  | jobComplete (eng k : Nat)
  | areduce (sd k : Nat)
  | rscatter (sd k : Nat)
  | agather (sd k : Nat)
  | bcast (sd k : Nat)
  | cearb (sd k : Nat)
  | cefence (sd k : Nat)
  | collectiveGatePoll (sd k : Nat)
  | collectiveListRead (sd k : Nat)
  | collectiveStep (sd k peer : Nat) (data : List (BitVec 64))
  | handlerRun (id : Nat)
  | handlerInstall (n : Nat)
  | handlerRemove (n : Nat)
  | handlerInstallDone (n : Nat)
  | multicastSplit (id : Nat)
  | packetInject (sd k : Nat)
  | intermediateForward (k : Nat)
  | flitReceive (port : Nat) (flit : BitVec 1024)
  | syncSend (port : Nat)
  | syncReceive (port : Nat) (flit : BitVec 1024)
  | linkDown (port : Nat) (peerAck : BitVec 12)
  | linkRetrain (port : Nat)
  | routeTableBuild
  | dieMapUpdate (entry : Nat) (val : BitVec 16)
  | epochFlip
  | epochDrained
  | llcFill (k : Nat)
  | hbmRequest (md k : Nat)
  | refreshSlot (md st q : Nat)
  | allbankRefreshStart (md st q : Nat)
  | allbankRefreshEnd (md st q : Nat)
  | gets (r pline : Nat) (ctx vpn : Nat)
  | getm (r pline : Nat) (ctx vpn : Nat)
  | putm (r pline : Nat) (data : W512 × BitVec 4)
  | puto (r pline : Nat) (data : W512 × BitVec 4)
  | pute (r pline : Nat)
  | puts (r pline : Nat)
  | directoryForward (h ctx vline r : Nat) (excl : Bool)
  | directoryInvalidate (h ctx vline : Nat)
  | foreignRequestReissue (id : Nat)
  | remoteL1Flush (p ctx : Nat) (va : W64) (size : Nat)
  | tlbinvAck (k p : Nat)
  | migrationGo (md : Nat)
  | migrationCommit (md : Nat)
  | migrationClose (md : Nat)
  | mqmaxRead (md : Nat)
  | collectorEnqueue (k : Nat)
  | faultPacketMerge (j k : Nat)
  | collectorPop (sc : Nat)
  | debugWindowWrite (cid off n : Nat) (val : W512)
  | stopRequest (cid : Nat) (val : Bool)
  | stopComplete (cid : Nat)
  | sfqclr (cid : Nat) (val : BitVec 9)
  | dlytclr (cid : Nat) (val : W64)
  | dumpStart (sc : Nat)
  | dumpComplete (sc : Nat)
  | dumpTakeover (sc : Nat)
  | traceSample (cid : Nat)
  | traceDrain (cl : Nat)
  | sinkEvaluate (ctx : Nat)
  | clusterGate (cl : Nat) (forced : Bool)
  | tshRead (ctx : Nat)
  | rloghRead (ctx : Nat)
  | raceSweep (ctx : Nat)
  | raceSweepDone (ctx : Nat)
  | serviceCoreStart (sc : Nat) (pcc : W128) (entry : W64) (caps : List W128)
  | padPacket (ring : Nat)
  | nopPacket (ring : Nat)
  | ctxinit (ring : Nat)
  | ctxfree (ring : Nat)
  | launchPacket (ring : Nat)
  | eventPacket (ring : Nat)
  | resync (ring : Nat)
  | vacate (ring : Nat)
  | ringResume (ring : Nat)
  | ringResumeSkip (ring : Nat)
  | schedulingPass
  | launchRetire (lid : Nat)
  | vacateGraceExpiry (lid : Nat)
  | narrowRemap (lid : Nat)
  | widen (lid : Nat)
  | domainComplete (ctx did : Nat)
  | domainError (ctx did : Nat)
  | domainRestore (ctx did : Nat)
  | rootReissue (ctx did : Nat)
  | parityDelta (egrp : Nat) (o : Nat) (pos : Nat) (isQ : Bool) (delta : W512) (dtag : BitVec 8)
  | esync (val : BitVec 18)
  | esyncDone
  | estatRead
  | lineRepair (pa : Nat) (peers : List (Nat × W512 × BitVec 8))
  | erasureRebuild (pa : Nat) (target : Nat) (peers : List (Nat × W512 × BitVec 8))
  | heartbeat (heard : List Nat)
  | neighbourSilent (p : Nat)
  | lossDeclaration (d : DieRef) (votes : List Nat)
  | selfFence
  | coreRetire (core : Nat) (whole : Bool) (readable : Bool)
  | cdieReplace (die spare : Nat)
  | timeSync (up : Bool)
  | freqStep (die : Nat)
  | relockComplete (die : Nat)
  | droopStretch (die lost : Nat)
  | powerEvaluate (pwr : Nat)
  | pstepPin (level : Bool)
  | powerStep (val : BitVec 16)
  | freqCeilWrite (die : Nat) (val : BitVec 4)
  | droopcClear (die : Nat) (val : W64)
  | counterClear (blk idx : Nat) (val : W64)
  | thermalLimit (die : Nat) (temp : BitVec 16)
  | thermalTrip (die : Nat) (temp : BitVec 16)
  | powerFailTrap
  | drainComplete
  | pfctlRun
  | pfctlDiscard
  | pfheadRead
  | powerOnBoot
  | attest
  | readlog
  | readcert
  | fwload
  | hostWindowAccess (ap off n : Nat) (write : Bool) (val : W512)
  | streamFetch (cid slot st : Nat)
  | streamWrite (cid slot st : Nat)
  | registerWrite (sp : RegSpace) (off : Nat) (val : W64)
  | softError (site : ErrSite)
  | linkLoss (port : Nat) (dead : Bool)
  | dieLoss (d : DieRef)
  | packageReset
  | laccOperationComplete (cid : Nat)
  | perBankRefreshEnd (md st q bank : Nat)
  | hbmRankPowerDown (md st : Nat)
  | clusterWake (cl : Nat)
  | parityDeltaAck (k : Nat)
  | invalidateAck (p pline : Nat) (dirty : Option (W512 × BitVec 4))
  | putAck (h vline ctx : Nat)
  | taskCompletionNotice (ctx did p : Nat)
  | directoryOwnerTimeout (pline : Nat)
  deriving DecidableEq, Repr

end Sys2Proof
end

