-- ==== Sys2Proof/Decode.lean ====
section
/-! DEFINITION. Decoding: from bytes to an instruction or a named refusal, in the order of R85, driven by one table per form
(R76, R82, R83) whose rows give an opcode, the constructor and the check of step 7; then the encoder, from the same tables. -/
namespace Sys2Proof

/-- Why bytes are no instruction (R73, R85); `truncated` when there are fewer bytes than the length asks for. -/
inductive DecodeFault where
  | truncated
  | illegalLength
  | illegalOpcode
  | illegalFormat
  | illegalField
  deriving DecidableEq, Repr

/-- The little-endian value of a byte string (R4). -/
def leNat : List Byte → Nat
  | [] => 0
  | b :: bs => b.toNat + 256 * leNat bs

/-- The `n` little-endian bytes of a value (R4). -/
def leBytes : Nat → Nat → List Byte
  | 0, _ => []
  | n + 1, x => BitVec.ofNat 8 x :: leBytes n (x / 256)

/-- Bits [1:0] of the first word give the length in bytes (R73). -/
def lengthOf (b : BitVec 2) : Option Nat :=
  match b with
  | 0#2 => some 8
  | 1#2 => some 12
  | 2#2 => some 16
  | _ => none

/-! ## What a register field may name (R78) -/

/-- How a form uses a register field: not at all, or as a register of one of the files. `any` leaves the check to the row. -/
inductive Kind where
  | z
  | g
  | v
  | p
  | s
  | any
  deriving DecidableEq, Repr

/-- A register field is in range, or zero if unused (R78). -/
def Kind.ok (k : Kind) (r : RegNo) : Bool :=
  match k with
  | .z => r == 0
  | .g => true
  | .v => r.ult 32
  | .p => r.ult 8
  | .s => r.ult 4
  | .any => true

def kR (f : FR) (d a b c : Kind) : Bool := d.ok f.d && a.ok f.a && b.ok f.b && c.ok f.c
def kI (f : FI) (d a : Kind) : Bool := d.ok f.d && a.ok f.a
def kX (f : FX) (d a b : Kind) : Bool := d.ok f.d && a.ok f.a && b.ok f.b
/-- As for the other forms, with mod[15:12], which no F128 instruction uses, zero (R79). -/
def kL (f : FL) (d a b c : Kind) : Bool := f.mod.extractLsb' 12 4 == 0 && d.ok f.d && a.ok f.a && b.ok f.b && c.ok f.c

/-- OPV (sub[5]) makes d a v register (R133). -/
def kOpv (sub : BitVec 8) (d : RegNo) : Bool := !sub.getLsbD 5 || d.ult 32

/-! ## TYPE codes (R80) -/

def tInt (t : Nat) : Bool := t ≤ 8
def tVint (t : Nat) : Bool := 1 ≤ t && t ≤ 8
def tCarry (t : Nat) : Bool := t == 0 || (5 ≤ t && t ≤ 8)
def tFp (t : Nat) : Bool := 0x0A ≤ t && t ≤ 0x0D
def tFpAll (t : Nat) : Bool := 0x0A ≤ t && t ≤ 0x0F
def tFcvt (t : Nat) : Bool := 0x0A ≤ t && t ≤ 0x10
def tVf (t : Nat) : Bool := 0x0B ≤ t && t ≤ 0x0F
def tAny (t : Nat) : Bool := tVint t || tVf t
def tFp32 (t : Nat) : Bool := 0x0B ≤ t && t ≤ 0x0D
def tGather (t : Nat) : Bool := t == 3 || t == 4 || t == 7 || t == 8 || t == 0x0B
def tLut (t : Nat) : Bool := (1 ≤ t && t ≤ 3) || (5 ≤ t && t ≤ 7) || tVf t
def tDot (t : Nat) : Bool := t == 1 || t == 5 || (0x0C ≤ t && t ≤ 0x0F)
/-- The input formats of a stream (R194). -/
def tStream (t : Nat) : Bool := tVint t || (0x0B ≤ t && t ≤ 0x12)
/-- The types of a VCVT that is no block route (R181). -/
def tVcvt (t : Nat) : Bool := tVint t || (0x0B ≤ t && t ≤ 0x10)

/-- The width in bytes of a TYPE code (R80). -/
def tyBytes (t : Nat) : Nat :=
  match t with
  | 0x01 | 0x05 | 0x0E | 0x0F | 0x10 => 1
  | 0x02 | 0x06 | 0x0C | 0x0D => 2
  | 0x03 | 0x07 | 0x0B => 4
  | 0x09 => 16
  | _ => 8

/-! ## The mod layouts (R79, R81, R114, R121, R133, R189, R201) -/

/-- TYPE of layouts A and M. -/
def tyOf (m : BitVec 12) : Nat := (m.extractLsb' 0 5).toNat
/-- TYPE of the 6-bit mod of ADDI, LI and VBCAST. -/
def tyI (m : BitVec 6) : Nat := (m.extractLsb' 0 5).toNat
/-- RM holds a defined value. -/
def rmOk (m : BitVec 12) : Bool := (m.extractLsb' 5 3).toNat ≤ 5
def layAOpt (types : Nat → Bool) (m : BitVec 12) : Bool := types (tyOf m) && rmOk m
/-- Layout A with OPT zero. -/
def layA (types : Nat → Bool) (m : BitVec 12) : Bool := layAOpt types m && !m.getLsbD 10
/-- Layout A of the long accumulator: OPT, Z and SAT zero (R189). -/
def layL (types : Nat → Bool) (m : BitVec 12) : Bool := layA types m && !m.getLsbD 9 && !m.getLsbD 8
/-- Layout M: SCOPE holds a defined value, and is zero while SCE is 0. -/
def layM (types : Nat → Bool) (m : BitVec 12) : Bool :=
  types (tyOf m) && (m.extractLsb' 7 3).toNat ≤ 5 && (m.getLsbD 10 || m.extractLsb' 7 3 == 0)
/-- A layout of its own: KEEP and the bits of `own`; every other bit zero. -/
def layK (own m : BitVec 12) : Bool := m &&& ~~~(own ||| 0x800) == 0
/-- mod[11:0] of an F128 form; mod[15:12] is reserved in every form that has one (R79, R114). -/
def modL (f : FL) : BitVec 12 := f.mod.extractLsb' 0 12

/-! ## Checks of single instructions -/

/-- A fixed handler has the operand form that its size needs (R158). -/
def hidxOk (sub : BitVec 8) : Bool :=
  let h := (sub.extractLsb' 0 5).toNat
  12 ≤ h || sub.getLsbD 5 == (h == 2)

/-- The conditions of VCMP (R177). -/
def vcmpOk (sub : BitVec 8) (m : BitVec 12) : Bool :=
  if tInt (tyOf m) then sub ≤ 0x0A else sub ≤ 5 || sub == 0x0B || sub == 0x0C

/-- The operation and types of VRED (R187). -/
def vredOk (sub : BitVec 8) (m : BitVec 12) : Bool :=
  let el := (sub.extractLsb' 0 5).toNat
  let op := (sub.extractLsb' 5 3).toNat
  op ≤ 5 && (if tVint el then tyOf m == el else tVf el && (tyOf m == 0x0A || tyOf m == 0x0B) && op ≤ 2)

/-- The types and PART of VCVT, with the block routes (R181, R183). -/
def vcvtOk (sub : BitVec 8) (m : BitVec 12) (d : RegNo) : Bool :=
  let src := (sub.extractLsb' 0 5).toNat
  let part := (sub.extractLsb' 5 3).toNat
  let dst := tyOf m
  if dst == 0x11 || dst == 0x12 then (src == 0x0C || src == 0x0D) && part == 0
  else if src == 0x11 || src == 0x12 then tFp32 dst && part == 0 && (dst != 0x0B || !d.getLsbD 0)
  else tVcvt src && tVcvt dst &&
    part < max (tyBytes src) (tyBytes dst) / min (tyBytes src) (tyBytes dst)

/-- The source type of VQUANT and its field b (R182). -/
def vquantOk (sub : BitVec 8) (b : RegNo) : Bool :=
  (sub == 0x0B && b.ult 32) || ((sub == 0x0C || sub == 0x0D) && b == 0)

/-- The shapes of BARRIER and GROUPID (R214). -/
def shapeOk (sub : BitVec 8) : Bool :=
  sub == 0xFF || ((sub.extractLsb' 0 4).toNat ≤ 8 && (sub.extractLsb' 4 4).toNat ≤ 8)

/-- A loop body holds at least one instruction (R126). -/
def loopOk (len : Int) (off : Int) : Bool := len + 8 ≤ off * 4

/-- Unused bits of a floating immediate are zero (R62). -/
def fpImm16 (t : Nat) (imm : BitVec 32) : Bool := tInt t || imm ≤ 0xFFFF
def fpImm32 (t : Nat) (imm : BitVec 44) : Bool := tInt t || imm ≤ 0xFFFFFFFF

/-- Opcode 0x17 holds five instructions, which sub selects (R83). -/
def bits17 (sub : BitVec 8) (f : FR) : Option Instr :=
  match sub with
  | 0#8 => some (.clz f)
  | 1#8 => some (.ctz f)
  | 2#8 => some (.popc f)
  | 3#8 => some (.brev f)
  | 4#8 => some (.bswap f)
  | _ => none

/-- VMOV copies, pops or pushes by sub (R175, R199). -/
def vmov8E (sub : BitVec 8) (f : FR) : Option Instr :=
  match sub with
  | 0#8 => some (.vmov f)
  | 1#8 => some (.vmovPop f)
  | 2#8 => some (.vmovPush f)
  | _ => none

/-- The register fields of VMOV by sub (R199). -/
def vmovOk (f : FR) : Bool :=
  match f.sub with
  | 0#8 => kR f .v .v .z .z
  | 1#8 => kR f .v .s .z .z
  | 2#8 => kR f .s .v .z .z
  | _ => false

/-! ## The opcode tables (R83) -/

/-- A row: the opcode, the instruction that the fields make (none where sub selects none), and the check of step 7. -/
structure FormRow (F : Type) where
  op : BitVec 8
  make : F → Option Instr
  ok : F → Bool

/-- The row of an opcode. -/
def findRow {F : Type} (op : BitVec 8) : List (FormRow F) → Option (FormRow F)
  | [] => none
  | r :: rs => if r.op == op then some r else findRow op rs

/-- The F64-R forms, part 0. -/
def rowsR0 : List (FormRow FR) :=
  [ ⟨0x01, fun f => some (.add f), fun f => kR f .g .g .g .z && f.sub == 0 && layA tInt f.mod⟩,
    ⟨0x03, fun f => some (.sub f), fun f => kR f .g .g .g .z && f.sub == 0 && layA tInt f.mod⟩,
    ⟨0x04, fun f => some (.addc f), fun f => kR f .g .g .g .g && f.sub == 0 && layAOpt tCarry f.mod⟩,
    ⟨0x05, fun f => some (.subb f), fun f => kR f .g .g .g .g && f.sub == 0 && layAOpt tCarry f.mod⟩,
    ⟨0x06, fun f => some (.mul f), fun f => kR f .g .g .g .z && f.sub == 0 && layAOpt tInt f.mod⟩,
    ⟨0x07, fun f => some (.div f), fun f => kR f .g .g .g .z && f.sub == 0 && layA tInt f.mod⟩,
    ⟨0x08, fun f => some (.rem f), fun f => kR f .g .g .g .z && f.sub == 0 && layA tInt f.mod⟩,
    ⟨0x09, fun f => some (.negR f), fun f => kR f .g .g .z .z && f.sub == 0 && layA tInt f.mod⟩,
    ⟨0x0A, fun f => some (.absR f), fun f => kR f .g .g .z .z && f.sub == 0 && layA (fun t => t ≤ 4) f.mod⟩,
    ⟨0x0B, fun f => some (.minR f), fun f => kR f .g .g .g .z && f.sub == 0 && layA tInt f.mod⟩,
    ⟨0x0C, fun f => some (.maxR f), fun f => kR f .g .g .g .z && f.sub == 0 && layA tInt f.mod⟩,
    ⟨0x0D, fun f => some (.andR f), fun f => kR f .g .g .g .z && f.sub == 0 && layA tInt f.mod⟩,
    ⟨0x0E, fun f => some (.orR f), fun f => kR f .g .g .g .z && f.sub == 0 && layA tInt f.mod⟩,
    ⟨0x0F, fun f => some (.xorR f), fun f => kR f .g .g .g .z && f.sub == 0 && layA tInt f.mod⟩,
    ⟨0x10, fun f => some (.andn f), fun f => kR f .g .g .g .z && f.sub == 0 && layA tInt f.mod⟩,
    ⟨0x11, fun f => some (.orn f), fun f => kR f .g .g .g .z && f.sub == 0 && layA tInt f.mod⟩ ]

/-- The F64-R forms, part 1. -/
def rowsR1 : List (FormRow FR) :=
  [ ⟨0x12, fun f => some (.shl f), fun f => kR f .g .g .g .z && f.sub == 0 && layA tInt f.mod⟩,
    ⟨0x13, fun f => some (.shr f), fun f => kR f .g .g .g .z && f.sub == 0 && layA tInt f.mod⟩,
    ⟨0x14, fun f => some (.sar f), fun f => kR f .g .g .g .z && f.sub == 0 && layA tInt f.mod⟩,
    ⟨0x15, fun f => some (.rol f), fun f => kR f .g .g .g .z && f.sub == 0 && layA tInt f.mod⟩,
    ⟨0x16, fun f => some (.ror f), fun f => kR f .g .g .g .z && f.sub == 0 && layA tInt f.mod⟩,
    ⟨0x17, fun f => bits17 f.sub f, fun f => kR f .g .g .z .z && f.sub ≤ 4 && layA tInt f.mod⟩,
    ⟨0x18, fun f => some (.bfx f), fun f => kR f .g .g .g .z && f.sub == 0 && layA (fun t => t == 0 || t == 4 || t == 8) f.mod⟩,
    ⟨0x19, fun f => some (.bfi f), fun f => kR f .g .g .g .g && f.sub == 0 && layA (fun t => t == 0) f.mod⟩,
    ⟨0x1A, fun f => some (.sel f), fun f => kR f .g .g .g .p && f.sub == 0 && layA (fun t => t == 0) f.mod⟩,
    ⟨0x1B, fun f => some (.cmp f), fun f => kR f .p .g .g .z && f.sub ≤ 0x0A && layA tInt f.mod⟩,
    ⟨0x1D, fun f => some (.mov f), fun f => kR f .g .g .z .z && f.sub == 0 && layA (fun t => t == 0) f.mod⟩,
    ⟨0x20, fun f => some (.cbound f), fun f => kR f .g .g .g .z && f.sub == 0 && layK 1 f.mod⟩,
    ⟨0x21, fun f => some (.cperm f), fun f => kR f .g .g .g .z && f.sub == 0 && layK 0 f.mod⟩,
    ⟨0x22, fun f => some (.coff f), fun f => kR f .g .g .g .z && f.sub == 0 && layK 0 f.mod⟩,
    ⟨0x23, fun f => some (.cseta f), fun f => kR f .g .g .g .z && f.sub == 0 && layK 0 f.mod⟩,
    ⟨0x24, fun f => some (.cget f), fun f => kR f .g .g .z .z && f.sub ≤ 5 && layK 0 f.mod⟩ ]

/-- The F64-R forms, part 2. -/
def rowsR2 : List (FormRow FR) :=
  [ ⟨0x25, fun f => some (.cclr f), fun f => kR f .g .g .z .z && f.sub == 0 && layK 0 f.mod⟩,
    ⟨0x26, fun f => some (.cchan f), fun f => kR f .g .g .g .z && f.sub == 0 && layK 0 f.mod⟩,
    ⟨0x27, fun f => some (.csub f), fun f => kR f .g .g .g .z && f.sub == 0 && layK 0 f.mod⟩,
    ⟨0x30, fun f => some (.nop f), fun f => kR f .z .z .z .z && f.sub == 0 && f.mod == 0⟩,
    ⟨0x34, fun f => some (.jmp f), fun f => kR f .g .g .z .z && f.sub == 0 && layK 0 f.mod⟩,
    ⟨0x35, fun f => some (.ret f), fun f => kR f .z .g .z .z && f.sub == 0 && layK 0 f.mod⟩,
    ⟨0x37, fun f => some (.wait f), fun f => kR f .g .g .z .z && f.sub != 0 && f.sub ≤ 0xF && (f.sub.getLsbD 2 || f.a == 0) && layK 0 f.mod⟩,
    ⟨0x38, fun f => some (.yield f), fun f => kR f .z .z .z .z && f.sub == 0 && layK 0 f.mod⟩,
    ⟨0x39, fun f => some (.actend f), fun f => kR f .z .z .z .z && f.sub == 0 && layK 0 f.mod⟩,
    ⟨0x40, fun f => some (.ld f), fun f => kR f .g .g .g .z && f.sub &&& 0x7F == 0 && layM (fun t => t ≤ 9) f.mod⟩,
    ⟨0x41, fun f => some (.st f), fun f => kR f .g .g .g .z && f.sub &&& 0x7F == 0 && layM (fun t => t ≤ 9) f.mod⟩,
    ⟨0x42, fun f => some (.ldv f), fun f => kR f .v .g .g .z && f.sub &&& 0x7F == 0 && layM (fun t => t == 0) f.mod⟩,
    ⟨0x43, fun f => some (.stv f), fun f => kR f .v .g .g .z && f.sub &&& 0x7F == 0 && layM (fun t => t == 0) f.mod⟩,
    ⟨0x44, fun f => some (.ldvg f), fun f => kR f .v .g .v .p && f.sub &&& 0x7F == 0 && layM tGather f.mod⟩,
    ⟨0x45, fun f => some (.stvs f), fun f => kR f .v .g .v .p && f.sub &&& 0x7F == 0 && layM tGather f.mod⟩,
    ⟨0x46, fun f => some (.ldc f), fun f => kR f .g .g .g .z && f.sub &&& 0x7F == 0 && layM (fun t => t == 0) f.mod⟩ ]

/-- The F64-R forms, part 3. -/
def rowsR3 : List (FormRow FR) :=
  [ ⟨0x47, fun f => some (.stc f), fun f => kR f .g .g .g .z && f.sub &&& 0x7F == 0 && layM (fun t => t == 0) f.mod⟩,
    ⟨0x48, fun f => some (.pref f), fun f => kR f .z .g .g .z && f.sub &&& 0x7E == 0 && layM (fun t => t == 0) f.mod⟩,
    ⟨0x49, fun f => some (.touch f), fun f => kR f .z .g .g .z && f.sub &&& 0x7E == 0 && layM (fun t => t == 0) f.mod⟩,
    ⟨0x4A, fun f => some (.fence f), fun f => kR f .z .z .z .z && f.sub &&& 0x7F == 0 && layM (fun t => t == 0) f.mod⟩,
    ⟨0x4B, fun f => some (.drain f), fun f => kR f .z .z .z .z && f.sub &&& 0x7F == 0 && layK 0 f.mod⟩,
    ⟨0x4C, fun f => some (.amo f), fun f => kR f .any .g .g .z && kOpv f.sub f.d && f.sub &&& 0x40 == 0 && hidxOk f.sub && layM (fun t => t == 0) f.mod⟩,
    ⟨0x4D, fun f => some (.amof f), fun f => kR f .any .g .g .z && kOpv f.sub f.d && f.sub &&& 0x40 == 0 && hidxOk f.sub && layM (fun t => t == 0) f.mod⟩,
    ⟨0x4E, fun f => some (.cas f), fun f => kR f .g .g .g .g && f.sub &&& 0x7F == 0 && layM (fun t => t == 0 || t == 4 || t == 8 || t == 9) f.mod⟩,
    ⟨0x4F, fun f => some (.mcst f), fun f => kR f .any .g .v .g && kOpv f.sub f.d && f.sub &&& 0x5F == 0 && !f.b.getLsbD 0 && layM (fun t => t ≤ 9 && (t == 0 || !f.sub.getLsbD 5)) f.mod⟩,
    ⟨0x50, fun f => some (.mred f), fun f => kR f .any .g .v .g && kOpv f.sub f.d && f.sub &&& 0x40 == 0 && hidxOk f.sub && !f.b.getLsbD 0 && layM (fun t => t == 0) f.mod⟩,
    ⟨0x51, fun f => some (.l1inv f), fun f => kR f .z .g .g .z && f.sub &&& 0x7F == 0 && layK 0 f.mod⟩,
    ⟨0x52, fun f => some (.l1wb f), fun f => kR f .z .g .g .z && f.sub &&& 0x7F == 0 && layK 0 f.mod⟩,
    ⟨0x60, fun f => some (.fadd f), fun f => kR f .g .g .g .z && f.sub == 0 && layA tFp f.mod⟩,
    ⟨0x61, fun f => some (.fsub f), fun f => kR f .g .g .g .z && f.sub == 0 && layA tFp f.mod⟩,
    ⟨0x62, fun f => some (.fmul f), fun f => kR f .g .g .g .z && f.sub == 0 && layA tFp f.mod⟩,
    ⟨0x63, fun f => some (.fma f), fun f => kR f .g .g .g .g && f.sub ≤ 3 && layA tFp f.mod⟩ ]

/-- The F64-R forms, part 4. -/
def rowsR4 : List (FormRow FR) :=
  [ ⟨0x64, fun f => some (.fdiv f), fun f => kR f .g .g .g .z && f.sub == 0 && layA tFp f.mod⟩,
    ⟨0x65, fun f => some (.fsqrt f), fun f => kR f .g .g .z .z && f.sub == 0 && layA tFp f.mod⟩,
    ⟨0x66, fun f => some (.fmin f), fun f => kR f .g .g .g .z && f.sub == 0 && layA tFp f.mod⟩,
    ⟨0x67, fun f => some (.fmax f), fun f => kR f .g .g .g .z && f.sub == 0 && layA tFp f.mod⟩,
    ⟨0x68, fun f => some (.fsgn f), fun f => kR f .g .g .g .z && f.sub ≤ 2 && layA tFp f.mod⟩,
    ⟨0x69, fun f => some (.fcmp f), fun f => kR f .p .g .g .z && f.sub ≤ 7 && layA tFp f.mod⟩,
    ⟨0x6A, fun f => some (.fclass f), fun f => kR f .g .g .z .z && f.sub == 0 && layA tFpAll f.mod⟩,
    ⟨0x6B, fun f => some (.fcvt f), fun f => kR f .g .g .z .z && tFcvt f.sub.toNat && layA tFcvt f.mod⟩,
    ⟨0x6C, fun f => some (.ftoi f), fun f => kR f .g .g .z .z && tFpAll f.sub.toNat && layA tInt f.mod⟩,
    ⟨0x6D, fun f => some (.itof f), fun f => kR f .g .g .z .z && tInt f.sub.toNat && layA tFpAll f.mod⟩,
    ⟨0x6E, fun f => some (.fround f), fun f => kR f .g .g .z .z && f.sub == 0 && layA tFp f.mod⟩,
    ⟨0x70, fun f => some (.vadd f), fun f => kR f .v .v .v .z && f.sub == 0 && layA tAny f.mod⟩,
    ⟨0x71, fun f => some (.vsub f), fun f => kR f .v .v .v .z && f.sub == 0 && layA tAny f.mod⟩,
    ⟨0x72, fun f => some (.vmul f), fun f => kR f .v .v .v .z && f.sub == 0 && layA tAny f.mod⟩,
    ⟨0x73, fun f => some (.vfma f), fun f => kR f .v .v .v .v && f.sub ≤ 3 && layA tVf f.mod⟩,
    ⟨0x74, fun f => some (.vmin f), fun f => kR f .v .v .v .z && f.sub == 0 && layA tAny f.mod⟩ ]

/-- The F64-R forms, part 5. -/
def rowsR5 : List (FormRow FR) :=
  [ ⟨0x75, fun f => some (.vmax f), fun f => kR f .v .v .v .z && f.sub == 0 && layA tAny f.mod⟩,
    ⟨0x76, fun f => some (.vsgn f), fun f => kR f .v .v .v .z && f.sub ≤ 2 && layA tVf f.mod⟩,
    ⟨0x77, fun f => some (.vcmp f), fun f => kR f .p .v .v .z && vcmpOk f.sub f.mod && layA tAny f.mod⟩,
    ⟨0x78, fun f => some (.vsel f), fun f => kR f .v .v .v .p && f.sub == 0 && layA tAny f.mod⟩,
    ⟨0x79, fun f => some (.vand f), fun f => kR f .v .v .v .z && f.sub == 0 && layA tVint f.mod⟩,
    ⟨0x7A, fun f => some (.vor f), fun f => kR f .v .v .v .z && f.sub == 0 && layA tVint f.mod⟩,
    ⟨0x7B, fun f => some (.vxor f), fun f => kR f .v .v .v .z && f.sub == 0 && layA tVint f.mod⟩,
    ⟨0x7C, fun f => some (.vshl f), fun f => kR f .v .v .v .z && f.sub == 0 && layA tVint f.mod⟩,
    ⟨0x7D, fun f => some (.vshr f), fun f => kR f .v .v .v .z && f.sub == 0 && layA tVint f.mod⟩,
    ⟨0x7E, fun f => some (.vsar f), fun f => kR f .v .v .v .z && f.sub == 0 && layA tVint f.mod⟩,
    ⟨0x7F, fun f => some (.vred f), fun f => kR f .g .v .z .z && vredOk f.sub f.mod && layA (fun t => tVint t || t == 0x0A || t == 0x0B) f.mod⟩,
    ⟨0x80, fun f => some (.vscan f), fun f => kR f .v .v .z .z && (f.sub == 0 || f.sub == 0x20 || f.sub == 0x40) && layA (fun t => tVint t || t == 0x0B) f.mod⟩,
    ⟨0x81, fun f => some (.vperm f), fun f => kR f .v .v .v .v && f.sub == 0 && layA tAny f.mod⟩,
    ⟨0x83, fun f => some (.vext f), fun f => kR f .g .v .g .z && f.sub == 0 && layA tAny f.mod⟩,
    ⟨0x84, fun f => some (.vins f), fun f => kR f .v .g .g .z && f.sub == 0 && layA tAny f.mod⟩,
    ⟨0x85, fun f => some (.vcvt f), fun f => kR f .v .v .z .z && vcvtOk f.sub f.mod f.d && layA (fun t => 1 ≤ t && t ≤ 0x12) f.mod⟩ ]

/-- The F64-R forms, part 6. -/
def rowsR6 : List (FormRow FR) :=
  [ ⟨0x86, fun f => some (.vquant f), fun f => kR f .v .v .any .z && vquantOk f.sub f.b && layA (fun t => t == 0x11 || t == 0x12) f.mod⟩,
    ⟨0x87, fun f => some (.vdeq f), fun f => kR f .v .v .z .z && (f.sub == 0x11 || f.sub == 0x12) && (tyOf f.mod != 0x0B || !f.d.getLsbD 0) && layA tFp32 f.mod⟩,
    ⟨0x88, fun f => some (.vexp2 f), fun f => kR f .v .v .z .z && f.sub == 0 && layA tFp32 f.mod⟩,
    ⟨0x89, fun f => some (.vlog2 f), fun f => kR f .v .v .z .z && f.sub == 0 && layA tFp32 f.mod⟩,
    ⟨0x8A, fun f => some (.vrcp f), fun f => kR f .v .v .z .z && f.sub == 0 && layA tFp32 f.mod⟩,
    ⟨0x8B, fun f => some (.vrsq f), fun f => kR f .v .v .z .z && f.sub == 0 && layA tFp32 f.mod⟩,
    ⟨0x8C, fun f => some (.vlut f), fun f => kR f .v .v .v .z && f.sub == 0 && layA tLut f.mod⟩,
    ⟨0x8D, fun f => some (.vdot f), fun f => kR f .v .v .v .v && f.sub == 0 && layA tDot f.mod⟩,
    ⟨0x8E, fun f => vmov8E f.sub f, fun f => layA tAny f.mod && vmovOk f⟩,
    ⟨0xB0, fun f => some (.laccClr f), fun f => kR f .z .g .g .z && f.sub == 0 && layL (fun t => t == 0) f.mod⟩,
    ⟨0xB1, fun f => some (.laccAdd f), fun f => kR f .z .g .g .g && f.sub == 0 && layL tFp32 f.mod⟩,
    ⟨0xB2, fun f => some (.laccMac f), fun f => kR f .g .g .g .g && f.sub == 0 && layL (fun t => t == 0x0B) f.mod⟩,
    ⟨0xB3, fun f => some (.laccRd f), fun f => kR f .g .g .g .z && f.sub == 0 && layL (fun t => t == 0x0A || t == 0x0B) f.mod⟩,
    ⟨0xB4, fun f => some (.laccMrg f), fun f => kR f .z .g .g .g && f.sub == 0 && layL (fun t => t == 0) f.mod⟩,
    ⟨0xB8, fun f => some (.sbind f), fun f => kR f .s .g .v .z && f.sub == 0 && layK 1 f.mod⟩,
    ⟨0xB9, fun f => some (.sfree f), fun f => kR f .z .s .z .z && f.sub == 0 && layK 0 f.mod⟩ ]

/-- The F64-R forms, part 7. -/
def rowsR7 : List (FormRow FR) :=
  [ ⟨0xBA, fun f => some (.sstat f), fun f => kR f .g .s .z .z && f.sub == 0 && layK 0 f.mod⟩,
    ⟨0xC0, fun f => some (.send f), fun f => kR f .g .any .g .z && (if f.sub.getLsbD 0 then Kind.g else Kind.v).ok f.a && !f.sub.getLsbD 7 && layK 0 f.mod⟩,
    ⟨0xC1, fun f => some (.sendr f), fun f => kR f .any .g .z .z && 56 ≤ f.d && f.sub ≤ 0xF && layK 0 f.mod⟩,
    ⟨0xC2, fun f => some (.hset f), fun f => kR f .g .g .z .z && f.sub ≤ 0x1F && layK 0 f.mod⟩,
    ⟨0xC3, fun f => some (.hmask f), fun f => kR f .g .g .g .z && f.sub == 0 && layK 0 f.mod⟩,
    ⟨0xC4, fun f => some (.launch f), fun f => kR f .g .v .g .g && !f.a.getLsbD 0 && f.sub == 0 && layK 0 f.mod⟩,
    ⟨0xC5, fun f => some (.evset f), fun f => kR f .g .z .g .z && f.sub ≤ 3 && layK 0 f.mod⟩,
    ⟨0xC6, fun f => some (.evclr f), fun f => kR f .g .z .g .z && f.sub ≤ 3 && layK 0 f.mod⟩,
    ⟨0xC7, fun f => some (.evwait f), fun f => kR f .g .z .g .z && f.sub ≤ 7 && layK 0 f.mod⟩,
    ⟨0xC8, fun f => some (.evtest f), fun f => kR f .g .z .g .z && f.sub ≤ 3 && layK 0 f.mod⟩,
    ⟨0xC9, fun f => some (.barrier f), fun f => kR f .z .z .z .z && shapeOk f.sub && layK 0 f.mod⟩,
    ⟨0xCA, fun f => some (.groupid f), fun f => kR f .g .z .z .z && shapeOk f.sub && layK 0 f.mod⟩,
    ⟨0xCB, fun f => some (.corenum f), fun f => kR f .g .z .z .z && f.sub == 0 && layK 0 f.mod⟩,
    ⟨0xD0, fun f => some (.dopen f), fun f => kR f .g .g .g .z && f.sub == 0 && layK 0 f.mod⟩,
    ⟨0xD1, fun f => some (.dclose f), fun f => kR f .g .g .z .z && f.sub == 0 && layK 0 f.mod⟩,
    ⟨0xD2, fun f => some (.dabort f), fun f => kR f .g .g .z .z && f.sub ≤ 1 && layK 0 f.mod⟩ ]

/-- The F64-R forms, part 8. -/
def rowsR8 : List (FormRow FR) :=
  [ ⟨0xD3, fun f => some (.dstat f), fun f => kR f .g .g .z .z && f.sub ≤ 1 && layK 0 f.mod⟩,
    ⟨0xD8, fun f => some (.jwait f), fun f => kR f .g .z .g .z && f.sub == 0 && layK 0 f.mod⟩,
    ⟨0xD9, fun f => some (.jpoll f), fun f => kR f .p .z .g .z && f.sub == 0 && layK 0 f.mod⟩,
    ⟨0xDA, fun f => some (.jstat f), fun f => kR f .g .z .g .z && f.sub ≤ 1 && layK 0 f.mod⟩,
    ⟨0xE8, fun f => some (.killg f), fun f => kR f .g .g .g .z && f.sub == 0 && layK 0 f.mod⟩,
    ⟨0xE9, fun f => some (.resume f), fun f => kR f .g .g .z .z && f.sub ≤ 1 && layK 0 f.mod⟩,
    ⟨0xEA, fun f => some (.pgreply f), fun f => kR f .g .g .g .z && f.sub == 0 && layK 0 f.mod⟩,
    ⟨0xEB, fun f => some (.tlbinv f), fun f => kR f .g .g .g .z && f.sub == 0 && layK 0 f.mod⟩ ]

/-- The F64-R forms. -/
def rowsR : List (FormRow FR) := rowsR0 ++ rowsR1 ++ rowsR2 ++ rowsR3 ++ rowsR4 ++ rowsR5 ++ rowsR6 ++ rowsR7 ++ rowsR8

/-- The F64-I forms, part 0. -/
def rowsI0 : List (FormRow FI) :=
  [ ⟨0x02, fun f => some (.addi f), fun f => kI f .g .g && tInt (tyI f.mod)⟩,
    ⟨0x1C, fun f => some (.li f), fun f => kI f .g .z && tInt (tyI f.mod)⟩,
    ⟨0x31, fun f => some (.b f), fun f => kI f .z .z && f.mod == 0⟩,
    ⟨0x32, fun f => some (.bp f), fun f => kI f .any .any && f.d == 0 && 56 ≤ f.a && f.mod ≤ 1⟩,
    ⟨0x33, fun f => some (.call f), fun f => kI f .z .z && f.mod == 0⟩,
    ⟨0x36, fun f => some (.loop f), fun f => kI f .z .g && f.mod == 0 && loopOk 8 f.imm.toInt⟩,
    ⟨0x82, fun f => some (.vbcast f), fun f => kI f .v .g && tAny (tyI f.mod) && (if f.a == 0 then fpImm16 (tyI f.mod) f.imm else f.imm == 0)⟩,
    ⟨0xE0, fun f => some (.srd f), fun f => kI f .g .z && f.mod == 0 && f.imm ≤ 0xFFF⟩,
    ⟨0xE1, fun f => some (.swr f), fun f => kI f .z .g && f.mod == 0 && f.imm ≤ 0xFFF⟩,
    ⟨0xE2, fun f => some (.trap f), fun f => kI f .z .z && f.mod == 0⟩,
    ⟨0xE3, fun f => some (.bkpt f), fun f => kI f .z .z && f.mod == 0 && f.imm ≤ 0xFFFF⟩,
    ⟨0xE4, fun f => some (.mark f), fun f => kI f .z .g && f.mod == 0⟩ ]

/-- The F64-I forms. -/
def rowsI : List (FormRow FI) := rowsI0

/-- The F96 forms, part 0. -/
def rowsX0 : List (FormRow FX) :=
  [ ⟨0x02, fun f => some (.addiF96 f), fun f => kX f .g .g .z && f.sub == 0 && layA tInt f.mod⟩,
    ⟨0x0B, fun f => some (.minF96 f), fun f => kX f .g .g .z && f.sub == 0 && layA tInt f.mod⟩,
    ⟨0x0C, fun f => some (.maxF96 f), fun f => kX f .g .g .z && f.sub == 0 && layA tInt f.mod⟩,
    ⟨0x0D, fun f => some (.andF96 f), fun f => kX f .g .g .z && f.sub == 0 && layA tInt f.mod⟩,
    ⟨0x0E, fun f => some (.orF96 f), fun f => kX f .g .g .z && f.sub == 0 && layA tInt f.mod⟩,
    ⟨0x0F, fun f => some (.xorF96 f), fun f => kX f .g .g .z && f.sub == 0 && layA tInt f.mod⟩,
    ⟨0x12, fun f => some (.shlF96 f), fun f => kX f .g .g .z && f.sub == 0 && layA tInt f.mod⟩,
    ⟨0x13, fun f => some (.shrF96 f), fun f => kX f .g .g .z && f.sub == 0 && layA tInt f.mod⟩,
    ⟨0x14, fun f => some (.sarF96 f), fun f => kX f .g .g .z && f.sub == 0 && layA tInt f.mod⟩,
    ⟨0x15, fun f => some (.rolF96 f), fun f => kX f .g .g .z && f.sub == 0 && layA tInt f.mod⟩,
    ⟨0x16, fun f => some (.rorF96 f), fun f => kX f .g .g .z && f.sub == 0 && layA tInt f.mod⟩,
    ⟨0x1B, fun f => some (.cmpF96 f), fun f => kX f .p .g .z && f.sub ≤ 0x0A && layA tInt f.mod⟩,
    ⟨0x1C, fun f => some (.liF96 f), fun f => kX f .g .z .z && f.sub == 0 && layA tInt f.mod⟩,
    ⟨0x20, fun f => some (.cboundF96 f), fun f => kX f .g .g .z && f.sub == 0 && layK 1 f.mod⟩,
    ⟨0x21, fun f => some (.cpermF96 f), fun f => kX f .g .g .z && f.sub == 0 && layK 0 f.mod && f.imm ≤ 0xFFF⟩,
    ⟨0x22, fun f => some (.coffF96 f), fun f => kX f .g .g .z && f.sub == 0 && layK 0 f.mod⟩ ]

/-- The F96 forms, part 1. -/
def rowsX1 : List (FormRow FX) :=
  [ ⟨0x23, fun f => some (.csetaF96 f), fun f => kX f .g .g .z && f.sub == 0 && layK 0 f.mod⟩,
    ⟨0x26, fun f => some (.cchanF96 f), fun f => kX f .g .g .z && f.sub == 0 && layK 0 f.mod && f.imm ≤ 0x1F⟩,
    ⟨0x30, fun f => some (.nopF96 f), fun f => kX f .z .z .z && f.sub == 0 && f.mod == 0 && f.imm == 0⟩,
    ⟨0x31, fun f => some (.bF96 f), fun f => kX f .z .z .z && f.sub == 0 && layK 0 f.mod⟩,
    ⟨0x32, fun f => some (.bpF96 f), fun f => kX f .z .any .z && 56 ≤ f.a && f.sub == 0 && layK 1 f.mod⟩,
    ⟨0x33, fun f => some (.callF96 f), fun f => kX f .z .z .z && f.sub == 0 && layK 0 f.mod⟩,
    ⟨0x36, fun f => some (.loopF96 f), fun f => kX f .z .g .z && f.sub == 0 && layK 0 f.mod && loopOk 12 f.imm.toInt⟩,
    ⟨0x40, fun f => some (.ldF96 f), fun f => kX f .g .g .z && f.sub &&& 0x7F == 0 && layM (fun t => t ≤ 9) f.mod⟩,
    ⟨0x41, fun f => some (.stF96 f), fun f => kX f .g .g .z && f.sub &&& 0x7F == 0 && layM (fun t => t ≤ 9) f.mod⟩,
    ⟨0x42, fun f => some (.ldvF96 f), fun f => kX f .v .g .z && f.sub &&& 0x7F == 0 && layM (fun t => t == 0) f.mod⟩,
    ⟨0x43, fun f => some (.stvF96 f), fun f => kX f .v .g .z && f.sub &&& 0x7F == 0 && layM (fun t => t == 0) f.mod⟩,
    ⟨0x46, fun f => some (.ldcF96 f), fun f => kX f .g .g .z && f.sub &&& 0x7F == 0 && layM (fun t => t == 0) f.mod⟩,
    ⟨0x47, fun f => some (.stcF96 f), fun f => kX f .g .g .z && f.sub &&& 0x7F == 0 && layM (fun t => t == 0) f.mod⟩,
    ⟨0x48, fun f => some (.prefF96 f), fun f => kX f .z .g .z && f.sub &&& 0x7E == 0 && layM (fun t => t == 0) f.mod⟩,
    ⟨0x49, fun f => some (.touchF96 f), fun f => kX f .z .g .z && f.sub &&& 0x7E == 0 && layM (fun t => t == 0) f.mod⟩,
    ⟨0x4C, fun f => some (.amoF96 f), fun f => kX f .any .g .z && kOpv f.sub f.d && f.sub &&& 0x40 == 0 && hidxOk f.sub && layM (fun t => t == 0) f.mod⟩ ]

/-- The F96 forms, part 2. -/
def rowsX2 : List (FormRow FX) :=
  [ ⟨0x4D, fun f => some (.amofF96 f), fun f => kX f .any .g .z && kOpv f.sub f.d && f.sub &&& 0x40 == 0 && hidxOk f.sub && layM (fun t => t == 0) f.mod⟩,
    ⟨0x4F, fun f => some (.mcstF96 f), fun f => kX f .any .g .v && kOpv f.sub f.d && f.sub &&& 0x5F == 0 && !f.b.getLsbD 0 && layM (fun t => t ≤ 9 && (t == 0 || !f.sub.getLsbD 5)) f.mod⟩,
    ⟨0x50, fun f => some (.mredF96 f), fun f => kX f .any .g .v && kOpv f.sub f.d && f.sub &&& 0x40 == 0 && hidxOk f.sub && !f.b.getLsbD 0 && layM (fun t => t == 0) f.mod⟩,
    ⟨0x60, fun f => some (.faddF96 f), fun f => kX f .g .g .z && f.sub == 0 && layA tFp f.mod && f.imm ≤ 0xFFFFFFFF⟩,
    ⟨0x61, fun f => some (.fsubF96 f), fun f => kX f .g .g .z && f.sub == 0 && layA tFp f.mod && f.imm ≤ 0xFFFFFFFF⟩,
    ⟨0x62, fun f => some (.fmulF96 f), fun f => kX f .g .g .z && f.sub == 0 && layA tFp f.mod && f.imm ≤ 0xFFFFFFFF⟩,
    ⟨0x66, fun f => some (.fminF96 f), fun f => kX f .g .g .z && f.sub == 0 && layA tFp f.mod && f.imm ≤ 0xFFFFFFFF⟩,
    ⟨0x67, fun f => some (.fmaxF96 f), fun f => kX f .g .g .z && f.sub == 0 && layA tFp f.mod && f.imm ≤ 0xFFFFFFFF⟩,
    ⟨0x69, fun f => some (.fcmpF96 f), fun f => kX f .p .g .z && f.sub ≤ 7 && layA tFp f.mod && f.imm ≤ 0xFFFFFFFF⟩,
    ⟨0x70, fun f => some (.vaddF96 f), fun f => kX f .v .v .z && f.sub == 0 && layA tAny f.mod && fpImm32 (tyOf f.mod) f.imm⟩,
    ⟨0x71, fun f => some (.vsubF96 f), fun f => kX f .v .v .z && f.sub == 0 && layA tAny f.mod && fpImm32 (tyOf f.mod) f.imm⟩,
    ⟨0x72, fun f => some (.vmulF96 f), fun f => kX f .v .v .z && f.sub == 0 && layA tAny f.mod && fpImm32 (tyOf f.mod) f.imm⟩,
    ⟨0x74, fun f => some (.vminF96 f), fun f => kX f .v .v .z && f.sub == 0 && layA tAny f.mod && fpImm32 (tyOf f.mod) f.imm⟩,
    ⟨0x75, fun f => some (.vmaxF96 f), fun f => kX f .v .v .z && f.sub == 0 && layA tAny f.mod && fpImm32 (tyOf f.mod) f.imm⟩,
    ⟨0x77, fun f => some (.vcmpF96 f), fun f => kX f .p .v .z && vcmpOk f.sub f.mod && layA tAny f.mod && fpImm32 (tyOf f.mod) f.imm⟩,
    ⟨0x79, fun f => some (.vandF96 f), fun f => kX f .v .v .z && f.sub == 0 && layA tVint f.mod⟩ ]

/-- The F96 forms, part 3. -/
def rowsX3 : List (FormRow FX) :=
  [ ⟨0x7A, fun f => some (.vorF96 f), fun f => kX f .v .v .z && f.sub == 0 && layA tVint f.mod⟩,
    ⟨0x7B, fun f => some (.vxorF96 f), fun f => kX f .v .v .z && f.sub == 0 && layA tVint f.mod⟩,
    ⟨0x7C, fun f => some (.vshlF96 f), fun f => kX f .v .v .z && f.sub == 0 && layA tVint f.mod⟩,
    ⟨0x7D, fun f => some (.vshrF96 f), fun f => kX f .v .v .z && f.sub == 0 && layA tVint f.mod⟩,
    ⟨0x7E, fun f => some (.vsarF96 f), fun f => kX f .v .v .z && f.sub == 0 && layA tVint f.mod⟩,
    ⟨0x82, fun f => some (.vbcastF96 f), fun f => kX f .v .g .z && f.sub == 0 && layA tAny f.mod && (if f.a == 0 then fpImm32 (tyOf f.mod) f.imm else f.imm == 0)⟩,
    ⟨0xC0, fun f => some (.sendF96 f), fun f => kX f .g .any .z && (if f.sub.getLsbD 0 then Kind.g else Kind.v).ok f.a && !f.sub.getLsbD 7 && layK 0 f.mod⟩,
    ⟨0xC3, fun f => some (.hmaskF96 f), fun f => kX f .g .g .z && f.sub == 0 && layK 0 f.mod && f.imm ≤ 0xFFFFFFFF⟩,
    ⟨0xC5, fun f => some (.evsetF96 f), fun f => kX f .g .z .z && f.sub ≤ 3 && layK 0 f.mod⟩,
    ⟨0xC6, fun f => some (.evclrF96 f), fun f => kX f .g .z .z && f.sub ≤ 3 && layK 0 f.mod⟩,
    ⟨0xC7, fun f => some (.evwaitF96 f), fun f => kX f .g .z .z && f.sub ≤ 7 && layK 0 f.mod⟩,
    ⟨0xC8, fun f => some (.evtestF96 f), fun f => kX f .g .z .z && f.sub ≤ 3 && layK 0 f.mod⟩,
    ⟨0xD8, fun f => some (.jwaitF96 f), fun f => kX f .g .z .z && f.sub == 0 && layK 0 f.mod && f.imm ≤ 0xFFFF⟩,
    ⟨0xD9, fun f => some (.jpollF96 f), fun f => kX f .p .z .z && f.sub == 0 && layK 0 f.mod && f.imm ≤ 0xFFFF⟩,
    ⟨0xE4, fun f => some (.markF96 f), fun f => kX f .z .g .z && f.sub == 0 && layK 0 f.mod⟩ ]

/-- The F96 forms. -/
def rowsX : List (FormRow FX) := rowsX0 ++ rowsX1 ++ rowsX2 ++ rowsX3

/-- The F128 forms, part 0. -/
def rowsL0 : List (FormRow FL) :=
  [ ⟨0x02, fun f => some (.addiF128 f), fun f => kL f .g .g .z .z && f.sub == 0 && layA tInt (modL f)⟩,
    ⟨0x1C, fun f => some (.liF128 f), fun f => kL f .g .z .z .z && f.sub == 0 && layA tInt (modL f)⟩,
    ⟨0x22, fun f => some (.coffF128 f), fun f => kL f .g .g .z .z && f.sub == 0 && layK 0 (modL f)⟩,
    ⟨0x23, fun f => some (.csetaF128 f), fun f => kL f .g .g .z .z && f.sub == 0 && layK 0 (modL f)⟩,
    ⟨0x30, fun f => some (.nopF128 f), fun f => kL f .z .z .z .z && f.sub == 0 && modL f == 0 && f.imm == 0⟩,
    ⟨0x60, fun f => some (.faddF128 f), fun f => kL f .g .g .z .z && f.sub == 0 && layA tFp (modL f)⟩,
    ⟨0x61, fun f => some (.fsubF128 f), fun f => kL f .g .g .z .z && f.sub == 0 && layA tFp (modL f)⟩,
    ⟨0x62, fun f => some (.fmulF128 f), fun f => kL f .g .g .z .z && f.sub == 0 && layA tFp (modL f)⟩,
    ⟨0x82, fun f => some (.vbcastF128 f), fun f => kL f .v .g .z .z && f.sub == 0 && layA tAny (modL f) && (f.a == 0 || f.imm == 0)⟩,
    ⟨0xB8, fun f => some (.sbindF128 f), fun f => kL f .s .g .z .z && tStream f.sub.toNat && layK 1 (modL f)⟩ ]

/-- The F128 forms. -/
def rowsL : List (FormRow FL) := rowsL0

/-! ## Fields of the formats (R76) -/

def getFR (w : BitVec 128) : FR :=
  { pred := w.extractLsb' 54 4, sub := w.extractLsb' 46 8, mod := w.extractLsb' 34 12, c := w.extractLsb' 28 6,
    b := w.extractLsb' 22 6, a := w.extractLsb' 16 6, d := w.extractLsb' 10 6 }

def getFI (w : BitVec 128) : FI :=
  { pred := w.extractLsb' 60 4, mod := w.extractLsb' 54 6, imm := w.extractLsb' 22 32, a := w.extractLsb' 16 6,
    d := w.extractLsb' 10 6 }

def getFX (w : BitVec 128) : FX :=
  { imm := w.extractLsb' 52 44, pred := w.extractLsb' 48 4, sub := w.extractLsb' 40 8, mod := w.extractLsb' 28 12,
    b := w.extractLsb' 22 6, a := w.extractLsb' 16 6, d := w.extractLsb' 10 6 }

def getFL (w : BitVec 128) : FL :=
  { imm := w.extractLsb' 64 64, pred := w.extractLsb' 58 4, sub := w.extractLsb' 50 8, mod := w.extractLsb' 34 16,
    c := w.extractLsb' 28 6, b := w.extractLsb' 22 6, a := w.extractLsb' 16 6, d := w.extractLsb' 10 6 }

/-- A form that passes step 7 gives its instruction. -/
def finishForm {F : Type} (r : FormRow F) (rsv : Bool) (f : F) : Except DecodeFault Instr :=
  if rsv && r.ok f then
    match r.make f with
    | some i => .ok i
    | none => .error .illegalField
  else .error .illegalField

/-- KILLG, RESUME, PGREPLY and TLBINV exist on service cores alone (R84). -/
def serviceOp (op : BitVec 8) : Bool := op.toNat / 4 == 0x3A

/-- An opcode is assigned when a 64-bit form has it: every class has one (R82, R83). -/
def assigned (svc : Bool) (op : BitVec 8) : Bool :=
  ((findRow op rowsR).isSome || (findRow op rowsI).isSome) && (svc || !serviceOp op)

/-- Steps 5 to 7 of R85 for an instruction of `len` bytes, whose bits are `w`. -/
def decodeForm (svc : Bool) (len : Nat) (w : BitVec 128) : Except DecodeFault Instr :=
  let op : BitVec 8 := w.extractLsb' 2 8
  if !assigned svc op then .error .illegalOpcode
  else if len == 8 then
    match findRow op rowsR with
    | some r => finishForm r (w.extractLsb' 58 6 == 0) (getFR w)
    | none =>
      match findRow op rowsI with
      | some r => finishForm r true (getFI w)
      | none => .error .illegalFormat
  else if len == 12 then
    match findRow op rowsX with
    | some r => finishForm r true (getFX w)
    | none => .error .illegalFormat
  else
    match findRow op rowsL with
    | some r => finishForm r (w.extractLsb' 62 2 == 0) (getFL w)
    | none => .error .illegalFormat

/-- Decoding of bytes: the instruction and the bytes after it. `svc` says whether the core is a service core. -/
def decode (svc : Bool) (bs : List Byte) : Except DecodeFault (Instr × List Byte) :=
  match bs with
  | [] => .error .truncated
  | b0 :: _ =>
    match lengthOf (b0.extractLsb' 0 2) with
    | none => .error .illegalLength
    | some len =>
      if bs.length < len then .error .truncated
      else
        match decodeForm svc len (BitVec.ofNat 128 (leNat (bs.take len))) with
        | .ok i => .ok (i, bs.drop len)
        | .error e => .error e

/-! ## The encoder -/

/-- An instruction's form, opcode and fields. -/
inductive Enc where
  | r (op : BitVec 8) (f : FR)
  | i (op : BitVec 8) (f : FI)
  | x (op : BitVec 8) (f : FX)
  | l (op : BitVec 8) (f : FL)
  deriving DecidableEq, Repr

/-- The form, opcode and fields of each instruction; a device event has no encoding. -/
def encOf (i : Instr) : Option Enc :=
  match i with
  | .add f => some (.r 0x01 f)
  | .addi f => some (.i 0x02 f)
  | .addiF96 f => some (.x 0x02 f)
  | .addiF128 f => some (.l 0x02 f)
  | .sub f => some (.r 0x03 f)
  | .addc f => some (.r 0x04 f)
  | .subb f => some (.r 0x05 f)
  | .mul f => some (.r 0x06 f)
  | .div f => some (.r 0x07 f)
  | .rem f => some (.r 0x08 f)
  | .negR f => some (.r 0x09 f)
  | .absR f => some (.r 0x0A f)
  | .minR f => some (.r 0x0B f)
  | .minF96 f => some (.x 0x0B f)
  | .maxR f => some (.r 0x0C f)
  | .maxF96 f => some (.x 0x0C f)
  | .andR f => some (.r 0x0D f)
  | .andF96 f => some (.x 0x0D f)
  | .orR f => some (.r 0x0E f)
  | .orF96 f => some (.x 0x0E f)
  | .xorR f => some (.r 0x0F f)
  | .xorF96 f => some (.x 0x0F f)
  | .andn f => some (.r 0x10 f)
  | .orn f => some (.r 0x11 f)
  | .shl f => some (.r 0x12 f)
  | .shlF96 f => some (.x 0x12 f)
  | .shr f => some (.r 0x13 f)
  | .shrF96 f => some (.x 0x13 f)
  | .sar f => some (.r 0x14 f)
  | .sarF96 f => some (.x 0x14 f)
  | .rol f => some (.r 0x15 f)
  | .rolF96 f => some (.x 0x15 f)
  | .ror f => some (.r 0x16 f)
  | .rorF96 f => some (.x 0x16 f)
  | .clz f => some (.r 0x17 f)
  | .ctz f => some (.r 0x17 f)
  | .popc f => some (.r 0x17 f)
  | .brev f => some (.r 0x17 f)
  | .bswap f => some (.r 0x17 f)
  | .bfx f => some (.r 0x18 f)
  | .bfi f => some (.r 0x19 f)
  | .sel f => some (.r 0x1A f)
  | .cmp f => some (.r 0x1B f)
  | .cmpF96 f => some (.x 0x1B f)
  | .li f => some (.i 0x1C f)
  | .liF96 f => some (.x 0x1C f)
  | .liF128 f => some (.l 0x1C f)
  | .mov f => some (.r 0x1D f)
  | .cbound f => some (.r 0x20 f)
  | .cboundF96 f => some (.x 0x20 f)
  | .cperm f => some (.r 0x21 f)
  | .cpermF96 f => some (.x 0x21 f)
  | .coff f => some (.r 0x22 f)
  | .coffF96 f => some (.x 0x22 f)
  | .coffF128 f => some (.l 0x22 f)
  | .cseta f => some (.r 0x23 f)
  | .csetaF96 f => some (.x 0x23 f)
  | .csetaF128 f => some (.l 0x23 f)
  | .cget f => some (.r 0x24 f)
  | .cclr f => some (.r 0x25 f)
  | .cchan f => some (.r 0x26 f)
  | .cchanF96 f => some (.x 0x26 f)
  | .csub f => some (.r 0x27 f)
  | .nop f => some (.r 0x30 f)
  | .nopF96 f => some (.x 0x30 f)
  | .nopF128 f => some (.l 0x30 f)
  | .b f => some (.i 0x31 f)
  | .bF96 f => some (.x 0x31 f)
  | .bp f => some (.i 0x32 f)
  | .bpF96 f => some (.x 0x32 f)
  | .call f => some (.i 0x33 f)
  | .callF96 f => some (.x 0x33 f)
  | .jmp f => some (.r 0x34 f)
  | .ret f => some (.r 0x35 f)
  | .loop f => some (.i 0x36 f)
  | .loopF96 f => some (.x 0x36 f)
  | .wait f => some (.r 0x37 f)
  | .yield f => some (.r 0x38 f)
  | .actend f => some (.r 0x39 f)
  | .ld f => some (.r 0x40 f)
  | .ldF96 f => some (.x 0x40 f)
  | .st f => some (.r 0x41 f)
  | .stF96 f => some (.x 0x41 f)
  | .ldv f => some (.r 0x42 f)
  | .ldvF96 f => some (.x 0x42 f)
  | .stv f => some (.r 0x43 f)
  | .stvF96 f => some (.x 0x43 f)
  | .ldvg f => some (.r 0x44 f)
  | .stvs f => some (.r 0x45 f)
  | .ldc f => some (.r 0x46 f)
  | .ldcF96 f => some (.x 0x46 f)
  | .stc f => some (.r 0x47 f)
  | .stcF96 f => some (.x 0x47 f)
  | .pref f => some (.r 0x48 f)
  | .prefF96 f => some (.x 0x48 f)
  | .touch f => some (.r 0x49 f)
  | .touchF96 f => some (.x 0x49 f)
  | .fence f => some (.r 0x4A f)
  | .drain f => some (.r 0x4B f)
  | .amo f => some (.r 0x4C f)
  | .amoF96 f => some (.x 0x4C f)
  | .amof f => some (.r 0x4D f)
  | .amofF96 f => some (.x 0x4D f)
  | .cas f => some (.r 0x4E f)
  | .mcst f => some (.r 0x4F f)
  | .mcstF96 f => some (.x 0x4F f)
  | .mred f => some (.r 0x50 f)
  | .mredF96 f => some (.x 0x50 f)
  | .l1inv f => some (.r 0x51 f)
  | .l1wb f => some (.r 0x52 f)
  | .fadd f => some (.r 0x60 f)
  | .faddF96 f => some (.x 0x60 f)
  | .faddF128 f => some (.l 0x60 f)
  | .fsub f => some (.r 0x61 f)
  | .fsubF96 f => some (.x 0x61 f)
  | .fsubF128 f => some (.l 0x61 f)
  | .fmul f => some (.r 0x62 f)
  | .fmulF96 f => some (.x 0x62 f)
  | .fmulF128 f => some (.l 0x62 f)
  | .fma f => some (.r 0x63 f)
  | .fdiv f => some (.r 0x64 f)
  | .fsqrt f => some (.r 0x65 f)
  | .fmin f => some (.r 0x66 f)
  | .fminF96 f => some (.x 0x66 f)
  | .fmax f => some (.r 0x67 f)
  | .fmaxF96 f => some (.x 0x67 f)
  | .fsgn f => some (.r 0x68 f)
  | .fcmp f => some (.r 0x69 f)
  | .fcmpF96 f => some (.x 0x69 f)
  | .fclass f => some (.r 0x6A f)
  | .fcvt f => some (.r 0x6B f)
  | .ftoi f => some (.r 0x6C f)
  | .itof f => some (.r 0x6D f)
  | .fround f => some (.r 0x6E f)
  | .vadd f => some (.r 0x70 f)
  | .vaddF96 f => some (.x 0x70 f)
  | .vsub f => some (.r 0x71 f)
  | .vsubF96 f => some (.x 0x71 f)
  | .vmul f => some (.r 0x72 f)
  | .vmulF96 f => some (.x 0x72 f)
  | .vfma f => some (.r 0x73 f)
  | .vmin f => some (.r 0x74 f)
  | .vminF96 f => some (.x 0x74 f)
  | .vmax f => some (.r 0x75 f)
  | .vmaxF96 f => some (.x 0x75 f)
  | .vsgn f => some (.r 0x76 f)
  | .vcmp f => some (.r 0x77 f)
  | .vcmpF96 f => some (.x 0x77 f)
  | .vsel f => some (.r 0x78 f)
  | .vand f => some (.r 0x79 f)
  | .vandF96 f => some (.x 0x79 f)
  | .vor f => some (.r 0x7A f)
  | .vorF96 f => some (.x 0x7A f)
  | .vxor f => some (.r 0x7B f)
  | .vxorF96 f => some (.x 0x7B f)
  | .vshl f => some (.r 0x7C f)
  | .vshlF96 f => some (.x 0x7C f)
  | .vshr f => some (.r 0x7D f)
  | .vshrF96 f => some (.x 0x7D f)
  | .vsar f => some (.r 0x7E f)
  | .vsarF96 f => some (.x 0x7E f)
  | .vred f => some (.r 0x7F f)
  | .vscan f => some (.r 0x80 f)
  | .vperm f => some (.r 0x81 f)
  | .vbcast f => some (.i 0x82 f)
  | .vbcastF96 f => some (.x 0x82 f)
  | .vbcastF128 f => some (.l 0x82 f)
  | .vext f => some (.r 0x83 f)
  | .vins f => some (.r 0x84 f)
  | .vcvt f => some (.r 0x85 f)
  | .vquant f => some (.r 0x86 f)
  | .vdeq f => some (.r 0x87 f)
  | .vexp2 f => some (.r 0x88 f)
  | .vlog2 f => some (.r 0x89 f)
  | .vrcp f => some (.r 0x8A f)
  | .vrsq f => some (.r 0x8B f)
  | .vlut f => some (.r 0x8C f)
  | .vdot f => some (.r 0x8D f)
  | .vmov f => some (.r 0x8E f)
  | .vmovPop f => some (.r 0x8E f)
  | .vmovPush f => some (.r 0x8E f)
  | .laccClr f => some (.r 0xB0 f)
  | .laccAdd f => some (.r 0xB1 f)
  | .laccMac f => some (.r 0xB2 f)
  | .laccRd f => some (.r 0xB3 f)
  | .laccMrg f => some (.r 0xB4 f)
  | .sbind f => some (.r 0xB8 f)
  | .sbindF128 f => some (.l 0xB8 f)
  | .sfree f => some (.r 0xB9 f)
  | .sstat f => some (.r 0xBA f)
  | .send f => some (.r 0xC0 f)
  | .sendF96 f => some (.x 0xC0 f)
  | .sendr f => some (.r 0xC1 f)
  | .hset f => some (.r 0xC2 f)
  | .hmask f => some (.r 0xC3 f)
  | .hmaskF96 f => some (.x 0xC3 f)
  | .launch f => some (.r 0xC4 f)
  | .evset f => some (.r 0xC5 f)
  | .evsetF96 f => some (.x 0xC5 f)
  | .evclr f => some (.r 0xC6 f)
  | .evclrF96 f => some (.x 0xC6 f)
  | .evwait f => some (.r 0xC7 f)
  | .evwaitF96 f => some (.x 0xC7 f)
  | .evtest f => some (.r 0xC8 f)
  | .evtestF96 f => some (.x 0xC8 f)
  | .barrier f => some (.r 0xC9 f)
  | .groupid f => some (.r 0xCA f)
  | .corenum f => some (.r 0xCB f)
  | .dopen f => some (.r 0xD0 f)
  | .dclose f => some (.r 0xD1 f)
  | .dabort f => some (.r 0xD2 f)
  | .dstat f => some (.r 0xD3 f)
  | .jwait f => some (.r 0xD8 f)
  | .jwaitF96 f => some (.x 0xD8 f)
  | .jpoll f => some (.r 0xD9 f)
  | .jpollF96 f => some (.x 0xD9 f)
  | .jstat f => some (.r 0xDA f)
  | .srd f => some (.i 0xE0 f)
  | .swr f => some (.i 0xE1 f)
  | .trap f => some (.i 0xE2 f)
  | .bkpt f => some (.i 0xE3 f)
  | .mark f => some (.i 0xE4 f)
  | .markF96 f => some (.x 0xE4 f)
  | .killg f => some (.r 0xE8 f)
  | .resume f => some (.r 0xE9 f)
  | .pgreply f => some (.r 0xEA f)
  | .tlbinv f => some (.r 0xEB f)
  | .loadResponse _ _ => none
  | .storeAck _ _ => none
  | .storeFaultReport _ _ => none
  | .unreachResponse _ => none
  | .depositArrival _ _ => none
  | .messageAccept _ => none
  | .payloadComplete _ _ _ _ => none
  | .select _ => none
  | .agePromotion _ _ => none
  | .actTimeout _ _ => none
  | .waitWake _ _ => none
  | .evwaitWake _ _ => none
  | .jwaitWake _ _ => none
  | .barrierComplete _ => none
  | .sendQueueIssue _ => none
  | .messageRefused _ _ => none
  | .sendRetry _ _ => none
  | .spillOffer _ => none
  | .spillHeadTimeout _ => none
  | .lmRefresh _ _ _ => none
  | .ephemeralSweep _ _ => none
  | .remoteCoreAccess _ => none
  | .homeAccess _ => none
  | .pageWalk _ => none
  | .jobAccept _ => none
  | .mma _ => none
  | .mzero _ => none
  | .mload _ => none
  | .mstore _ => none
  | .mtcfg _ => none
  | .mtrel _ => none
  | .copy _ => none
  | .conv _ => none
  | .quant _ => none
  | .gather _ => none
  | .scatter _ => none
  | .fill _ => none
  | .jobComplete _ _ => none
  | .areduce _ _ => none
  | .rscatter _ _ => none
  | .agather _ _ => none
  | .bcast _ _ => none
  | .cearb _ _ => none
  | .cefence _ _ => none
  | .collectiveGatePoll _ _ => none
  | .collectiveListRead _ _ => none
  | .collectiveStep _ _ _ _ => none
  | .handlerRun _ => none
  | .handlerInstall _ => none
  | .handlerRemove _ => none
  | .handlerInstallDone _ => none
  | .multicastSplit _ => none
  | .packetInject _ _ => none
  | .intermediateForward _ => none
  | .flitReceive _ _ => none
  | .syncSend _ => none
  | .syncReceive _ _ => none
  | .linkDown _ _ => none
  | .linkRetrain _ => none
  | .routeTableBuild => none
  | .dieMapUpdate _ _ => none
  | .epochFlip => none
  | .epochDrained => none
  | .llcFill _ => none
  | .hbmRequest _ _ => none
  | .refreshSlot _ _ _ => none
  | .allbankRefreshStart _ _ _ => none
  | .allbankRefreshEnd _ _ _ => none
  | .gets _ _ _ _ => none
  | .getm _ _ _ _ => none
  | .putm _ _ _ => none
  | .puto _ _ _ => none
  | .pute _ _ => none
  | .puts _ _ => none
  | .directoryForward _ _ _ _ _ => none
  | .directoryInvalidate _ _ _ => none
  | .foreignRequestReissue _ => none
  | .remoteL1Flush _ _ _ _ => none
  | .tlbinvAck _ _ => none
  | .migrationGo _ => none
  | .migrationCommit _ => none
  | .migrationClose _ => none
  | .mqmaxRead _ => none
  | .collectorEnqueue _ => none
  | .faultPacketMerge _ _ => none
  | .collectorPop _ => none
  | .debugWindowWrite _ _ _ _ => none
  | .stopRequest _ _ => none
  | .stopComplete _ => none
  | .sfqclr _ _ => none
  | .dlytclr _ _ => none
  | .dumpStart _ => none
  | .dumpComplete _ => none
  | .dumpTakeover _ => none
  | .traceSample _ => none
  | .traceDrain _ => none
  | .sinkEvaluate _ => none
  | .clusterGate _ _ => none
  | .tshRead _ => none
  | .rloghRead _ => none
  | .raceSweep _ => none
  | .raceSweepDone _ => none
  | .serviceCoreStart _ _ _ _ => none
  | .padPacket _ => none
  | .nopPacket _ => none
  | .ctxinit _ => none
  | .ctxfree _ => none
  | .launchPacket _ => none
  | .eventPacket _ => none
  | .resync _ => none
  | .vacate _ => none
  | .ringResume _ => none
  | .ringResumeSkip _ => none
  | .schedulingPass => none
  | .launchRetire _ => none
  | .vacateGraceExpiry _ => none
  | .narrowRemap _ => none
  | .widen _ => none
  | .domainComplete _ _ => none
  | .domainError _ _ => none
  | .domainRestore _ _ => none
  | .rootReissue _ _ => none
  | .parityDelta _ _ _ _ _ _ => none
  | .esync _ => none
  | .esyncDone => none
  | .estatRead => none
  | .lineRepair _ _ => none
  | .erasureRebuild _ _ _ => none
  | .heartbeat _ => none
  | .neighbourSilent _ => none
  | .lossDeclaration _ _ => none
  | .selfFence => none
  | .coreRetire _ _ _ => none
  | .cdieReplace _ _ => none
  | .timeSync _ => none
  | .freqStep _ => none
  | .relockComplete _ => none
  | .droopStretch _ _ => none
  | .powerEvaluate _ => none
  | .pstepPin _ => none
  | .powerStep _ => none
  | .freqCeilWrite _ _ => none
  | .droopcClear _ _ => none
  | .counterClear _ _ _ => none
  | .thermalLimit _ _ => none
  | .thermalTrip _ _ => none
  | .powerFailTrap => none
  | .drainComplete => none
  | .pfctlRun => none
  | .pfctlDiscard => none
  | .pfheadRead => none
  | .powerOnBoot => none
  | .attest => none
  | .readlog => none
  | .readcert => none
  | .fwload => none
  | .hostWindowAccess _ _ _ _ _ => none
  | .streamFetch _ _ _ => none
  | .streamWrite _ _ _ => none
  | .registerWrite _ _ _ => none
  | .softError _ => none
  | .linkLoss _ _ => none
  | .dieLoss _ => none
  | .packageReset => none
  | .laccOperationComplete _ => none
  | .perBankRefreshEnd _ _ _ _ => none
  | .hbmRankPowerDown _ _ => none
  | .clusterWake _ => none
  | .parityDeltaAck _ => none
  | .invalidateAck _ _ _ => none
  | .putAck _ _ _ => none
  | .taskCompletionNotice _ _ _ => none
  | .directoryOwnerTimeout _ => none

def bitsR (op : BitVec 8) (f : FR) : BitVec 64 :=
  0#6 ++ f.pred ++ f.sub ++ f.mod ++ f.c ++ f.b ++ f.a ++ f.d ++ op ++ 0#2

def bitsI (op : BitVec 8) (f : FI) : BitVec 64 :=
  f.pred ++ f.mod ++ f.imm ++ f.a ++ f.d ++ op ++ 0#2

def bitsX (op : BitVec 8) (f : FX) : BitVec 96 :=
  f.imm ++ f.pred ++ f.sub ++ f.mod ++ f.b ++ f.a ++ f.d ++ op ++ 1#2

def bitsL (op : BitVec 8) (f : FL) : BitVec 128 :=
  f.imm ++ 0#2 ++ f.pred ++ f.sub ++ f.mod ++ f.c ++ f.b ++ f.a ++ f.d ++ op ++ 2#2

/-- The length in bytes of a form (R73). -/
def Enc.len : Enc → Nat
  | .r _ _ => 8
  | .i _ _ => 8
  | .x _ _ => 12
  | .l _ _ => 16

/-- The value of the bits of a form. -/
def Enc.bits : Enc → Nat
  | .r op f => (bitsR op f).toNat
  | .i op f => (bitsI op f).toNat
  | .x op f => (bitsX op f).toNat
  | .l op f => (bitsL op f).toNat

/-- The bytes of an instruction; an event has none. -/
def encode (i : Instr) : List Byte :=
  match encOf i with
  | some e => leBytes e.len e.bits
  | none => []

/-- The length in bytes of an instruction; 0 for an event. -/
def instrLen (i : Instr) : Nat :=
  match encOf i with
  | some e => e.len
  | none => 0

/-- What the decoder reads from the bits `w`, the bits above them being zero. -/
def decodeTableWord (nbits w : Nat) : Option Instr :=
  match decode true (leBytes (nbits / 8) w ++ leBytes 16 0) with
  | .ok (i, _) => some i
  | .error _ => none

end Sys2Proof
end

