-- ==== Sys2Proof/Machine/State.lean ====
section
/-! DEFINITION. The state of one package as plain data, what surrounds it (the inputs that are to come and the packets that
have left), and the state after package reset. Records are kept where the manual keeps them; tables over large index ranges
(cores, clusters, counters, memory) are lists of (index, value) pairs in rising order of index, and an index that is not
listed has the value after reset. -/
namespace Sys2Proof.Machine

/-- A sparse table: pairs of an index and a value, indices rising. -/
abbrev Tbl (α : Type) := List (Nat × α)

/-- The reasons for which a step stops the machine. -/
inductive Fault where
  /-- Raised by `step` alone, for a turn that names a slot of a core that does not exist (R13, R14, R20). Safe. -/
  | noSuchSlot
  deriving DecidableEq, Repr

/-- The reasons for which an instruction has no meaning in this model. -/
inductive Refusal where
  /-- An instruction of the table that has no meaning yet; raised by the dispatcher. Safe. -/
  | notModelled (mnemonic : String)
  deriving DecidableEq, Repr

/-! ## A slot -/

/-- A g register (R20) with its expired mark (R141), its pending mark (R138), and whether its parity fails. -/
structure GReg where
  val     : W128 := 0
  tag     : Bool := false
  expired : Bool := false
  pending : Bool := false
  bad     : Bool := false
  deriving DecidableEq, Repr

/-- A v register (R33) with an expired mark for each byte (R141), its pending mark, and whether its parity fails. -/
structure VReg where
  val     : W512 := 0
  expired : BitVec 64 := 0
  pending : Bool := false
  bad     : Bool := false
  deriving DecidableEq, Repr

/-- The hardware loop of a slot (R126). -/
structure LoopSt where
  lact   : Bool := false
  lstart : W64 := 0
  lend   : W64 := 0
  lcnt   : W64 := 0
  deriving DecidableEq, Repr

/-- One entry of the horizon table (R43). -/
structure Hzn where
  v      : Bool := false
  scope  : BitVec 3 := 0
  clock  : BitVec 32 := 0
  writer : BitVec 18 := 0
  deriving DecidableEq, Repr

/-- A precise fault as its instruction raises it: cause and subcode (R426), capability register, address, AUX, and the race
record (R344) of a RACE. -/
structure Trap where
  cause : Nat
  sub   : Nat := 0
  /-- The cause of R431 of a store fault. -/
  sf    : BitVec 8 := 0
  reg   : Nat := 0
  addr  : W64 := 0
  aux   : W64 := 0
  race  : Option W512 := none
  deriving DecidableEq, Repr

/-- An entry queued in a stream (R35, R197): its data, its expired marks, the precise fault that its fetch would have raised
(R198), the number of its loads that are outstanding and of those that are still to be issued, its own number, and the PC of
the instruction that pushed it. -/
structure StreamEnt where
  data    : W512 := 0
  expired : BitVec 64 := 0
  trap    : Option Trap := none
  left    : Nat := 0
  todo    : Nat := 0
  gid     : Nat := 0
  pc      : W64 := 0
  deriving DecidableEq, Repr

/-- A stream register (R35, R193 to R200): STATE, the descriptor in the layout of R194, the capability, the resolved input
format, the tables its LUT steps hold, the next element to fetch or write, the elements already popped or pushed, END, OVR
and the queue. -/
structure Stream where
  state  : BitVec 2 := 0
  desc   : W512 := 0
  cap    : W128 := 0
  ifmt   : BitVec 5 := 0
  luts   : List W512 := []
  next   : Nat := 0
  moved  : Nat := 0
  fin    : Bool := false
  ovr    : Bool := false
  queue  : List StreamEnt := []
  deriving DecidableEq, Repr

/-- What a stalled instruction that leaves its slot Sleeping waits for (R236): mailbox registers to be present, an entry of a stream to be
there or to be free, the send queue, or a SENDR link of a neighbour. -/
inductive Block where
  | mbox (mask : BitVec 8)
  | stream (n : Nat)
  | sendq
  | link (core dir : Nat)
  deriving DecidableEq, Repr

/-- Why a slot does not run (R236). `len` is the length of the instruction that retires at the wake. A slot in `check` waits for
its access's race check or for its acquiring load, and then clears presence bits, sets warnings and raises CLK as told; one in
`barred` has seen its BARRIER's episode complete, and performs the acquire and retires once its core may; one in
`submit` waits for a queue entry at a window (a cluster's below 8,192, then an S-die's), with its command in v[d]. -/
inductive Wait where
  | wait    (dst : RegNo) (conds : BitVec 4) (deadline : W64)
  | evwait  (len : Nat) (dst : RegNo) (word : BitVec 2) (any : Bool) (mask : W64)
  | jwait   (len : Nat) (dst : RegNo) (jid : BitVec 16)
  | barrier (shape : BitVec 8) (arrived : Bool)
  | barred  (scope : Nat)
  | tlbinv  (dst : RegNo) (k : Nat)
  | walk    (id : Nat)
  | posted  (id : Nat)
  | check   (len : Nat) (grp : Nat) (clr : BitVec 8) (warn : BitVec 10) (inc : Bool)
  | submit  (win : Nat) (d : RegNo) (len : Nat) (clr : BitVec 8) (warn : BitVec 10) (inc : Bool)
  | yield   (until_ : W64)
  | block   (why : Block)
  | stall
  deriving DecidableEq, Repr

/-- The state of a slot (R236); Frozen is the state of a slot that is not dormant while its core is frozen. A suspended slot
waits for its new physical core (R363). -/
inductive Run where
  | dormant
  | running
  | sleeping (w : Wait)
  | suspended (w : Option Wait)
  deriving DecidableEq, Repr

/-- What the hardware keeps of a slot's activation: the record it took, the sender's DLYT entry latched at its start (R448)
and whether it may still be charged (R449), the refusals its message met, its entry address, its start domain (R473) the
domains it opened and left open (R474), and the bytes of its channel's bound region (R259). -/
structure Act where
  rid     : Nat := 0
  dlyt    : Nat := 0
  dlytOk  : Bool := false
  retry   : BitVec 8 := 0
  entry   : W64 := 0
  did     : BitVec 4 := 0
  opened  : List (BitVec 4) := []
  bound   : Option (Nat × Nat) := none
  deriving DecidableEq, Repr

/-- One hardware thread (R10, R20 to R44). -/
structure Slot where
  run     : Run := .dormant
  pc      : W64 := 0
  pcc     : W128 := 0
  pccTag  : Bool := false
  g       : Vector GReg 64 := Vector.replicate 64 {}
  v       : Vector VReg 32 := Vector.replicate 32 {}
  p       : Vector (BitVec 16) 8 := Vector.replicate 8 0
  st      : Vector Stream 4 := Vector.replicate 4 {}
  mbp     : BitVec 8 := 0
  /-- Mailbox registers written locally in the present cycle while their presence bit was clear (R37). -/
  mbNew   : BitVec 8 := 0
  warn    : BitVec 10 := 0
  fpc     : BitVec 9 := 0
  seed    : W64 := 1
  clk     : BitVec 32 := 0
  gen     : BitVec 9 := 0
  hzn     : Vector Hzn 16 := Vector.replicate 16 {}
  /-- Positions of the horizon table, most recently used first (R333). -/
  hznUse  : List Nat := []
  hznev   : BitVec 16 := 0
  actinfo : W64 := 0
  actts   : Vector W64 3 := Vector.replicate 3 0
  loop    : LoopSt := {}
  msgl    : Bool := false
  jobl    : Bool := false
  did     : BitVec 4 := 0
  act     : Act := {}
  wdog    : Nat := 0
  /-- The instruction that the slot retired last was a taken transfer (R436, INBR). -/
  taken   : Bool := false
  /-- The active elements of the present LDVG that have performed before a fault posted on the next one (R151). -/
  vgDone  : Nat := 0
  /-- The warnings that those elements set, and the scope of their acquire. -/
  vgWarn  : BitVec 10 := 0
  vgAcq   : Option Nat := none
  /-- The place of a stalled submission in the order in which the memory pipeline accepted it (R269). -/
  seq     : Nat := 0
  deriving DecidableEq, Repr

/-! ## Requests and messages -/

/-- What an access needs of a translation (R375). -/
inductive Need where
  | read
  | write
  | atomic
  | exec
  deriving DecidableEq, Repr

/-- What a memory request does at its target. `fill` is a load's fetch of a line; `fetch` a read of a block of instructions in
another package; `probe` a translation on behalf of an instruction, with the KIND of R380; `mcast` a multicast before its
split (R302), with the handler of an MRED and the version that it carries (R301). -/
inductive ReqOp where
  | load
  | fill
  | fetch
  | probe (kind : BitVec 3) (need : Need)
  | store
  | writeBack
  | atomic (hidx : BitVec 5) (opv : Bool) (ret : Bool) (version : BitVec 16)
  | mcast (dests : BitVec 1024) (red : Option (BitVec 5 × Bool × BitVec 16))
  | debugRead
  | debugWrite
  | windowRead
  | windowWrite
  deriving DecidableEq, Repr

/-- How far a request has come: waiting for its walk, for its target core, for its home, for HBM, for its line to be filled,
in a migrating page's queue, for its handler run, for the answer of another package, performed, or refused with the CAUSE of
R380 or R431. -/
inductive Stage where
  | walk
  | core
  | home
  | hbm
  | fill
  | migq
  | handler
  | fabric
  | done
  | refused (cause : BitVec 8)
  deriving DecidableEq, Repr

/-- The attributes a translation gives an access (R375). -/
structure Attr where
  ord   : BitVec 2 := 1
  rc    : Bool := false
  cg    : Bool := false
  cmp   : Bool := false
  erase : Bool := false
  lat   : Bool := false
  egrp  : BitVec 8 := 0
  deriving DecidableEq, Repr

/-- The installed program of a loadable handler (R296, R299). -/
structure Image where
  version : BitVec 16 := 0
  logsize : Nat := 3
  ops     : List (BitVec 32) := []
  deriving DecidableEq, Repr

/-- What the check of a line tells its slot (R333): the writer whose horizon entry made the check pass, and the metadata that an acquire
learns, with its scope. -/
structure Note where
  used   : Option (BitVec 18) := none
  learnt : Option (W64 × BitVec 3) := none
  deriving DecidableEq, Repr

/-- One memory request in flight (R138 to R145, R293): a part of an access that lies in one line. `grp` names the access it
belongs to, `off` its first byte within the access. `org` is the requesting package, 0x3FF for this one. `strm` marks a stream's
access; `keep` is cleared when a fill is not to be installed (R329). `gen`, `hzn` and `hznev` are the issuer's race-detection state at issue (R340);
`mc` marks a copy of a multicast, `logs` the reporting-only mode of an issuer in another package, `race` a record that goes back with the
answer (R345). -/
structure Req where
  id     : Nat := 0
  org    : BitVec 10 := 0x3FF
  cid    : Nat := 0
  slot   : Nat := 0
  lid    : BitVec 16 := 0
  ctx    : Nat := 0
  pc     : W64 := 0
  op     : ReqOp := .load
  ea     : W64 := 0
  n      : Nat := 0
  data   : W512 := 0
  mask   : BitVec 64 := 0
  tags   : BitVec 4 := 0
  acq    : Bool := false
  rel    : Bool := false
  scope  : BitVec 3 := 0
  stamp  : BitVec 32 := 0
  grp    : Nat := 0
  off    : Nat := 0
  stage  : Stage := .walk
  pa     : Nat := 0
  attr   : Attr := {}
  checked : Bool := false
  keep   : Bool := true
  strm   : Bool := false
  retired : Nat := 0
  remote : Bool := true
  refwait : Nat := 0
  did    : BitVec 4 := 0
  since  : W64 := 0
  gen    : BitVec 9 := 0
  hzn    : Vector Hzn 16 := Vector.replicate 16 {}
  hznev  : BitVec 16 := 0
  mc     : Bool := false
  logs   : Bool := false
  race   : Option W512 := none
  /-- The request to another package has left. -/
  sent   : Bool := false
  /-- The writer whose horizon entry made the request's check pass (R333). -/
  used   : Option (BitVec 18) := none
  /-- The metadata of the line as the request read it, or as its write left it (R333, R336). -/
  meta_  : W64 := 0
  /-- The line that the home grants may be installed in the LLC (R329). -/
  llcKeep : Bool := true
  /-- The cores and slots whose bytes a write-back carries (R148, R156). -/
  by_    : List (Nat × Nat) := []
  /-- The dirty bytes that the L1 held of a fill's line when its load issued, which that load returns (R316, R321). -/
  mine   : W512 := 0
  mineMask : BitVec 64 := 0
  mineTags : BitVec 4 := 0
  /-- The handler program as it was installed when the request was accepted at its M-die (R300, R314). -/
  prog   : Option Image := none
  /-- Replayed from a migrating page's queue and not yet performed (R387). -/
  replay : Bool := false
  /-- The S-die at which another package's request entered (R379). -/
  sdie   : Nat := 0
  deriving DecidableEq, Repr

/-- Where the data of a load goes; for a stream, to `cnt` elements from element `j` of entry `ent`, which are elements `sub`
onward of the block or element that is read. -/
inductive Dest where
  | nowhere
  | g (r : RegNo)
  | v (r : RegNo)
  | stream (st ent j sub cnt : Nat)
  deriving DecidableEq, Repr

/-- An access with outstanding parts: the register that its data is for, how a value is extended (the TYPE code of R80), the
bytes gathered so far with the bytes that are asked for, their expired marks, the granule tag read, and the parts still to
come. `chk` is set while the slot waits for the access's race check (R336). -/
structure Access where
  gid   : Nat := 0
  cid   : Nat := 0
  slot  : Nat := 0
  dest  : Dest := .nowhere
  ty    : BitVec 5 := 0
  n     : Nat := 0
  raw   : W512 := 0
  want  : BitVec 64 := 0
  exp   : BitVec 64 := 0
  tag   : Bool := false
  keepTag : Bool := false
  isLoad : Bool := true
  left  : Nat := 0
  /-- All of its parts, and whether they write. -/
  parts : Nat := 0
  wr    : Bool := false
  chk   : Bool := false
  acq   : Bool := false
  scope : BitVec 3 := 0
  /-- The causes already reported for a multicast (R163). -/
  causes : List (BitVec 8) := []
  /-- A read that an instruction makes for a payload or a descriptor, and its address (R204, R212, R218). -/
  pay   : Bool := false
  ea    : W64 := 0
  /-- The elements of an LDVG done once this access is, where it is not the whole instruction (R151). -/
  part  : Nat := 0
  /-- What the checks of its lines told, for the slot to take once all of it has performed (R9, R333). -/
  notes : List Note := []
  /-- A race of a line that the L1 holds, raised once the lines at lower addresses have passed their checks (R334). -/
  trap  : Option Trap := none
  deriving DecidableEq, Repr

/-- A message in a send queue, in flight, or in a spill queue (R204, R228, R239 to R241). -/
structure Msg where
  mid     : Nat := 0
  cid     : Nat := 0
  origin  : BitVec 2 := 0
  spkg    : BitVec 10 := 0
  score   : BitVec 16 := 0
  sslot   : BitVec 2 := 0
  lid     : BitVec 16 := 0
  ctx     : Nat := 0
  pc      : W64 := 0
  addr    : W64 := 0
  payload : List Byte := []
  sent    : W64 := 0
  sclk    : BitVec 32 := 0
  scope   : BitVec 3 := 0
  did     : BitVec 4 := 0
  retry   : BitVec 8 := 0
  hint    : Option Nat := none
  /-- Waiting to be sent again until this value of CYC, or issued and not yet answered; `back` when refused for room and on its
  way back. -/
  readyAt : W64 := 0
  inFlight : Bool := false
  back    : Bool := false
  /-- The number its sender's package knows it by. -/
  rmid    : Nat := 0
  /-- Its sender was ended by KILLG or an abort: a refusal is not reported. -/
  quiet   : Bool := false
  /-- The record of the activation that sent it. -/
  actRid  : Nat := 0
  /-- In flight to a core when another launch's narrowing vacated it: that launch, whose map forwards it (R363). -/
  fwd     : Option (BitVec 16) := none
  /-- The tick at which it reached a spill queue's head. -/
  headAt  : W64 := 0
  anyCore : Bool := false
  deriving DecidableEq, Repr

/-- A record of an input buffer as the buffer control logic keeps it (R228 to R231). -/
structure Rec where
  rid      : Nat := 0
  pos      : Nat := 0
  size     : Nat := 0
  pad      : Bool := false
  complete : Bool := false
  taken    : Bool := false
  freed    : Bool := false
  arrived  : W64 := 0
  msg      : Msg := {}
  deriving DecidableEq, Repr

/-- A channel's ring (R229): its records in allocation order and the offset of its tail within the slice. -/
structure Buf where
  recs : List Rec := []
  tail : Nat := 0
  deriving DecidableEq, Repr

/-- A SENDR deposit on a link (R37, R207). -/
structure Deposit where
  slot    : BitVec 2 := 0
  reg     : RegNo := 0
  val     : W128 := 0
  arrived : Bool := false
  deriving DecidableEq, Repr

/-! ## A core -/

/-- A translation held in a TLB (R377). -/
structure TlbEnt where
  ctx   : Nat := 0
  vpage : Nat := 0
  level : Nat := 0
  entry : W64 := 0
  deriving DecidableEq, Repr

/-- A line of an L1 partition (R263, R264): its context and address, the package it names, its page kind, which bytes are
valid and dirty, its data with granule tags, the metadata copy of a checked line (R336), the slot that last dirtied it, and all
those whose bytes are dirty in it (R148). -/
structure L1Line where
  ctx   : Nat := 0
  line  : Nat := 0
  loose : Bool := false
  valid : BitVec 64 := 0
  dirty : BitVec 64 := 0
  data  : W512 := 0
  tags  : BitVec 4 := 0
  rc    : Bool := false
  meta_  : W64 := 0
  cid   : Nat := 0
  slot  : Nat := 0
  by_   : List (Nat × Nat) := []
  attr  : Attr := {}
  deriving DecidableEq, Repr

/-- A row of the ephemeral range (R252). -/
structure Row where
  stamp : BitVec 16 := 0
  aged  : Bool := true
  stale : BitVec 8 := 0xFF
  deriving DecidableEq, Repr

/-- A record of the store-fault queue (R48, R431); one that is not valid holds what the debug window wrote there (R434). -/
structure SfqRec where
  v     : Bool := true
  addr  : W64 := 0
  pc    : W64 := 0
  slot  : BitVec 2 := 0
  cause : BitVec 8 := 0
  deriving DecidableEq, Repr

/-- An entry of the delay accounting (R49). -/
structure Dlyt where
  count   : BitVec 32 := 0
  v       : Bool := false
  spkg    : BitVec 10 := 0
  score   : BitVec 16 := 0
  transit : W64 := 0
  queue   : W64 := 0
  run     : W64 := 0
  deriving DecidableEq, Repr

/-- The completion state of a job (R220): state 0 queued, 1 running, 2 done. `rel` keeps what a JWAIT that finds it done
learns (R333). -/
structure JobHist where
  jid    : BitVec 16 := 0
  state  : BitVec 2 := 0
  status : BitVec 8 := 0
  bytes  : BitVec 32 := 0
  rel    : Option (BitVec 18 × BitVec 32 × BitVec 3) := none
  /-- The job's place in the order of acceptance. -/
  seq    : Nat := 0
  deriving DecidableEq, Repr

/-- A long-accumulator operation in progress (R191): an LACC.RD's destination and result, or none; the cycles it holds the port, from
the CYC of its acceptance. -/
structure LaccOp where
  slot  : Nat := 0
  rd    : Option (RegNo × W64) := none
  cycles : Nat := 0
  since : W64 := 0
  deriving DecidableEq, Repr

/-- The control register FRZ (R434). -/
structure Frz where
  frozen  : Bool := false
  stopped : Bool := false
  stopreq : Bool := false
  nested  : Bool := false
  bpskip  : Bool := false
  /-- The breakpoint that asked for the stop, 0xFF for a write of STOPREQ (R443). -/
  stopBy  : BitVec 8 := 0xFF
  deriving DecidableEq, Repr

/-- A worker core or a service core. `phys` is the physical core that holds it: another one than its own only while a launch
is narrowed (R363). -/
structure Core where
  phys     : Nat := 0
  /-- The launch it is a member of, while that launch runs. -/
  lid      : Option (BitVec 16) := none
  slots    : Vector Slot 4 := Vector.replicate 4 {}
  lmb1     : BitVec 20 := 0x80000
  lmb2     : BitVec 20 := 0x80000
  lmb3     : BitVec 20 := 0x80000
  prot     : Vector W64 8 := Vector.replicate 8 0
  trcc     : BitVec 9 := 0xA0
  sfq      : List SfqRec := []
  sfqOvf   : Bool := false
  dlyt     : Vector Dlyt 33 := Vector.replicate 33 {}
  frz      : Frz := {}
  faultRec : W512 := 0
  raceRec  : W512 := 0
  engineLost : BitVec 768 := 0
  retryc   : W64 := 0
  refstall : W64 := 0
  corrc    : W64 := 0
  bpaddr   : Vector W64 4 := Vector.replicate 4 0
  bpctl    : Vector W64 4 := Vector.replicate 4 0
  handlers : Vector W128 32 := Vector.replicate 32 0
  regions  : Vector W128 32 := Vector.replicate 32 0
  nrgn     : Nat := 0
  bufs     : Vector Buf 32 := Vector.replicate 32 {}
  ep       : Vector (BitVec 2) 32 := Vector.replicate 32 0
  age      : Vector Nat 32 := Vector.replicate 32 0
  last     : Vector Nat 4 := Vector.replicate 4 31
  /-- The logical core that its physical core's selection served last (R234). -/
  served   : Nat := 0
  /-- The activations that its physical core may still start in the present tick: one in each of its cycles (R232). -/
  starts   : Nat := 1
  sendq    : List Msg := []
  links    : Vector (List Deposit) 4 := Vector.replicate 4 []
  utlb     : List TlbEnt := []
  l1       : List L1Line := []
  fused    : Bool := false
  /-- The L1 size is 0 while the launch is folded (R363). -/
  noL1     : Bool := false
  rows     : Tbl Row := []
  jobs     : List JobHist := []
  nextJob  : BitVec 16 := 0
  lacc     : List LaccOp := []
  /-- The CYC of each bank's last refresh (R251). -/
  bankRef  : Vector W64 16 := Vector.replicate 16 0
  /-- The slot sampled last, and the CYC from which the next sample is due (R443). -/
  sampled  : Nat := 3
  sampleAt : W64 := 0
  nests    : Nat := 0
  ncause   : BitVec 8 := 0
  retired  : Bool := false
  /-- Service cores only: the collector queue (R429), the dump unit (R437) and whether its neighbour stands in (R439). -/
  collector : List (BitVec 256) := []
  dmpt     : W64 := 0
  dmpc     : W64 := 0
  dumpBeg  : W64 := 0
  dumpBy   : Nat := 0
  deriving DecidableEq, Repr

/-! ## Clusters, engines, dies -/

/-- A collective command's progress (R306 to R310): the package list read, its gate and the tick of the next poll, the ring or
tree step, the partial results as FP32, integer or element words, the children seen, a write to be made, and what the other
members are told at an end (nothing when they told it). -/
structure Coll where
  listOk  : Bool := false
  gateOk  : Bool := false
  pkgs    : List Nat := []
  pollAt  : W64 := 0
  step    : Nat := 0
  acc     : List W64 := []
  seen    : List Nat := []
  wr      : Option (W64 × List Byte) := none
  tell    : Option (BitVec 8) := none
  told    : Bool := false
  /-- Packages outside its own list that are told too, and those that have heard of a mismatch (R307). -/
  also    : List Nat := []
  heard   : List Nat := []
  deriving DecidableEq, Repr

/-- The access of a job under way: which part of its position it serves (0 when none is), its requests in order, the index read
by a GATHER or SCATTER, the most positions that the access may take (0 for no limit), and whether it stands inside a beat (R290). -/
structure Beat where
  stage : Nat := 0
  ids   : List Nat := []
  idx   : Int := 0
  lim   : Nat := 0
  more  : Bool := false
  deriving DecidableEq, Repr

/-- A command accepted by a job queue or a collective engine (R269, R272, R305), with what acceptance recorded. -/
structure Job where
  jid    : BitVec 16 := 0
  /-- Its place in the order of acceptance. -/
  seq    : Nat := 0
  cid    : Nat := 0
  slot   : Nat := 0
  did    : BitVec 4 := 0
  lid    : BitVec 16 := 0
  ctx    : Nat := 0
  pc     : W64 := 0
  clk    : BitVec 32 := 0
  cmd    : W512 := 0
  vecs   : List W512 := []
  hzn    : Vector Hzn 16 := Vector.replicate 16 {}
  hznUse : List Nat := []
  hznev  : BitVec 16 := 0
  gen    : BitVec 9 := 0
  /-- Requests whose completion ACQ waits for (R273). -/
  acqIds : List Nat := []
  running : Bool := false
  /-- Its effect has ended with this status. -/
  ended  : Option (BitVec 8) := none
  /-- K steps, rows or destination positions done. -/
  pos    : Nat := 0
  bytes  : Nat := 0
  seed   : W64 := 1
  token  : Bool := false
  beat   : Beat := {}
  coll   : Coll := {}
  deriving DecidableEq, Repr

/-- An accumulator tile (R275 to R278): its words and residues by index 16i + j, its owner and its released mark. -/
structure Tile where
  words    : Tbl (BitVec 32) := []
  residues : Tbl (BitVec 2) := []
  owner    : BitVec 3 := 0
  released : Bool := false
  deriving DecidableEq, Repr

/-- A cluster: job queue, engines, tiles, TLB and trace buffer. -/
structure Cluster where
  queue   : List Job := []
  lastAcc : Nat := 7
  tiles   : Vector Tile 16 := Vector.ofFn fun i => { owner := BitVec.ofNat 3 (i.val / 2) }
  held    : List Msg := []
  tlb     : List TlbEnt := []
  trace   : List W512 := []
  loss    : BitVec 32 := 0
  gated   : Bool := false
  /-- The clusters of narrowed launches whose tiles a physical cluster holds, one for each such launch at most (R363). -/
  resident : List Nat := []
  deriving DecidableEq, Repr

/-- A logical die's clock and ring (R284, R500 to R504): the applied code, the code a step is to reach, whether the clock
runs, the tick of the stop, CYC, TCYC with its fraction, the parts of a cycle not yet counted, the token count, and the droop
count. -/
structure Die where
  code    : BitVec 4 := 8
  ceil    : BitVec 4 := 8
  want    : BitVec 4 := 8
  running : Bool := true
  stopAt  : W64 := 0
  cyc     : W64 := 0
  tcyc    : W64 := 0
  frac    : BitVec 16 := 0
  phase   : Nat := 0
  tokens  : Nat := 512
  droopc  : W64 := 0
  /-- Ticks of stretched cycles that are still to be left out of its cycles (R503). -/
  debt    : Nat := 0
  /-- Its C-die does not work, and has been declared lost; no spare stands in for it (R496). -/
  dead    : Bool := false
  gone    : Bool := false
  deriving DecidableEq, Repr

/-! ## Memory dies -/

/-- A line of an LLC (R391): `line` is PA[39:6] of a home line; a foreign line is named by its home package, context and
virtual line, with its home's PA[39:6] in `hline` and the page kind that its home gave. The payload holds its sectors in payload order. `egrp` is the erasure group
of a line of an ERASE page, with its virtual line. The line's race metadata is the one of its shadow place (R337). -/
structure LlcLine where
  frn     : Bool := false
  line    : Nat := 0
  pkg     : Nat := 0
  ctx     : Nat := 0
  hline   : Nat := 0
  ord     : BitVec 2 := 1
  dirty   : Bool := false
  cst     : BitVec 2 := 0
  exp     : Bool := false
  hdr     : BitVec 24 := 0
  slist   : List (BitVec 8) := []
  payload : List W64 := []
  tags    : BitVec 4 := 0
  egrp    : Option (BitVec 8 × Nat) := none
  deriving DecidableEq, Repr

/-- A pseudo-channel of an HBM controller (R405 to R409): the next slot, owed refreshes, open rows by bank, the tick until which a
group is blocked, the phase of a forced all-bank refresh with its slot's tick, and the slots deferred by it. -/
structure PChan where
  slot    : Nat := 0
  owed    : List Nat := []
  rows    : Tbl Nat := []
  blocked : Tbl Nat := []
  forced  : Option (Nat × Bool) := none
  defer_   : List Nat := []
  deriving DecidableEq, Repr

/-- One stack's controller (R404, R410). -/
structure Hbm where
  pchans  : Tbl PChan := []
  lastReq : Nat := 0
  down    : Bool := false
  deriving DecidableEq, Repr

/-- The migration registers and progress of an M-die (R385 to R388): the phase is 0 when none runs, 1 marked, 2
committed, 3 to be replayed at the old frame after a conflict, 9 ended by an uncorrectable error with the entry still marked. -/
structure Mig where
  msrc   : W64 := 0
  mdst   : W64 := 0
  mpte   : W64 := 0
  mnew   : W64 := 0
  status : BitVec 4 := 0
  size   : BitVec 2 := 0
  phase  : Nat := 0
  old    : W64 := 0
  qmax   : Nat := 0
  deriving DecidableEq, Repr

/-- A memory die (R390, R403, R385, R386). -/
structure MDie where
  lost   : Bool := false
  llc    : List LlcLine := []
  count  : Tbl W64 := []
  hbms : Vector Hbm 2 := Vector.replicate 2 {}
  mig    : Mig := {}
  cklo   : W64 := 0
  ckhi   : W64 := 0
  shbase : W64 := 0
  deriving DecidableEq, Repr

/-! ## Directory, fabric -/

/-- A directory entry (R412). -/
structure DirEnt where
  ctx   : Nat := 0
  vpn   : Nat := 0
  pline : Nat := 0
  state : BitVec 3 := 0
  crs   : Bool := false
  owner : Nat := 0
  shr   : List Nat := []
  deriving DecidableEq, Repr

/-- A request of the directory that waits for its turn on its line (R415): a GetS or GetM of package `r` with the mapping that it names, a
Put with or without data, a PutS, or the loss of both copies of the entry (R421). -/
inductive DirReq where
  | gets (r pl ctx vpn : Nat)
  | getm (r pl ctx vpn : Nat)
  | put (r pl : Nat) (data : Option (W512 × BitVec 4))
  | puts (r pl : Nat)
  | both (pl : Nat)
  deriving DecidableEq, Repr

/-- An entry of the write-back buffer (R419): the home package, the context, the virtual line and the home's line, the data with their tags,
whether the Put carries them, and whether they are poisoned. -/
structure WbEnt where
  pkg   : Nat := 0
  ctx   : Nat := 0
  line  : Nat := 0
  hline : Nat := 0
  data  : W512 := 0
  tags  : BitVec 4 := 0
  dirty : Bool := false
  bad   : Bool := false
  deriving DecidableEq, Repr

/-- A directory transaction that waits for acknowledgements (R414, R416); `lost` where both copies of its entry were lost (R421). -/
structure Trans where
  pline : Nat := 0
  req   : Nat := 0
  getM  : Bool := false
  wait_  : List Nat := []
  home  : Bool := true
  since : W64 := 0
  local_ : Option Nat := none
  recalled : Bool := false
  lost  : Bool := false
  deriving DecidableEq, Repr

/-- The directory of the two S-dies, which hold it alike (R412): which S-dies live, entries most recently used first,
transactions, the requests that wait (R415), the write-back buffer (R419), the counters of each S-die (R422: index
i of S-die s at 16 s + i) and the translation caches (R377). -/
structure Dir where
  live    : Vector Bool 2 := Vector.replicate 2 true
  ents    : List DirEnt := []
  trans   : List Trans := []
  queue   : List DirReq := []
  wbBuf   : List WbEnt := []
  count   : Tbl W64 := []
  tcache  : Vector (List TlbEnt) 2 := Vector.replicate 2 []
  deriving DecidableEq, Repr

/-- A route (R458). -/
structure Route where
  v     : Bool := false
  hops  : Nat := 0
  mport : Nat := 0
  ints  : List Nat := []
  deriving DecidableEq, Repr

/-- A packet in an S-die (R460, R463): its route, the virtual channel, the output port it waits for and the input port whose
slots it holds, its flits' payloads and how many of them have left. -/
structure Packet where
  dpkg  : Nat := 0
  spkg  : Nat := 0
  ipkg  : Nat := 0
  ph    : Bool := false
  min   : Bool := false
  mc    : Bool := false
  epoch : Bool := false
  vc    : Nat := 0
  port  : Option Nat := none
  inPort : Option Nat := none
  body  : List (BitVec 928) := []
  sent  : Nat := 0
  deriving DecidableEq, Repr

/-- A fabric port's link (R462 to R468): state 0 down, 1 up, 2 retraining; whether it has stopped carrying flits; the next SEQ,
the replay buffer with the SEQ of each flit and the packets sent with the SEQ of their last flit, the last SEQ received in order,
whether a NAK was sent and is due, the NAKs sent for one SEQ, credits, the free slots of the input side, slots to return,
sequenced flits since the last sync flit, the tick of the last intact flit, the arbitration settings with their position, the
channel served last, the flit times of the present window and its collective flits (R311), the counters, and the flits of packets that are arriving. -/
structure Port where
  state   : BitVec 2 := 0
  dead    : Bool := false
  seq     : BitVec 12 := 0
  replay  : List (BitVec 12 × BitVec 1024) := []
  sentPk  : List (BitVec 12 × Packet) := []
  ack     : BitVec 12 := 0xFFF
  nakSent : Bool := false
  nakDue  : Bool := false
  naks    : Nat := 0
  credits : Vector Nat 8 := Vector.replicate 8 256
  free    : Vector Nat 8 := Vector.replicate 8 256
  returns : Vector Nat 8 := Vector.replicate 8 0
  sinceSync : Nat := 0
  lastOk  : W64 := 0
  wcoll   : BitVec 4 := 1
  wother  : BitVec 4 := 1
  share   : Nat := 16
  /-- Settings of CEARB that apply from the next window on (R314). -/
  newArb  : Option (BitVec 4 × BitVec 4 × Nat) := none
  turn    : Nat := 0
  lastVc  : Nat := 4
  win     : Nat := 0
  winColl : Nat := 0
  count   : Tbl W64 := []
  rx      : List (BitVec 1024) := []
  deriving DecidableEq, Repr

/-- The fabric as the package sees it: routes, ports, packets, the entries of `State.out` that have become packets, the two copies of the die map with the current epoch (R469)
and whether an update is being drained (R470), the tick of each neighbour's last heartbeat (R491), what is silent and what has
been declared lost (R492). -/
structure Fabric where
  routes  : Tbl Route := []
  ports   : Tbl Port := []
  packets : List Packet := []
  injected : List Nat := []
  map0    : Vector (BitVec 16) 16 := Vector.ofFn fun i => BitVec.ofNat 16 i.val
  map1    : Vector (BitVec 16) 16 := Vector.ofFn fun i => BitVec.ofNat 16 i.val
  epoch   : Bool := false
  draining : Bool := false
  heard   : Tbl W64 := []
  silent  : List Nat := []
  lost    : List DieRef := []
  fenced  : Bool := false
  deriving DecidableEq, Repr

/-! ## Contexts, launches, domains -/

/-- A latched context (R357) with its event vector (R213) and the last setter of each word (R333). -/
structure Ctx where
  valid  : Bool := false
  ptroot : W64 := 0
  flags  : BitVec 8 := 0
  pceil  : BitVec 2 := 0
  qdepth : BitVec 8 := 0
  saveb  : W64 := 0
  ev     : Vector W64 4 := Vector.replicate 4 0
  setter : Vector (Option (BitVec 18 × BitVec 32)) 4 := Vector.replicate 4 none
  sweep  : Bool := false
  deriving DecidableEq, Repr

/-- The states of a launch (R359); a retired launch leaves the list. -/
inductive LState where
  | queued
  | eligible
  | running
  deriving DecidableEq, Repr

/-- A launch (R211, R226, R354, R359 to R363): `desc` is its descriptor, `table` its handler-table image, `rgns` its region
list, `msgs` its initial messages, `caps` the capabilities of R350; `seen` the wait bits seen set; the live group with its
origin relative to the rectangle's; the group that it is being moved to, the CYC at which the grace ends, and the launch that it
makes room for; whether it is narrowed for a launch that has ended since; whether its rectangle is reserved for it; the code as
it stood at admission (R75); the groups fenced by KILLG. -/
structure Launch where
  lid    : BitVec 16 := 0
  desc   : BitVec 1024 := 0
  table  : List W128 := []
  rgns   : List W128 := []
  msgs   : List Msg := []
  caps   : List W128 := []
  code   : W128 := 0
  state  : LState := .queued
  seen   : BitVec 256 := 0
  since  : W64 := 0
  live   : Nat × Nat × Nat × Nat := (0, 0, 0, 0)
  moving : Option (Nat × Nat × Nat × Nat) := none
  graceAt : W64 := 0
  narrowBy : Option (BitVec 16) := none
  reserved : Bool := false
  /-- Its reservation's place in the order of reservations. -/
  resAt   : Nat := 0
  image  : Tbl W512 := []
  /-- Bytes of code elsewhere, by address, as they were first fetched (R75). -/
  fetched : Tbl Byte := []
  fences : List (Nat × Nat × Nat × Nat) := []
  /-- Its retirement waits for its stores and write-backs (R148, R359). -/
  ending : Bool := false
  deriving DecidableEq, Repr

/-- A root record of a domain (R479, R525). -/
structure Root where
  msg    : Option Msg := none
  job    : Option Job := none
  win    : Nat := 0
  deriving DecidableEq, Repr

/-- A containment domain (R472 to R484): the states are those of R219; `back` is the state to return to from state 4;
`phase` counts the steps of an abort, 9 the parity sync of a completion; `reexec` is the choice of the abort under way; `off` is the free byte of the root log. -/
structure Domain where
  ctx     : Nat := 0
  did     : BitVec 4 := 0
  parent  : BitVec 4 := 0
  depth   : Nat := 1
  state   : Nat := 1
  back    : Nat := 1
  fails   : Nat := 0
  esc     : Nat := 3
  erase   : Bool := false
  ev      : Option (BitVec 8) := none
  desc    : W64 := 0
  area    : W128 := 0
  pres    : List (W64 × Nat × Bool) := []
  outs    : List (W64 × Nat) := []
  owner   : Nat × Nat := (0, 0)
  remote  : Tbl Nat := []
  roots   : List Root := []
  off     : Nat := 0
  noReexec : Bool := false
  phase   : Nat := 0
  /-- The tick at which the latest abort began, and whether an error began it (R498). -/
  since   : W64 := 0
  byError : Bool := false
  reexec  : Bool := false
  escalate : Bool := false
  reissued : Nat := 0
  /-- Keys of local-memory words whose errors caused the abort (R482). -/
  scrub   : List Nat := []
  deriving DecidableEq, Repr

/-- A barrier episode in progress (R215): the launch, the shape, the group's origin and the logical cores arrived. -/
structure Episode where
  lid     : BitVec 16 := 0
  shape   : BitVec 8 := 0
  gx      : Nat := 0
  gy      : Nat := 0
  arrived : List Nat := []
  deriving DecidableEq, Repr

/-- A TLBINV in progress (R224, R383): who waits (slot 4: the package `cid`, whose flush is performed here), the page, the number
below which requests of the page must complete first, the packages still to acknowledge (this one among them) and those counted. -/
structure Inv where
  k      : Nat := 0
  cid    : Nat := 0
  slot   : Nat := 0
  ctx    : Nat := 0
  va     : Nat := 0
  level  : Nat := 0
  all    : Bool := false
  upTo   : Nat := 0
  wait_  : List Nat := []
  acks   : Nat := 0
  deriving DecidableEq, Repr

/-- An entry of the atomic handler window (R299, R300): staged bytes by offset, the installed image, STATUS, the image being
installed, and whether its staged bytes were written meanwhile. -/
structure HEnt where
  staged : Tbl Byte := []
  inst   : Option Image := none
  code   : BitVec 8 := 0
  index  : BitVec 8 := 0
  coming : Option (Option Image) := none
  spoilt : Bool := false
  deriving DecidableEq, Repr

/-! ## Host side, power -/

/-- A host command ring (R352). -/
structure Ring where
  rbase  : W64 := 0
  tail   : BitVec 32 := 0
  head   : BitVec 32 := 0
  errpos : BitVec 32 := 0
  err    : BitVec 8 := 0
  halt   : Bool := false
  en     : Bool := false
  rcomp  : W64 := 0
  chead  : BitVec 32 := 0
  deriving DecidableEq, Repr

/-- A trace sink block (R446). -/
structure Sink where
  tsb   : W64 := 0
  lost  : BitVec 32 := 0
  head  : BitVec 32 := 0
  tail  : BitVec 32 := 0
  cur   : BitVec 5 := 10
  adapt : Bool := true
  min   : BitVec 5 := 10
  /-- The tick from which the next evaluation is due (R447). -/
  evalAt : W64 := 0
  deriving DecidableEq, Repr

/-- A parity delta sent and not yet acknowledged (R487). -/
structure Delta where
  k    : Nat := 0
  egrp : Nat := 0
  pkg  : Nat := 0
  sync : Bool := false
  deriving DecidableEq, Repr

/-- What a power-fail drain wrote to board flash (R509), as it is to be reloaded: the drained cores with their slot records and
input-buffer headers, the bytes of persist regions with their granule tags and poisoned words, contexts, launches, domains, the
logical clusters that physical ones hold, and what was cut: core, LID, context and DID of each activation or message. -/
structure Drained where
  cores    : Tbl Core := []
  mem      : List Host.Cell := []
  tags     : List Nat := []
  errs     : List (Nat × Bool) := []
  ctxs     : Tbl Ctx := []
  launches : List Launch := []
  domains  : List Domain := []
  resident : Tbl (List Nat) := []
  lost     : List (Nat × Nat × Nat × BitVec 4) := []
  deriving DecidableEq, Repr

/-- The host register space (R515) less the parts kept with the unit they belong to, and what the V-die keeps for the host:
the boot counter and log, the groups of the sync under way (R485), and the progress of a power-fail drain and of its restore: stage 1
draining, 3 reloaded and frozen. -/
structure HostSt where
  rings   : Vector Ring 16 := Vector.replicate 16 {}
  ctxb    : W64 := 0
  sinks   : Tbl Sink := []
  egtb    : W64 := 0
  esBusy  : Bool := false
  esAll   : Bool := false
  esGrp   : BitVec 8 := 0
  esRunAll : Bool := false
  esRunGrp : BitVec 8 := 0
  repaired : BitVec 32 := 0
  deltas  : List Delta := []
  badPlace : Nat := 0
  pend    : List (BitVec 256) := []
  pfhead  : BitVec 32 := 0
  pftail  : BitVec 32 := 0
  pflost  : BitVec 32 := 0
  mbstat  : BitVec 8 := 0
  mbcmd   : BitVec 8 := 0
  mbaddr  : W64 := 0
  mblen   : W64 := 0
  windows : Vector (W64 × W64) 16 := Vector.replicate 16 (0, 0)
  pfvalid : Bool := false
  fwbad   : Bool := false
  ready   : Bool := false
  pfstage : Nat := 0
  drained : Option Drained := none
  drainAt : W64 := 0
  off     : Bool := false
  boots   : W64 := 0
  log     : List Byte := []
  dumpSlot : Nat := 0
  deriving DecidableEq, Repr

/-- The power controller (R504 to R507): `quiet` counts the low evaluations since the last move, `evalAt` is the tick of the
next evaluation. -/
structure Power where
  cap    : BitVec 16 := 480
  pincap : BitVec 16 := 480
  pwr    : BitVec 16 := 0
  notch  : Nat := 0
  pin    : Bool := false
  met    : Bool := true
  tokmax : BitVec 10 := 512
  quiet  : Nat := 0
  evalAt : W64 := 0
  hot    : Bool := false
  temps  : Tbl (BitVec 16) := []
  deriving DecidableEq, Repr

/-! ## What surrounds the package -/

/-- What has left the package: interrupts to the host (R517), requests and messages to other packages (R293), their acceptance or refusal, directory
messages (R416, R401), answers to other packages' requests, flits (R462), the ACK of a lost link (R467), heartbeats and management broadcasts (R491, R492),
parity deltas (R487), collective partials (R309), TLBINV flushes (R383) and host read data (R516), among it what a read of a register that the read clears returns. -/
inductive Out where
  | irq (vector : Nat)
  | request (r : Req)
  | message (m : Msg)
  | verdict (p mid : Nat) (ok : Bool) (cause : BitVec 8)
  | directory (kind : Nat) (p pline : Nat) (data : W512) (tags : BitVec 4)
  | answer (r : Req)
  | flit (port : Nat) (f : BitVec 1024)
  | heartbeat (p : Nat)
  | declare_ (p : Nat) (d : DieRef)
  | linkAck (p port : Nat) (ack : BitVec 12)
  | deltaAck (pkg egrp o : Nat) (isQ : Bool)
  | delta (pkg egrp o pos : Nat) (isQ : Bool) (d : W512) (t : BitVec 8)
  | partial_ (p : Nat) (collid : BitVec 32) (words : List W64)
  | flush (p ctx : Nat) (va : W64) (size : Nat)
  | ack (p : Nat)
  | hostData (ok : Bool) (d : W512)
  | notice (p ctx did : Nat)
  | domain (p kind ctx did : Nat) (va : W64) (n : Nat) (area : W64)
  deriving DecidableEq, Repr

/-- What happens next, as plain data: ticks pass, a slot issues, a device event takes place, or the parts of an access, at an S-die, or a
message reach the package from outside. -/
inductive Input where
  | time (ticks : Nat)
  | issue (cid slot : Nat)
  | event (i : Instr)
  | arrive (sdie : Nat) (rs : List Req)
  | arriveMsg (m : Msg)
  deriving DecidableEq, Repr

/-- One package. `agenda` is what is to happen next, in order; `turn` the slot that issues. `mem` holds local memories, HBM,
host memory and board flash by the keys of Ops.lean; `tags` the granules whose tag is set; `errs` the words and lines whose
check bits do not hold (true: uncorrectable). `fresh` is the model's own counter for free values, `nextId` for requests.
`fpkts` holds the fault packets on their way, each with the row it travels to (R427, R428). -/
structure State where
  pkg      : BitVec 10 := 0
  agenda   : List Input := []
  turn     : Nat × Nat := (0, 0)
  fresh    : Nat := 0
  nextId   : Nat := 1
  reft     : W64 := 0
  /-- A tick to be repeated (true) or omitted (false) when time next passes (R499). -/
  reftAdj  : Option Bool := none
  /-- The tick from which the next correction is allowed. -/
  reftNext : W64 := 0
  mem      : List Host.Cell := []
  tags     : List Nat := []
  errs     : List (Nat × Bool) := []
  cores    : Tbl Core := []
  clusters : Tbl Cluster := []
  dies     : Tbl Die := []
  mdies    : Tbl MDie := []
  dir      : Dir := {}
  /-- The commands of the two collective engines (R305). -/
  colls    : Vector (List Job) 2 := Vector.replicate 2 []
  /-- Collective commands suspended by a translation fault, until they are submitted again (R313). -/
  suspd    : List Job := []
  fab      : Fabric := {}
  ctxs     : Tbl Ctx := []
  launches : List Launch := []
  domains  : List Domain := []
  episodes : List Episode := []
  reqs     : List Req := []
  accs     : List Access := []
  msgs     : List Msg := []
  spills   : Tbl (List Msg) := []
  /-- The CYC at which the router of a core last offered its spill queue's head (R241). -/
  spillAt  : Tbl W64 := []
  fpkts    : List (Nat × BitVec 256) := []
  invs     : List Inv := []
  handlers : Tbl HEnt := []
  host     : HostSt := {}
  power    : Power := {}
  out      : List Out := []
  deriving DecidableEq, Repr

/-- The package right after reset: every field as its declaration gives it. DESIGN CHOICE (log 10): unsafe. DEDUCED (log 11):
unsafe. -/
def State.reset : State := {}

end Sys2Proof.Machine
end

