-- ==== Sys2Proof/Machine/Bits.lean ====
section
/-! DEFINITION. Helpers over words, elements of vectors, byte strings, and tables sorted by index. -/
namespace Sys2Proof.Machine

/-! ## Fields of words -/

/-- Bits `lo` to `lo + len - 1` of a word, as a number (R4). -/
def fld {n : Nat} (x : BitVec n) (lo len : Nat) : Nat := (x.toNat >>> lo) % 2 ^ len

/-- A word with the field at `lo` of `len` bits replaced. -/
def setFld {n : Nat} (x : BitVec n) (lo len v : Nat) : BitVec n :=
  let m := BitVec.ofNat n ((2 ^ len - 1) <<< lo)
  (x &&& ~~~m) ||| (BitVec.ofNat n ((v % 2 ^ len) <<< lo))

/-- The word with the given fields: position, width and value of each. -/
def packFields (n : Nat) (fs : List (Nat × Nat × Nat)) : BitVec n :=
  BitVec.ofNat n (fs.foldl (fun acc f => acc + (f.2.2 % 2 ^ f.2.1) <<< f.1) 0)

/-- SignExt of the low `n` bits of a number (R9). -/
def sextN (n x : Nat) : Int :=
  let y := x % 2 ^ n
  if 0 < n && 2 ^ (n - 1) ≤ y then (y : Int) - 2 ^ n else y

/-- The low `n` bits of an integer (Trunc, R9). -/
def truncI (n : Nat) (x : Int) : Nat := (x % (2 ^ n : Int)).toNat

def b2n (b : Bool) : Nat := if b then 1 else 0

def bitsOr (a b : Nat) : Nat := a ||| b

/-- The position of the highest 1 bit, plus one (0 for 0). -/
def bitLen (x : Nat) : Nat := if x == 0 then 0 else Nat.log2 x + 1

/-- The number of 1 bits among the low `n`. -/
def popCount : Nat → Nat → Nat
  | 0, _ => 0
  | n + 1, x => x % 2 + popCount n (x / 2)

/-- The number of 0 bits below the lowest 1, at most `n`. -/
def trailZ : Nat → Nat → Nat
  | 0, _ => 0
  | n + 1, x => if x % 2 == 1 then 0 else 1 + trailZ n (x / 2)

/-- The low `n` bits in reverse order. -/
def revBits : Nat → Nat → Nat
  | 0, _ => 0
  | n + 1, x => (x % 2) * 2 ^ n + revBits n (x / 2)

/-! ## Bytes and elements (R33) -/

def vByte (v : W512) (i : Nat) : Byte := v.extractLsb' (8 * i) 8

/-- Element `j` of width `w` bytes. -/
def vElem (v : W512) (w j : Nat) : Nat := (v.toNat >>> (8 * w * j)) % 2 ^ (8 * w)

def vSetElem (v : W512) (w j x : Nat) : W512 := setFld v (8 * w * j) (8 * w) x

/-- The bytes of a word from byte 0 upward. -/
def bytesOf {n : Nat} (v : BitVec n) (len : Nat) : List Byte := leBytes len v.toNat

def ofBytes (n : Nat) (bs : List Byte) : BitVec n := BitVec.ofNat n (leNat bs)

/-- A 512-bit word made of elements of `w` bytes, element 0 lowest. -/
def vOfElems (w : Nat) (es : List Nat) : W512 :=
  BitVec.ofNat 512 (es.foldr (fun e acc => e % 2 ^ (8 * w) + acc * 2 ^ (8 * w)) 0)

/-- A byte mask as a mask of the bits of a 512-bit word. -/
def maskBits (m : BitVec 64) : W512 :=
  BitVec.ofNat 512 ((List.range 64).foldr (fun i acc => (if m.getLsbD i then 0xFF else 0) + acc * 256) 0)

/-- The bytes of `new` where the mask is set, those of `old` elsewhere. -/
def mergeBytes (old new : W512) (m : BitVec 64) : W512 :=
  let k := maskBits m
  (old &&& ~~~k) ||| (new &&& k)

/-- A mask of `len` bytes from byte `off`. -/
def byteMask (off len : Nat) : BitVec 64 := BitVec.ofNat 64 ((2 ^ len - 1) <<< off)

/-! ## Tables sorted by index -/

def tblGet {α : Type} (k : Nat) : Tbl α → Option α
  | [] => none
  | (i, a) :: t => if i == k then some a else if k < i then none else tblGet k t

def tblGetD {α : Type} (t : Tbl α) (k : Nat) (d : α) : α := (tblGet k t).getD d

/-- The table with the value at an index replaced or inserted in order. -/
def tblSet {α : Type} (k : Nat) (a : α) : Tbl α → Tbl α
  | [] => [(k, a)]
  | (i, b) :: t => if i == k then (k, a) :: t else if k < i then (k, a) :: (i, b) :: t else (i, b) :: tblSet k a t

def tblErase {α : Type} (k : Nat) : Tbl α → Tbl α
  | [] => []
  | (i, b) :: t => if i == k then t else if k < i then (i, b) :: t else (i, b) :: tblErase k t

/-- A sorted list of numbers with one inserted. -/
def insNat (k : Nat) : List Nat → List Nat
  | [] => [k]
  | i :: t => if i == k then i :: t else if k < i then k :: i :: t else i :: insNat k t

def delNat (k : Nat) : List Nat → List Nat
  | [] => []
  | i :: t => if i == k then t else if k < i then i :: t else i :: delNat k t

def memNat (k : Nat) : List Nat → Bool
  | [] => false
  | i :: t => if i == k then true else if k < i then false else memNat k t

/-- The first element that satisfies a test, replaced. -/
def replaceFirst {α : Type} (p : α → Bool) (f : α → α) : List α → List α
  | [] => []
  | a :: t => if p a then f a :: t else a :: replaceFirst p f t

def removeFirst {α : Type} (p : α → Bool) : List α → List α
  | [] => []
  | a :: t => if p a then t else a :: removeFirst p t

/-- The index of the first element that satisfies a test. -/
def indexOf? {α : Type} (p : α → Bool) : List α → Option Nat
  | [] => none
  | a :: t => if p a then some 0 else (indexOf? p t).map (· + 1)

/-- An element of a fixed array, or the default beyond its end. -/
def vget {α : Type} {n : Nat} (v : Vector α n) (i : Nat) (d : α) : α := v.toArray.getD i d

def vset {α : Type} {n : Nat} (v : Vector α n) (i : Nat) (a : α) : Vector α n := v.setIfInBounds i a

end Sys2Proof.Machine
end

