-- ==== Sys2Proof/Machine/Float.lean ====
section
/-! DEFINITION. Floating-point formats, exact values and the one rounding routine (R51 to R62), and the exact arithmetic that
the scalar, vector and engine operations deliver through it (R167 to R173). -/
namespace Sys2Proof.Machine

/-! ## Formats (R51, R52) -/

/-- A format: width, mantissa bits, bias, whether it has infinities. -/
structure FFmt where
  bits : Nat
  mant : Nat
  bias : Nat
  inf  : Bool
  deriving DecidableEq, Repr

/-- The format of a TYPE code (R80). -/
def ffmt (t : Nat) : FFmt :=
  match t with
  | 0x0A => ⟨64, 52, 1023, true⟩
  | 0x0B => ⟨32, 23, 127, true⟩
  | 0x0C => ⟨16, 10, 15, true⟩
  | 0x0D => ⟨16, 7, 127, true⟩
  | 0x0E => ⟨8, 3, 7, false⟩
  | _ => ⟨8, 2, 15, true⟩

/-- The code of +infinity, or of the binade above the largest finite value. -/
def infCode (t : Nat) : Nat :=
  let f := ffmt t
  (2 ^ (f.bits - 1 - f.mant) - 1) * 2 ^ f.mant

/-- The code of the largest finite value. -/
def maxCode (t : Nat) : Nat := if (ffmt t).inf then infCode t - 1 else 0x7E

/-- The canonical quiet NaN (R52); for E8M0 the NaN scale. -/
def nanCode (t : Nat) : Nat :=
  if t == 0x10 then 0xFF
  else if (ffmt t).inf then infCode t + 2 ^ ((ffmt t).mant - 1) else 0x7F

/-- The sign bit of a format. -/
def signBit (t : Nat) : Nat := 2 ^ ((ffmt t).bits - 1)

/-- An exact value. A finite value is `(m + d) * 2^e` with the sign, where `d` is 0, or between 0 and 1 when `st` is set. -/
inductive FVal where
  | nan (sig : Bool)
  | inf (neg : Bool)
  | fin (neg : Bool) (m : Nat) (e : Int) (st : Bool)
  deriving DecidableEq, Repr

/-- The value of a code. -/
def decodeF (t x : Nat) : FVal :=
  if t == 0x10 then
    if x % 256 == 255 then .nan false else .fin false 1 ((x % 256 : Nat) - 127) false
  else
    let f := ffmt t
    let neg := x / 2 ^ (f.bits - 1) % 2 == 1
    let ex := x / 2 ^ f.mant % 2 ^ (f.bits - 1 - f.mant)
    let mt := x % 2 ^ f.mant
    let top := 2 ^ (f.bits - 1 - f.mant) - 1
    if f.inf && ex == top then
      if mt == 0 then .inf neg else .nan (mt < 2 ^ (f.mant - 1))
    else if !f.inf && ex == top && mt == 7 then .nan false
    else if ex == 0 then .fin neg mt (1 - (f.bias : Int) - f.mant) false
    else .fin neg (mt + 2 ^ f.mant) ((ex : Int) - f.bias - f.mant) false

/-- FTZ applies to FP64, FP32, FP16 and BF16 (R59). -/
def ftzType (t : Nat) : Bool := 0x0A ≤ t && t ≤ 0x0D

/-- A code is subnormal and not zero. -/
def isSubn (t x : Nat) : Bool :=
  let f := ffmt t
  x / 2 ^ f.mant % 2 ^ (f.bits - 1 - f.mant) == 0 && x % 2 ^ f.mant != 0

/-- The code of an operand after the flush of R59. -/
def flushCode (t : Nat) (ftz : Bool) (x : Nat) : Nat :=
  let y := x % 2 ^ (ffmt t).bits
  if ftz && ftzType t && isSubn t y then y / signBit t * signBit t else y

/-- An operand's value under FTZ (R59). -/
def operandF (t : Nat) (ftz : Bool) (x : Nat) : FVal := decodeF t (if t == 0x10 then x else flushCode t ftz x)

/-! ## Flags (R41, R57), at their places in FPC -/

abbrev FFlags := BitVec 9
def fNV : FFlags := 0x010
def fDZ : FFlags := 0x020
def fOF : FFlags := 0x040
def fUF : FFlags := 0x080
def fNX : FFlags := 0x100

/-! ## Rounding (R56, R58) -/

/-- The rounding modes, by their codes in FPC.RM: 0 RNE, 1 RZ, 2 RU, 3 RD, 4 RS. -/
abbrev RMode := Nat

/-- One step of the sequence of R58. -/
def seedNext (s : W64) : W64 :=
  let x := s ^^^ (s <<< 13)
  let x := x ^^^ (x >>> 7)
  x ^^^ (x <<< 17)

/-- The state after a delivery under a mode: RS draws once, whatever the value. -/
def seedAfter (m : RMode) (s : W64) : W64 := if m == 4 then seedNext s else s

/-- Whether the magnitude `(m + d) * 2^e`, cut to a multiple of `2^q`, is rounded up to the next multiple; with the cut
quotient and whether the cut was inexact. `seed` is the state after the draw. -/
def roundAt (mode : RMode) (seed : W64) (neg : Bool) (m : Nat) (e : Int) (st : Bool) (q : Int) : Nat × Bool :=
  if q ≤ e then (m * 2 ^ (e - q).toNat, st)
  else
    let s := (q - e).toNat
    let l := m >>> s
    let r := m % 2 ^ s
    let inexact := r != 0 || st
    let half := 2 ^ (s - 1)
    let up :=
      match mode with
      | 0 => half < r || (r == half && (st || l % 2 == 1))
      | 1 => false
      | 2 => inexact && !neg
      | 3 => inexact && neg
      | _ => fld seed 32 32 < (r <<< 32) >>> s
    (if up then l + 1 else l, inexact)

/-- What a delivery gives: the code, the flags, the state of SEED. -/
structure Rnd where
  bits  : Nat
  flags : FFlags
  seed  : W64
  deriving DecidableEq, Repr

/-- The overflow result (R56). -/
def overflowCode (t : Nat) (mode : RMode) (sat neg : Bool) : Nat :=
  let sg := if neg then signBit t else 0
  if sat && 0x0C ≤ t then maxCode t + sg
  else
    let toInf := match mode with
      | 1 => false
      | 2 => !neg
      | 3 => neg
      | _ => true
    if !toInf then maxCode t + sg
    else if (ffmt t).inf then infCode t + sg
    else nanCode t

/-- `Round(v, t, mode)` (R56 to R59): `sat` and FTZ as the instruction and FPC give them. -/
def roundF (t : Nat) (mode : RMode) (ftz sat : Bool) (seed0 : W64) (v : FVal) : Rnd :=
  let seed := seedAfter mode seed0
  match v with
  | .nan _ => ⟨nanCode t, 0, seed⟩
  | .inf neg =>
    let sg := if neg then signBit t else 0
    if (ffmt t).inf then ⟨infCode t + sg, 0, seed⟩
    else if sat then ⟨maxCode t + sg, 0, seed⟩ else ⟨nanCode t, 0, seed⟩
  | .fin neg m e st =>
    let sg := if neg then signBit t else 0
    if m == 0 && !st then ⟨sg, 0, seed⟩
    else
      let f := ffmt t
      let emin : Int := 1 - (f.bias : Int)
      let ue : Int := e + (bitLen m : Int) - 1
      let q : Int := max ue emin - f.mant
      let (k, inexact) := roundAt mode seed neg m e st q
      let code : Nat := ((q + f.mant - emin) * 2 ^ f.mant).toNat + k
      if maxCode t < code then ⟨overflowCode t mode sat neg, fOF ||| fNX, seed⟩
      else if ftz && ftzType t && code != 0 && code < 2 ^ f.mant then ⟨sg, fUF ||| fNX, seed⟩
      else ⟨code + sg, (if inexact then fNX else 0) ||| (if inexact && ue < emin then fUF else 0), seed⟩

/-! ## Exact arithmetic (R167) -/

def FVal.neg? : FVal → Bool
  | .nan _ => false
  | .inf n => n
  | .fin n _ _ _ => n

def FVal.negate (s : Bool) : FVal → FVal
  | .nan g => .nan g
  | .inf n => .inf (n != s)
  | .fin n m e st => .fin (n != s) m e st

def FVal.isNan : FVal → Bool
  | .nan _ => true
  | _ => false

def FVal.isSig : FVal → Bool
  | .nan true => true
  | _ => false

def FVal.isZero : FVal → Bool
  | .fin _ 0 _ false => true
  | _ => false

/-- The signed significand at exponent `e0`, which is not above the value's own. -/
def sigAt (neg : Bool) (m : Nat) (e e0 : Int) : Int :=
  let x : Int := (m * 2 ^ (e - e0).toNat : Nat)
  if neg then -x else x

/-- NV for signalling operands. -/
def sigFlag (vs : List FVal) : FFlags := if vs.any FVal.isSig then fNV else 0

/-- An exact sum; `rd` says that the mode is RD, which gives an exact zero sum of unlike zeros the sign minus (R165). -/
def addF (rd : Bool) (a b : FVal) : FVal × FFlags :=
  match a, b with
  | .nan _, _ => (.nan false, sigFlag [a, b])
  | _, .nan _ => (.nan false, sigFlag [a, b])
  | .inf x, .inf y => if x == y then (.inf x, 0) else (.nan false, fNV)
  | .inf x, _ => (.inf x, 0)
  | _, .inf y => (.inf y, 0)
  | .fin na ma ea _, .fin nb mb eb _ =>
    let e0 := min ea eb
    let s := sigAt na ma ea e0 + sigAt nb mb eb e0
    if s == 0 then
      if ma == 0 && mb == 0 && na == nb then (.fin na 0 0 false, 0) else (.fin rd 0 0 false, 0)
    else (.fin (s < 0) s.natAbs e0 false, 0)

/-- An exact product. -/
def mulF (a b : FVal) : FVal × FFlags :=
  match a, b with
  | .nan _, _ => (.nan false, sigFlag [a, b])
  | _, .nan _ => (.nan false, sigFlag [a, b])
  | .inf x, .inf y => (.inf (x != y), 0)
  | .inf x, .fin nb mb _ _ => if mb == 0 then (.nan false, fNV) else (.inf (x != nb), 0)
  | .fin na ma _ _, .inf y => if ma == 0 then (.nan false, fNV) else (.inf (na != y), 0)
  | .fin na ma ea _, .fin nb mb eb _ => (.fin (na != nb) (ma * mb) (ea + eb) false, 0)

/-- `(-1)^np * a * b + (-1)^nc * c`, exact. -/
def fmaF (rd np nc : Bool) (a b c : FVal) : FVal × FFlags :=
  let (p, f1) := mulF a b
  let (v, f2) := addF rd (p.negate np) (c.negate nc)
  if a.isNan || b.isNan || p.isNan || c.isNan then (.nan false, sigFlag [a, b, c] ||| f1) else (v, f2)

/-- An exact quotient, to 128 bits and a sticky bit. -/
def divF (a b : FVal) : FVal × FFlags :=
  match a, b with
  | .nan _, _ => (.nan false, sigFlag [a, b])
  | _, .nan _ => (.nan false, sigFlag [a, b])
  | .inf _, .inf _ => (.nan false, fNV)
  | .inf x, .fin nb _ _ _ => (.inf (x != nb), 0)
  | .fin na _ _ _, .inf y => (.fin (na != y) 0 0 false, 0)
  | .fin na ma ea _, .fin nb mb eb _ =>
    if mb == 0 then if ma == 0 then (.nan false, fNV) else (.inf (na != nb), fDZ)
    else
      let k := 128 + bitLen mb
      let n := ma <<< k
      (.fin (na != nb) (n / mb) (ea - eb - k) (n % mb != 0), 0)

/-- The integer square root, one bit a step from bit `fuel - 1` downward. -/
def isqrt (n : Nat) : Nat → Nat → Nat
  | 0, r => r
  | fuel + 1, r =>
    let c := r + 2 ^ fuel
    isqrt n fuel (if c * c ≤ n then c else r)

/-- The square root, to at least 100 bits and a sticky bit. -/
def sqrtF (a : FVal) : FVal × FFlags :=
  match a with
  | .nan _ => (.nan false, sigFlag [a])
  | .inf true => (.nan false, fNV)
  | .inf false => (.inf false, 0)
  | .fin neg m e _ =>
    if m == 0 then (.fin neg 0 0 false, 0)
    else if neg then (.nan false, fNV)
    else
      let k : Nat := if (e - 200) % 2 == 0 then 200 else 201
      let n := m <<< k
      let r := isqrt n 160 0
      (.fin false r ((e - k) / 2) (r * r != n), 0)

/-- The order of two values that are no NaN: the sign of their difference; zeros of both signs are equal. -/
def cmpF (a b : FVal) : Int :=
  match a, b with
  | .inf x, .inf y => if x == y then 0 else if x then -1 else 1
  | .inf x, _ => if x then -1 else 1
  | _, .inf y => if y then 1 else -1
  | .fin na ma ea _, .fin nb mb eb _ =>
    let e0 := min ea eb
    (sigAt na ma ea e0 - sigAt nb mb eb e0).sign
  | _, _ => 0

/-- FMIN and FMAX over codes after the flush (R168): the code returned and the flags. -/
def minMaxF (t : Nat) (isMax ftz : Bool) (x y : Nat) : Nat × FFlags :=
  let x := flushCode t ftz x
  let y := flushCode t ftz y
  let a := decodeF t x
  let b := decodeF t y
  let fl := sigFlag [a, b]
  if a.isNan && b.isNan then (nanCode t, fl)
  else if a.isNan then (y, fl)
  else if b.isNan then (x, fl)
  else
    let c := cmpF a b
    let less := if c == 0 then a.neg? && !b.neg? else c < 0
    (if less == isMax then y else x, fl)

/-- FSGN (R169): the bits of x with the sign that `op` selects. -/
def sgnF (t op x y : Nat) : Nat :=
  let s := signBit t
  let x := x % (2 * s)
  let sy := y / s % 2
  let sx := x / s
  let sg := match op with
    | 0 => sy
    | 1 => 1 - sy
    | _ => (sx + sy) % 2
  x % s + sg * s

/-- A comparison by the codes of R170 (6 unordered, 7 ordered): the outcome and the flags. -/
def cmpCondF (t cond : Nat) (ftz : Bool) (x y : Nat) : Bool × FFlags :=
  let a := operandF t ftz x
  let b := operandF t ftz y
  let un := a.isNan || b.isNan
  let c := cmpF a b
  let res := match cond with
    | 0 => !un && c == 0
    | 1 => un || c != 0
    | 2 => !un && c < 0
    | 3 => !un && c ≤ 0
    | 4 => !un && 0 < c
    | 5 => !un && 0 ≤ c
    | 6 => un
    | _ => !un
  (res, if (un && 2 ≤ cond && cond ≤ 5) then fNV else sigFlag [a, b])

/-- FCLASS (R171): the mask of a code's class. -/
def classF (t x : Nat) : Nat :=
  let x := x % 2 ^ (ffmt t).bits
  match decodeF t x with
  | .nan true => 2 ^ 8
  | .nan false => 2 ^ 9
  | .inf true => 2 ^ 0
  | .inf false => 2 ^ 7
  | .fin neg m _ _ =>
    if m == 0 then (if neg then 2 ^ 3 else 2 ^ 4)
    else if isSubn t x then (if neg then 2 ^ 2 else 2 ^ 5)
    else (if neg then 2 ^ 1 else 2 ^ 6)

/-! ## Conversions -/

/-- A value to E8M0 (R53): code and flags. -/
def toE8M0 (v : FVal) : Nat × FFlags :=
  match v with
  | .nan _ => (0xFF, fNV)
  | .inf _ => (0xFF, fNV)
  | .fin neg m e _ =>
    if m == 0 then (0, fNX)
    else
      let n : Int := e + (bitLen m : Int) - 1
      let c : Int := if n < -127 then -127 else if 127 < n then 127 else n
      ((c + 127).toNat, if neg || n != c || m != 2 ^ (bitLen m - 1) then fNX else 0)

/-- A conversion between floating formats (R60, R172); E8M0 on either side by R53. -/
def convF (src dst : Nat) (mode : RMode) (ftz sat : Bool) (seed : W64) (x : Nat) : Rnd :=
  let v := operandF src ftz x
  if dst == 0x10 then
    let (c, fl) := toE8M0 v
    ⟨c, fl, seedAfter mode seed⟩
  else
    let r := roundF dst mode ftz sat seed v
    let fl := match v with
      | .nan sig => if sig then fNV else 0
      | .inf _ => if (ffmt dst).inf || sat then 0 else fNV
      | .fin _ _ _ _ => r.flags
    { r with flags := fl }

/-- A conversion to an integer of `n` bits (R61): the integer, the flags, the state. -/
def toIntF (n : Nat) (signed : Bool) (mode : RMode) (seed0 : W64) (v : FVal) : Int × FFlags × W64 :=
  let seed := seedAfter mode seed0
  let lo : Int := if signed then -(2 ^ (n - 1)) else 0
  let hi : Int := if signed then 2 ^ (n - 1) - 1 else 2 ^ n - 1
  match v with
  | .nan _ => (0, fNV, seed)
  | .inf neg => (if neg then lo else hi, fNV, seed)
  | .fin neg m e st =>
    let (k, inexact) := roundAt mode seed neg m e st 0
    let x : Int := if neg then -(k : Int) else k
    if x < lo then (lo, fNV, seed)
    else if hi < x then (hi, fNV, seed)
    else (x, if inexact then fNX else 0, seed)

/-- The exact value of an integer. -/
def ofIntF (x : Int) : FVal := .fin (x < 0) x.natAbs 0 false

/-- FROUND (R173): to an integral value in the same format. -/
def roundIntF (t : Nat) (mode : RMode) (ftz sat : Bool) (seed0 : W64) (x : Nat) : Rnd :=
  match operandF t ftz x with
  | .nan sig => ⟨nanCode t, if sig then fNV else 0, seedAfter mode seed0⟩
  | .inf neg => roundF t mode ftz sat seed0 (.inf neg)
  | .fin neg m e st =>
    let seed := seedAfter mode seed0
    let (k, inexact) := roundAt mode seed neg m e st 0
    let r := roundF t 1 ftz sat seed (.fin neg k 0 false)
    ⟨r.bits, (if inexact then fNX else 0) ||| r.flags, seed⟩

/-- A floating immediate of format `src` in the operation's type (R62): the code, and whether an infinity saturated. -/
def immF (src t x : Nat) : Nat × Bool :=
  let v := decodeF src (x % 2 ^ (ffmt src).bits)
  let r := roundF t 0 false (t == 0x0E) 0 v
  (r.bits, t == 0x0E && (match v with
    | .nan _ => false
    | .inf _ => true
    | .fin _ _ _ _ => r.flags &&& fOF != 0))

end Sys2Proof.Machine
end

