-- ==== Sys2Proof/Machine/Block.lean ====
section
/-! DEFINITION. The block formats E4M3B (TYPE 0x11) and E2M1X (TYPE 0x12): decoding and the quantisation search (R54, R55, R63
to R65). -/
namespace Sys2Proof.Machine

/-- Bytes of a block (R55). -/
def blockBytes (t : Nat) : Nat := if t == 0x12 then 18 else 33

def isBlock (t : Nat) : Bool := t == 0x11 || t == 0x12

/-- Twice the magnitude of an E2M1 code's low three bits (R54). -/
def e2m1Half (c : Nat) : Nat :=
  match c % 8 with
  | 0 => 0
  | 1 => 1
  | 2 => 2
  | 3 => 3
  | 4 => 4
  | 5 => 6
  | 6 => 8
  | _ => 12

/-- The value of an E2M1 code other than 0b1000. -/
def e2m1Val (c : Nat) : FVal := .fin (8 < c % 16) (e2m1Half c) (-1) false

/-- A value times a power of two. -/
def FVal.scale (v : FVal) (s : Int) : FVal :=
  match v with
  | .nan g => .nan g
  | .inf n => .inf n
  | .fin n m e st => .fin n m (e + s) st

/-- Element `i` of a block given by its bytes (R55). -/
def decodeBlock (t : Nat) (blk : List Byte) (i : Nat) : FVal :=
  let at_ (k : Nat) : Nat := (blk.getD k 0).toNat
  let s := at_ (if t == 0x12 then 16 else 32)
  if s == 0xFF then .nan false
  else
    let v :=
      if t == 0x11 then decodeF 0x0E (at_ i)
      else
        let c := at_ (i / 2) / 16 ^ (i % 2) % 16
        if c == 8 then decodeF 0x0E (at_ 17) else e2m1Val c
    v.scale ((s : Int) - 127)

/-- A finite value as an integer multiple of 2^-160: every source element, and every value a block of scale -127 or more can
hold, is one. -/
def scaled (v : FVal) : Int :=
  match v with
  | .fin n m e _ => sigAt n m e (-160)
  | _ => 0

/-- The E2M1 code nearest a finite value, saturating at 6, ties to the even code, never 0b1000 (R63). -/
def nearestE2M1 (y : FVal) : Nat :=
  match y with
  | .fin n m e _ =>
    -- |y| * 4 against the midpoints between neighbouring magnitudes
    let num := m * 2 ^ (e + 2).toNat
    let den := 2 ^ (-(e + 2)).toNat
    let up (i mid : Nat) : Nat := if mid * den < num || (mid * den == num && i % 2 == 1) then 1 else 0
    let c := up 0 1 + up 1 3 + up 2 5 + up 3 7 + up 4 10 + up 5 14 + up 6 20
    if n && c != 0 then c + 8 else c
  | _ => 0

/-- A candidate of the search: its error, scale, element codes and extra value. -/
structure Cand where
  err   : Nat
  scale : Int
  codes : List Nat
  x     : Nat
  deriving DecidableEq, Repr

/-- The lowest index of the largest number of a list. -/
def argMax : List Nat → Nat → Nat → Nat → Nat
  | [], _, bi, _ => bi
  | a :: t, best, bi, i => if best < a || i == 0 then argMax t a i (i + 1) else argMax t best bi (i + 1)

/-- The candidate of one scale for E2M1X. -/
def candE2M1X (xs : List FVal) (s : Int) : Cand :=
  let ys := xs.map (FVal.scale · (-s))
  let qs := ys.map nearestE2M1
  let dist (y : FVal) (v : FVal) : Nat := (scaled (y.scale s) - scaled (v.scale s)).natAbs
  let k := argMax ((ys.zip qs).map fun p => dist p.1 (e2m1Val p.2)) 0 0 0
  let xc := (roundF 0x0E 0 false true 0 (ys.getD k (.fin false 0 0 false))).bits
  let xv := decodeF 0x0E xc
  let cs := (ys.zip qs).map fun p => if dist p.1 xv < dist p.1 (e2m1Val p.2) then 8 else p.2
  let err := ((ys.zip cs).map fun p => dist p.1 (if p.2 == 8 then xv else e2m1Val p.2) ^ 2).foldl (· + ·) 0
  ⟨err, s, cs, xc⟩

/-- The candidate of one scale for E4M3B (R64). -/
def candE4M3B (xs : List FVal) (s : Int) : Cand :=
  let cs := xs.map fun x => (roundF 0x0E 0 false true 0 (x.scale (-s))).bits
  let err := ((xs.zip cs).map fun p => (scaled p.1 - scaled ((decodeF 0x0E p.2).scale s)).natAbs ^ 2).foldl (· + ·) 0
  ⟨err, s, cs, 0⟩

/-- The bytes of a block. -/
def blockOf (t : Nat) (codes : List Nat) (scale x : Nat) : List Byte :=
  if t == 0x12 then
    ((List.range 16).map fun j => BitVec.ofNat 8 (codes.getD (2 * j) 0 + 16 * codes.getD (2 * j + 1) 0)) ++
      [BitVec.ofNat 8 scale, BitVec.ofNat 8 x]
  else ((List.range 32).map fun j => BitVec.ofNat 8 (codes.getD j 0)) ++ [BitVec.ofNat 8 scale]

/-- The exponent n of the largest magnitude, with 2^n ≤ amax < 2^(n+1), from its multiple of 2^-160. -/
def amaxExp (xs : List FVal) : Option Int :=
  let a := (xs.map fun x => (scaled x).natAbs).foldl max 0
  if a == 0 then none else some ((bitLen a : Int) - 1 - 160)

/-- Quantisation of 32 elements (R63 to R65): the block and the flags. DEDUCED (log 32): unsafe. -/
def quantise (t : Nat) (sat : Bool) (xs0 : List FVal) : List Byte × FFlags :=
  let xs := if sat then xs0.map fun x => match x with
    | .inf n => .fin n (2 ^ 24 - 1) 104 false
    | v => v else xs0
  let isInf (v : FVal) : Bool := match v with
    | .inf _ => true
    | _ => false
  let nan := xs.any FVal.isNan
  let inf := xs.any isInf
  if nan || inf then
    (blockOf t [] 0xFF 0, (if nan then fNV else 0) ||| (if inf then fOF else 0))
  else
    let off : Int := if t == 0x12 then 2 else 8
    let e : Int := match amaxExp xs with
      | none => -127
      | some n => let d := n - off
                  if d < -127 then -127 else if 127 < d then 127 else d
    let cands := ([e, e + 1, e - 1].filter fun s => -127 ≤ s && s ≤ 127).map
      (if t == 0x12 then candE2M1X xs else candE4M3B xs)
    let best := cands.foldl (fun (b : Option Cand) c => match b with
      | none => some c
      | some b0 => if c.err < b0.err then some c else some b0) none
    match best with
    | none => (blockOf t [] 0xFF 0, 0)
    | some c => (blockOf t c.codes (c.scale + 127).toNat c.x, if c.err == 0 then 0 else fNX)

end Sys2Proof.Machine
end

