-- ==== Sys2Proof/Machine/Chain.lean ====
section
/-! DEFINITION. Stream descriptors, the operator chain and the elements of a pattern (R193 to R197). -/
namespace Sys2Proof.Machine

/-! ## The descriptor (R194, R195) -/

def sdCount (d : W512) (k : Nat) : Nat := fld d (64 * k) 32
def sdStride (d : W512) (k : Nat) : Int := sextN 32 (fld d (64 * k + 32) 32)
def sdStep (d : W512) (k : Nat) : BitVec 32 := d.extractLsb' (256 + 32 * k) 32
def sdScale (d : W512) : Nat := fld d 384 32
def sdAdds (d : W512) : Nat := fld d 416 32
def sdMask (d : W512) : Nat := fld d 448 32
def sdIfmt (d : W512) : Nat := fld d 480 5
def sdRegfmt (d : W512) : Bool := d.getLsbD 488

def stOpc (x : BitVec 32) : Nat := fld x 0 8
def stFmt (x : BitVec 32) : Nat := fld x 8 5
def stRm (x : BitVec 32) : Nat := fld x 13 3
def stParam (x : BitVec 32) : Nat := fld x 16 16

/-- The steps before the first with OPC 0. -/
def sdChain (d : W512) : List (BitVec 32) := ([0, 1, 2, 3].map (sdStep d)).takeWhile fun x => stOpc x != 0

/-- The bytes of an input element, or of a block. -/
def inBytes (t : Nat) : Nat := if isBlock t then blockBytes t else tyBytes t

/-- A result format of a step. DEDUCED (log 40): unsafe. -/
def stepFmtOk (t : Nat) : Bool := 1 ≤ t && t ≤ 0x10

def fpFmt (t : Nat) : Bool := 0x0A ≤ t && t ≤ 0x0F
def intFmt (t : Nat) : Bool := 1 ≤ t && t ≤ 8

/-- The format after a step, or none where the step is illegal; a table that runs past the end of local memory makes it so,
and so does an RM of a step that is no CONV. DESIGN CHOICE (log 70): unsafe. -/
def stepFmt (cur : Nat) (x : BitVec 32) : Option Nat :=
  match stOpc x with
  | 1 => if stParam x == 0 && stRm x ≤ 4 && stepFmtOk (stFmt x) then some (stFmt x) else none
  | 2 => if stParam x == 0 && stRm x == 0 && stFmt x == 0 && fpFmt cur then some cur else none
  | 3 => if stParam x == 0 && stRm x == 0 && stFmt x == 0 && fpFmt cur then some cur else none
  | 4 => if stParam x == 0 && stRm x == 0 && stFmt x == 0 && intFmt cur then some cur else none
  | 5 => if stRm x == 0 && stepFmtOk (stFmt x) && intFmt cur && stParam x * 64 + 64 ≤ 2 ^ 19 then some (stFmt x) else none
  | _ => none

/-- The final format of a chain, or none where a step is illegal; a block input begins with a CONV. -/
def chainFmt (ifmt : Nat) (steps : List (BitVec 32)) : Option Nat :=
  if isBlock ifmt && ((steps.head?.map stOpc).getD 0) != 1 then none
  else steps.foldl (fun c x => c.bind fun t => stepFmt t x) (some ifmt)

/-- The legality of a descriptor's fields, `ifmt` being the resolved input format (R196). DEDUCED (log 40): unsafe. -/
def sdLegal (d : W512) (ifmt : Nat) (wr : Bool) : Bool :=
  fld d 496 16 == 0 && fld d 489 7 == 0 && fld d 485 3 == 0 &&
  ((1 ≤ ifmt && ifmt ≤ 8) || (0x0B ≤ ifmt && ifmt ≤ 0x12)) && !(wr && isBlock ifmt) && (chainFmt ifmt (sdChain d)).isSome &&
  ([0, 1, 2, 3].drop (sdChain d).length).all (fun k => sdStep d k == 0)

/-! ## Elements through the chain -/

/-- The integer value of an integer code. -/
def intVal (t x : Nat) : Int := if t ≤ 4 then sextN (8 * tyBytes t) x else (x % 2 ^ (8 * tyBytes t) : Nat)

/-- The exact value of an element. -/
def elemVal (t x : Nat) : FVal := if intFmt t then ofIntF (intVal t x) else decodeF t x

/-- The mode of a CONV step: RNE for 000 and 001. -/
def stepMode (rm : Nat) : RMode := if rm == 0 then 0 else rm - 1

/-- An exact value into a format, without flush or SEED. -/
def valTo (t : Nat) (mode : RMode) (v : FVal) : Nat :=
  if intFmt t then truncI (8 * tyBytes t) (toIntF (8 * tyBytes t) (t ≤ 4) mode 0 v).1
  else if t == 0x10 then (toE8M0 v).1
  else (roundF t mode false false 0 v).bits

/-- A conversion of an element; integers among themselves keep their low bits. -/
def convElem (src dst : Nat) (mode : RMode) (x : Nat) : Nat :=
  if src == 9 || dst == 9 then Config.convB128 src dst x % 2 ^ (8 * tyBytes dst)
  else if intFmt src && intFmt dst then truncI (8 * tyBytes dst) (intVal src x) else valTo dst mode (elemVal src x)

/-- One step on an element: its format and value, and the tables of the LUT steps still to come (R195). MASK has 32 bits and is extended
with zeros for an element of 8 bytes, whose upper half a MASK step clears. DESIGN CHOICE (log 70): unsafe. -/
def chainStep (d : W512) (acc : Nat × Nat × List W512) (x : BitVec 32) : Nat × Nat × List W512 :=
  let (t, v, luts) := acc
  match stOpc x with
  | 1 => (stFmt x, convElem t (stFmt x) (stepMode (stRm x)) v, luts)
  | 2 => (t, valTo t 0 (mulF (decodeF t v) (decodeF 0x0B (sdScale d))).1, luts)
  | 3 => (t, valTo t 0 (addF false (decodeF t v) (decodeF 0x0B (sdAdds d))).1, luts)
  | 4 => (t, v &&& (sdMask d % 2 ^ (8 * tyBytes t)), luts)
  | _ =>
    let w := tyBytes (stFmt x)
    (stFmt x, vElem (luts.headD 0) w (v % (64 / w)), luts.drop 1)

/-- An element through a chain. -/
def chainElem (d : W512) (t : Nat) (steps : List (BitVec 32)) (luts : List W512) (v : Nat) : Nat :=
  (steps.foldl (chainStep d) (t, v, luts)).2.1

/-- Element `q` of a block through a chain, whose first step is a CONV. -/
def chainBlock (d : W512) (t : Nat) (luts : List W512) (blk : List Byte) (q : Nat) : Nat :=
  match sdChain d with
  | [] => 0
  | x :: rest => chainElem d (stFmt x) rest luts (if stFmt x == 9 then Config.convB128 t 9 (leNat blk * 32 + q) % 2 ^ 128
      else valTo (stFmt x) (stepMode (stRm x)) (decodeBlock t blk q))

/-! ## The pattern (R197) -/

/-- COUNTk, a 0 counting as 1 above dimension 0. -/
def sdDim (d : W512) (k : Nat) : Nat := if k == 0 then sdCount d 0 else max 1 (sdCount d k)

/-- The positions of a pattern. -/
def sdPositions (d : W512) : Nat := sdDim d 0 * sdDim d 1 * sdDim d 2 * sdDim d 3

/-- The byte distance of position `p` from the base. -/
def sdOffset (d : W512) (p : Nat) : Int :=
  let c0 := max 1 (sdDim d 0)
  (p % c0 : Nat) * sdStride d 0 + (p / c0 % sdDim d 1 : Nat) * sdStride d 1 +
  (p / (c0 * sdDim d 1) % sdDim d 2 : Nat) * sdStride d 2 + (p / (c0 * sdDim d 1 * sdDim d 2) % sdDim d 3 : Nat) * sdStride d 3

/-- The lowest and the highest byte distance that a non-empty pattern touches, for items of `w` bytes. -/
def sdExtent (d : W512) (w : Nat) : Int × Int :=
  [0, 1, 2, 3].foldl (fun (e : Int × Int) k =>
    let x := ((sdDim d k - 1 : Nat) : Int) * sdStride d k
    (e.1 + min 0 x, e.2 + max 0 x)) (0, (w : Int) - 1)

/-- The final format and the elements of a stream. -/
def Stream.fmt (s : Stream) : Nat := (chainFmt s.ifmt.toNat (sdChain s.desc)).getD 5
def Stream.total (s : Stream) : Nat := sdPositions s.desc * (if isBlock s.ifmt.toNat then 32 else 1)
/-- Elements of an entry. -/
def Stream.perEntry (s : Stream) : Nat := 64 / tyBytes (if s.state == 2 then s.ifmt.toNat else s.fmt)

end Sys2Proof.Machine
end

