-- ==== Sys2Proof/Machine/Cap.lean ====
section
/-! DEFINITION. Capabilities: layout, bounds, encoding, the check of an access, and the addresses that name memory (R24 to
R32, R134, R367, R368). -/
namespace Sys2Proof.Machine

/-! ## Fields (R26, R27) -/

def capKind (c : W128) : Nat := fld c 122 2
def capAddr (c : W128) : Nat := fld c 0 64
def capPerm (c : W128) : BitVec 12 := c.extractLsb' 64 12
/-- A capability with its address replaced. -/
def capWithAddr (c : W128) (a : W64) : W128 := setFld c 0 64 a.toNat

def pLD : BitVec 12 := 0x001
def pST : BitVec 12 := 0x002
def pLDCAP : BitVec 12 := 0x004
def pSTCAP : BitVec 12 := 0x008
def pEXEC : BitVec 12 := 0x010
def pREMOTE : BitVec 12 := 0x020
def pATOM : BitVec 12 := 0x040
def pMCAST : BitVec 12 := 0x080
def pDEBUG : BitVec 12 := 0x100
def pSYS : BitVec 12 := 0x200
def pGLOBAL : BitVec 12 := 0x400

/-- A capability holds every bit of `need`. -/
def hasPerm (c : W128) (need : BitVec 12) : Bool := capPerm c &&& need == need

/-! ## Bounds (R29, R31) -/

/-- The correction of a mantissa that lies across the edge of the window. -/
def capCorr (amid m lim : Nat) : Int :=
  if lim ≤ amid && m < lim then 1 else if amid < lim && lim ≤ m then -1 else 0

/-- Base and top (excluded), or none where the decode is MALFORMED. -/
def capDecode (c : W128) : Option (Nat × Nat) :=
  let e := fld c 76 6
  let b := fld c 82 20
  let t := fld c 102 20
  let a := capAddr c
  if e == 63 then if b == 0 && t == 0 then some (0, 2 ^ 64) else none
  else if 44 < e then none
  else
    let amid := (a >>> e) % 2 ^ 20
    let lim := (b + 2 ^ 20 - 2 ^ 18) % 2 ^ 20
    let hi : Int := (a >>> (e + 20) : Nat)
    let base : Int := (hi + capCorr amid b lim) * 2 ^ (e + 20) + (b * 2 ^ e : Nat)
    let top : Int := (hi + capCorr amid t lim) * 2 ^ (e + 20) + (t * 2 ^ e : Nat)
    if base < 0 || 2 ^ 64 < top || top < base then none else some (base.toNat, top.toNat)

/-- The search of R31 from exponent `45 - fuel`: E, B, T and whether the bounds are exact. -/
def capEncodeFrom (base top : Nat) : Nat → Nat × Nat × Nat × Bool
  | 0 => (63, 0, 0, base == 0 && top == 2 ^ 64)
  | fuel + 1 =>
    let e := 44 - fuel
    let b := (base >>> e) <<< e
    let t := ((top + 2 ^ e - 1) >>> e) <<< e
    if t - b < 3 * 2 ^ (e + 18) && t ≤ 2 ^ 64 then
      (e, (b >>> e) % 2 ^ 20, (t >>> e) % 2 ^ 20, b == base && t == top)
    else capEncodeFrom base top fuel

/-- The encoding of a pair of bounds (R31). -/
def capEncode (base top : Nat) : Nat × Nat × Nat × Bool := capEncodeFrom base top 45

/-- A capability with its bounds fields replaced. -/
def capWithBounds (c : W128) (e b t : Nat) : W128 :=
  setFld (setFld (setFld c 76 6 e) 82 20 b) 102 20 t

/-- A capability made from its fields. -/
def mkCap (kind e b t : Nat) (perm : BitVec 12) (addr : Nat) : W128 :=
  packFields 128 [(122, 2, kind), (102, 20, t), (82, 20, b), (76, 6, e), (64, 12, perm.toNat), (0, 64, addr)]

/-! ## CapCheck (R9, R32) -/

/-- The kinds an access accepts. -/
def kindsMem : List Nat := [0, 1]
def kindsChan : List Nat := [2]

/-- Whether bytes `a` to `a + n` lie in the bounds: none where they do, else the subcode. -/
def boundsFail (c : W128) (a n : Nat) : Option Nat :=
  match capDecode c with
  | none => some 5
  | some (b, t) => if b ≤ a && a + n ≤ t then none else some 4

/-- The first check that fails, by subcode (R32). -/
def capCheck (c : W128) (tag : Bool) (a n : Nat) (perm : BitVec 12) (kinds : List Nat) : Option Nat :=
  if !tag then some 1
  else if fld c 124 4 != 0 || !kinds.contains (capKind c) || capKind c == 3 then some 2
  else if !hasPerm c perm then some 3
  else if capKind c == 1 && 2 ^ 19 ≤ a then some 4
  else boundsFail c a n

/-- Decode of two addresses of one capability agree (R30); two MALFORMED results count as equal. -/
def capSame (c c' : W128) : Bool := capDecode c == capDecode c'

/-! ## Cores and addresses (R13, R134, R367 to R369) -/

/-- Service cores are numbered from here among the core identifiers of the model. -/
def svcBase : Nat := 2 ^ 40
def isSvc (cid : Nat) : Bool := svcBase ≤ cid
/-- The logical core number (R13), or the number of a service core. -/
def coreNo (cid : Nat) : Nat := if isSvc cid then cid - svcBase else cid % 65536
/-- The logical die of a core. -/
def dieOf (cid : Nat) : Nat := if isSvc cid then (cid - svcBase) / 64 else cid % 65536 / 4096
/-- The local coordinates of a worker core. -/
def locX (core : Nat) : Nat := core % 64
def locY (core : Nat) : Nat := core / 64 % 64
/-- The global coordinates of a worker core. -/
def gblX (core : Nat) : Nat := (core / 4096 % 4) * 64 + locX core
def gblY (core : Nat) : Nat := (core / 4096 / 4 % 4) * 64 + locY core
/-- The core number of global coordinates. -/
def coreAt (x y : Nat) : Nat := ((y / 64) * 4 + x / 64) * 4096 + (y % 64) * 64 + x % 64
/-- The cluster index of a core within its die, and the number of its cluster within the package. -/
def clusterIdx (core : Nat) : Nat := (locY core / 2) * 16 + locX core / 4
def clusterOf (core : Nat) : Nat := core % 65536 / 4096 * 512 + clusterIdx core
/-- The service core of a worker core's row. -/
def rowOf (core : Nat) : Nat := core % 65536 / 4096 * 64 + locY core

/-- An effective address as rewritten by R134: local memory of a core, or a virtual address, with the package that it names
(none for the executing package), and the bit that names the debug window. -/
inductive Place where
  | localMem (pkg : Option Nat) (core : Nat) (self : Bool) (dbg : Bool) (off : Nat)
  | virt (pkg : Option Nat) (va : Nat)
  deriving DecidableEq, Repr

/-- The rewritten effective address (R134): the self alias becomes the executing core's number, except on a service core,
and the own package number becomes 0x3FF. -/
def rewriteEa (own : BitVec 10) (cid : Nat) (ea : W64) : W64 :=
  let ea := if !ea.getLsbD 63 && ea.getLsbD 36 && !isSvc cid then setFld (setFld ea 37 16 (coreNo cid)) 36 1 0 else ea
  if fld ea 53 10 == own.toNat then setFld ea 53 10 0x3FF else ea

/-- What a rewritten address names. -/
def placeOf (ea : W64) : Place :=
  let p := fld ea 53 10
  let pkg := if p == 0x3FF then none else some p
  if ea.getLsbD 63 then .virt pkg (fld ea 0 53)
  else .localMem pkg (fld ea 37 16) (ea.getLsbD 36) (ea.getLsbD 35) (fld ea 0 19)

/-- The first address of the control space (R368). -/
def ctlBase : Nat := 0x1F000000000000
def inCtl (va : Nat) : Bool := ctlBase ≤ va

/-- The self-alias partitioned address of a local offset (R134). -/
def selfAlias (off : Nat) : W64 := packFields 64 [(53, 10, 0x3FF), (36, 1, 1), (0, 19, off)]

/-- The address that names a core's local offset from anywhere in its package. -/
def coreAddr (core off : Nat) : W64 := packFields 64 [(53, 10, 0x3FF), (37, 16, core), (0, 19, off)]

/-- A partitioned address is malformed in form (R135). -/
def formBad (ea : W64) : Bool :=
  !ea.getLsbD 63 && (fld ea 19 16 != 0 || (993 ≤ fld ea 53 10 && fld ea 53 10 ≤ 1022))

/-- The unrewritten address of an access and the address after R134: base capability, offset, executing core. -/
def eaOf (own : BitVec 10) (cid : Nat) (c : W128) (off : W64) : W64 × W64 :=
  let raw := c.extractLsb' 0 64 + off
  if capKind c == 1 then (raw, rewriteEa own cid (selfAlias (fld raw 0 19)))
  else (raw, rewriteEa own cid raw)

/-- A virtual address of the control space lies in a window (R369). -/
def inWindow (va n : Nat) : Bool :=
  let o := va - ctlBase
  (o + n ≤ 128 * 8192) || (0x1000000 ≤ o && o + n ≤ 0x1000000 + 256) || (0x2000000 ≤ o && o + n ≤ 0x2000000 + 8192) ||
  (0x3000000 ≤ o && o + n ≤ 0x3000000 + 768)

/-- The permissions that R136 adds for an address. -/
def extraPerm (cid : Nat) (ea : W64) : BitVec 12 :=
  match placeOf ea with
  | .localMem pkg core self dbg _ =>
    let own := pkg.isNone && (if isSvc cid then self else core == coreNo cid)
    (if own then 0 else pREMOTE) ||| (if dbg then pDEBUG else 0)
  | .virt pkg va => (if pkg.isSome then pREMOTE else 0) ||| (if inCtl va && inWindow va 1 then pSYS else 0)

end Sys2Proof.Machine
end

