-- ==== Sys2Proof/Machine/Ops.lean ====
section
/-! DEFINITION. The named operations over the state: cores and slots, memory, registers, retiring an instruction, taking an
exception (a freeze with its fault record and packet) and the return from it, and the store-fault queue. -/
namespace Sys2Proof.Machine

/-- What a meaning answers. -/
abbrev Res := Host.Outcome State Fault Refusal

/-! ## Cores and slots -/

/-- The core with an identifier; one that is not listed has the state after reset. -/
def State.core (s : State) (cid : Nat) : Core := (tblGet cid s.cores).getD { phys := cid }

def State.setCore (s : State) (cid : Nat) (c : Core) : State := { s with cores := tblSet cid c s.cores }

def State.modCore (s : State) (cid : Nat) (f : Core → Core) : State := s.setCore cid (f (s.core cid))

def Core.slot (c : Core) (k : Nat) : Slot := vget c.slots k {}

def Core.setSlot (c : Core) (k : Nat) (sl : Slot) : Core := { c with slots := vset c.slots k sl }

def State.slotAt (s : State) (cid k : Nat) : Slot := (s.core cid).slot k

def State.setSlot (s : State) (cid k : Nat) (sl : Slot) : State := s.modCore cid fun c => c.setSlot k sl

def State.modSlot (s : State) (cid k : Nat) (f : Slot → Slot) : State := s.setSlot cid k (f (s.slotAt cid k))

/-- The identifiers of the cores that a physical core holds (R363). -/
def State.residents (s : State) (cid : Nat) : List Nat :=
  let ph := (s.core cid).phys
  let l := (s.cores.filter fun p => p.2.phys == ph).map (·.1)
  if l.contains cid then l else cid :: l

/-- Every core is frozen and every engine stopped: the package fenced itself (R493), or a power-fail trap or its restore is under
way (R508, R511). -/
def State.halted (s : State) : Bool := s.fab.fenced || s.host.off || s.host.pfstage != 0

/-- A core is frozen while any core of its physical core is (R425). -/
def State.frozen (s : State) (cid : Nat) : Bool :=
  s.halted || (s.residents cid).any fun c => (s.core c).frz.frozen

def State.cluster (s : State) (cl : Nat) : Cluster := tblGetD s.clusters cl {}
def State.setCluster (s : State) (cl : Nat) (c : Cluster) : State := { s with clusters := tblSet cl c s.clusters }
def State.die (s : State) (d : Nat) : Die := tblGetD s.dies d {}
def State.setDie (s : State) (d : Nat) (x : Die) : State := { s with dies := tblSet d x s.dies }
def State.mdie (s : State) (m : Nat) : MDie := tblGetD s.mdies m {}
def State.setMdie (s : State) (m : Nat) (x : MDie) : State := { s with mdies := tblSet m x s.mdies }
def State.ctx (s : State) (k : Nat) : Ctx := tblGetD s.ctxs k {}
def State.setCtx (s : State) (k : Nat) (x : Ctx) : State := { s with ctxs := tblSet k x s.ctxs }

/-- The launch that a core runs. -/
def State.launchOf (s : State) (cid : Nat) : Option Launch :=
  match (s.core cid).lid with
  | none => none
  | some l => s.launches.find? fun x => x.lid == l && x.state == .running

/-- The context of a launch descriptor (R211). -/
def Launch.ctx (l : Launch) : Nat := fld l.desc 680 6
/-- The launch identifier of a core, 0 outside any launch. -/
def State.lidOf (s : State) (cid : Nat) : BitVec 16 := ((s.core cid).lid).getD 0
/-- The context of a core's accesses; a core of no launch uses context 0. DESIGN CHOICE (log 22): unsafe. -/
def State.ctxOf (s : State) (cid : Nat) : Nat :=
  match s.launchOf cid with
  | some l => l.ctx
  | none => 0

/-- A launch with fused L1 (R265). -/
def Launch.fused (l : Launch) : Bool := l.desc.getLsbD 686
/-- Origin and size of a launch's rectangle (R211). -/
def Launch.ox (l : Launch) : Nat := fld l.desc 656 8
def Launch.oy (l : Launch) : Nat := fld l.desc 664 8
def Launch.logw (l : Launch) : Nat := fld l.desc 672 4
def Launch.logh (l : Launch) : Nat := fld l.desc 676 4
/-- A core number lies in the rectangle. -/
def Launch.holds? (l : Launch) (core : Nat) : Bool :=
  l.ox ≤ gblX core && gblX core < l.ox + 2 ^ l.logw && l.oy ≤ gblY core && gblY core < l.oy + 2 ^ l.logh

/-- The identifier of the core that holds a logical core of a launch (R363): its folded identifier while it is narrowed. DESIGN
CHOICE (log 7): safe. -/
def State.memberCid (s : State) (lid : BitVec 16) (core : Nat) : Nat :=
  let f := 65536 * (1 + lid.toNat) + core
  if (tblGet f s.cores).isSome then f else core

/-- The cores that hold a logical core number: its own, or folded ones. DEDUCED (log 24): unsafe. -/
def State.coresNamed (s : State) (n : Nat) : List Nat :=
  n :: ((s.cores.filter fun p => p.1 != n && !isSvc p.1 && coreNo p.1 == n).map (·.1))

/-- The core that a request of a launch for a logical core number reaches: the member, or else the physical core at the target's
coordinates (R363). -/
def State.targetCid (s : State) (lid : BitVec 16) (core : Nat) : Nat := s.memberCid lid core

/-- The die of a core's physical core, and its CYC (R47). -/
def State.dieAt (s : State) (cid : Nat) : Die := s.die (dieOf (s.core cid).phys)
/-- A logical die works: its clock runs and its C-die is not lost. -/
def State.dieRuns (s : State) (d : Nat) : Bool := (s.die d).running && !(s.die d).dead && !s.halted
def State.cycOf (s : State) (cid : Nat) : W64 := (s.dieAt cid).cyc

/-- The watchdog limit of a launch's activations (R211, R237). -/
def Launch.timeout (l : Launch) : Nat := if fld l.desc 800 32 == 0 then 2 ^ 22 else fld l.desc 800 32

/-- The watchdog count of a slot has reached its limit: it retires nothing more (R237). -/
def State.overdue (s : State) (cid k : Nat) : Bool :=
  match s.launchOf cid with
  | some l => (s.slotAt cid k).run != .dormant && l.timeout ≤ (s.slotAt cid k).wdog
  | none => false

/-- A sleeping slot may wake: neither its core is frozen, nor its die's clock stopped, nor its watchdog count at its limit (R237, R425). -/
def State.canWake (s : State) (cid k : Nat) : Bool := !s.frozen cid && s.dieRuns (dieOf (s.core cid).phys) && !s.overdue cid k

/-- A running launch holds less than its rectangle. -/
def Launch.narrowed (l : Launch) : Bool := l.live.2.2 != (l.logw, l.logh)

/-- The number of a logical cluster of a narrowed launch. -/
def Launch.clusterNo (l : Launch) (cl : Nat) : Nat := 8192 * (1 + l.lid.toNat) + cl

/-- The number of a core's logical cluster: that of its coordinates, or one of its launch's own while that is narrowed (R363). -/
def State.clusterId (s : State) (cid : Nat) : Nat :=
  let cl := clusterOf (coreNo cid)
  if isSvc cid then cl
  else match s.launchOf cid with
    | some l => if l.narrowed then l.clusterNo cl else cl
    | none => cl

/-- The physical cluster that holds a logical cluster. -/
def State.physCluster (s : State) (cl : Nat) : Nat :=
  if cl < 8192 then cl
  else match s.cores.find? fun p => s.clusterId p.1 == cl with
    | some p => clusterOf p.2.phys
    | none => cl % 8192

/-- A cluster's number as an address names it for a core: its own logical cluster's. -/
def State.clusterFor (s : State) (cid cl : Nat) : Nat := if cl == clusterOf (coreNo cid) then s.clusterId cid else cl

/-- A fresh number, for a request, an access or a message. -/
def State.fresh? (s : State) : Nat × State := (s.nextId, { s with nextId := s.nextId + 1 })

/-! ## Memory: one canonical list -/

/-- Where local memory, HBM, host memory and board flash lie among the keys. DESIGN CHOICE (log 7): safe. -/
def lmKey (cid off : Nat) : Nat := cid * 2 ^ 19 + off
/-- DESIGN CHOICE (log 7): safe. -/
def hbmKey (pa : Nat) : Nat := 2 ^ 64 + pa
/-- DESIGN CHOICE (log 7): safe. -/
def hostKey (a : Nat) : Nat := 2 ^ 68 + a
/-- DESIGN CHOICE (log 7): safe. -/
def flashKey (a : Nat) : Nat := 2 ^ 70 + a

/-- What an unlisted address reads as. DESIGN CHOICE (log 6): unsafe. -/
def memDefault : Byte := 0

/-- The byte at a key. DESIGN CHOICE (log 6): unsafe. -/
def memGet : List Host.Cell → Nat → Byte
  | [], _ => memDefault
  | (a, b) :: t, k => if a == k then b else if k < a then memDefault else memGet t k

/-- A byte written, keeping the canonical form. -/
def memPut : List Host.Cell → Nat → Byte → List Host.Cell
  | [], k, v => if v == memDefault then [] else [(k, v)]
  | (a, b) :: t, k, v =>
    if a == k then (if v == memDefault then t else (k, v) :: t)
    else if k < a then (if v == memDefault then (a, b) :: t else (k, v) :: (a, b) :: t)
    else (a, b) :: memPut t k v

/-- Bytes written from a key upward. -/
def memPuts (m : List Host.Cell) (k : Nat) : List Byte → List Host.Cell
  | [] => m
  | b :: bs => memPuts (memPut m k b) (k + 1) bs

/-- The addresses of a memory rise, and no entry holds what an unlisted address reads as. -/
def memWfFrom : Nat → List Host.Cell → Bool
  | _, [] => true
  | lo, (a, b) :: t => lo ≤ a && b != memDefault && memWfFrom (a + 1) t

/-- DESIGN CHOICE (log 6): unsafe. -/
def memWf (m : List Host.Cell) : Bool := memWfFrom 0 m

/-- `n` bytes from a key. -/
def State.bytesAt (s : State) (k n : Nat) : List Byte := (List.range n).map fun i => memGet s.mem (k + i)

/-- A little-endian number of `n` bytes from a key. -/
def State.natAt (s : State) (k n : Nat) : Nat := leNat (s.bytesAt k n)

/-- The granules that bytes `k` to `k + n` touch. -/
def granules (k n : Nat) : List Nat :=
  if n == 0 then [] else (List.range ((k + n - 1) / 16 - k / 16 + 1)).map (· + k / 16)

/-- Tags of the touched granules cleared (R145). -/
def clearTags (tags : List Nat) (k n : Nat) : List Nat := (granules k n).foldl (fun t g => delNat g t) tags

def State.tagAt (s : State) (k : Nat) : Bool := memNat (k / 16) s.tags

/-- The tag of the granule at a key set or cleared. -/
def State.putTag (s : State) (k : Nat) (t : Bool) : State :=
  { s with tags := if t then insNat (k / 16) s.tags else delNat (k / 16) s.tags }

/-- Bytes written with the tags of their granules cleared: a program or engine write (R145). -/
def State.writeBytes (s : State) (k : Nat) (bs : List Byte) : State :=
  { s with mem := memPuts s.mem k bs, tags := clearTags s.tags k bs.length }

/-- Stored errors of the words that bytes `k` to `k + n` touch, words of `w` bytes: each write computes fresh check bits.
DEDUCED (log 28): unsafe. -/
def healErrs (errs : List (Nat × Bool)) (k n w : Nat) : List (Nat × Bool) :=
  errs.filter fun e => n == 0 || !(k / w * w ≤ e.1 && e.1 < k + n)

/-- A word touched by bytes `k` to `k + n` has a stored error: some (some true) when it is uncorrectable. DEDUCED (log 28):
unsafe. -/
def errIn (errs : List (Nat × Bool)) (k n w : Nat) (unc : Bool) : Bool :=
  errs.any fun e => k / w * w ≤ e.1 && e.1 < k + n && e.2 == unc

/-- Bytes `off` to `off + n` of a local memory are read: a single-bit error of a word they touch is corrected and counted
(R250). DEDUCED (log 28): unsafe. -/
def State.countCorr (s : State) (cid off n : Nat) : State :=
  let k := (s.errs.filter fun e => n != 0 && lmKey cid off / 8 * 8 ≤ e.1 && e.1 < lmKey cid off + n && !e.2).length
  if k == 0 then s else s.modCore cid fun c => { c with corrc := c.corrc + BitVec.ofNat 64 k }

/-- The address of the first uncorrectable word among bytes `k` to `k + n`, of which `ea` is the first. -/
def errEa (errs : List (Nat × Bool)) (k n w : Nat) (ea : W64) : W64 :=
  match errs.find? fun e => k / w * w ≤ e.1 && e.1 < k + n && e.2 with
  | some e => ea + BitVec.ofNat 64 e.1 - BitVec.ofNat 64 k
  | none => ea

/-! ## Local memory (R248 to R255) -/

/-- The time unit of ephemeral rows. -/
def stampNow (reft : W64) : BitVec 16 := BitVec.ofNat 16 (reft.toNat / 64)

/-- A row has passed the age of R253. -/
def Row.expired? (r : Row) (reft : W64) : Bool := r.aged || 626 ≤ (stampNow reft - r.stamp).toNat

/-- The granule mask of a row that bytes `off` to `off + n` touch (R255). -/
def rowGranules (row off n : Nat) : BitVec 8 :=
  BitVec.ofNat 8 ((List.range 8).foldl (fun acc g =>
    if row * 512 + g * 64 < off + n && off < row * 512 + (g + 1) * 64 then acc + 2 ^ g else acc) 0)

/-- The rows of the ephemeral range that bytes `off` to `off + n` touch. -/
def ephRows (c : Core) (off n : Nat) : List Nat :=
  if n == 0 then []
  else ((List.range ((off + n - 1) / 512 - off / 512 + 1)).map (· + off / 512)).filter fun r =>
    c.lmb1.toNat ≤ r * 512 && r * 512 < c.lmb2.toNat

/-- A write of any bytes updates the rows it touches (R255). -/
def writeRows (c : Core) (reft : W64) (off n : Nat) : Core :=
  { c with rows := (ephRows c off n).foldl (fun t r =>
      let old := tblGetD t r {}
      let w := rowGranules r off n
      let stale := if old.expired? reft then ~~~w else old.stale &&& ~~~w
      tblSet r { stamp := stampNow reft, aged := false, stale := stale } t) c.rows }

/-- Bytes `off` to `off + n` written to a core's local memory by a program or an engine. -/
def State.lmWrite (s : State) (cid off : Nat) (bs : List Byte) : State :=
  let s := s.writeBytes (lmKey cid off) bs
  let s := { s with errs := healErrs s.errs (lmKey cid off) bs.length 8 }
  s.modCore cid fun c => writeRows c s.reft off bs.length

def State.lmRead (s : State) (cid off n : Nat) : List Byte := s.bytesAt (lmKey cid off) n

/-- A byte of local memory reads as expired (R253). -/
def State.lmExpired (s : State) (cid off : Nat) : Bool :=
  let c := s.core cid
  (ephRows c off 1).any fun r =>
    let row := tblGetD c.rows r {}
    row.expired? s.reft || row.stale.getLsbD (off / 64 % 8)

/-- The expired marks of `n` bytes from `off`, bit i for byte i. -/
def State.lmMarks (s : State) (cid off n : Nat) : BitVec 64 :=
  BitVec.ofNat 64 ((List.range (min n 64)).foldl (fun acc i => if s.lmExpired cid (off + i) then acc + 2 ^ i else acc) 0)

/-! ## Registers (R20, R21, R34, R36) -/

def Slot.readG (sl : Slot) (r : RegNo) : GReg := if r == 0 then {} else vget sl.g r.toNat {}
/-- Bits [63:0] of a g register. -/
def Slot.g64 (sl : Slot) (r : RegNo) : W64 := (sl.readG r).val.extractLsb' 0 64
def Slot.readV (sl : Slot) (r : RegNo) : VReg := vget sl.v r.toNat {}
def Slot.readP (sl : Slot) (n : Nat) : BitVec 16 := if n % 8 == 0 then 0xFFFF else vget sl.p (n % 8) 0

/-- The mailbox number of a register, if it is one (R36). -/
def mbox? (r : RegNo) : Option Nat := if 56 ≤ r.toNat then some (r.toNat - 56) else none

/-- A local write of a g register: g0 discards it, and a mailbox register becomes present (R21, R36). -/
def Slot.writeG (sl : Slot) (r : RegNo) (x : GReg) : Slot :=
  if r == 0 then sl
  else
    let sl1 := { sl with g := vset sl.g r.toNat { x with pending := false } }
    match mbox? r with
    | none => sl1
    | some n =>
      { sl1 with mbNew := if sl.mbp.getLsbD n then sl.mbNew else sl.mbNew ||| BitVec.twoPow 8 n
                 mbp := sl.mbp ||| BitVec.twoPow 8 n }

/-- A plain result: zero-extended, untagged (R22). -/
def Slot.putG (sl : Slot) (r : RegNo) (x : Nat) : Slot := sl.writeG r { val := BitVec.ofNat 128 x }

def Slot.writeV (sl : Slot) (r : RegNo) (x : VReg) : Slot := { sl with v := vset sl.v r.toNat x }

def Slot.writeP (sl : Slot) (n : Nat) (x : BitVec 16) : Slot :=
  if n % 8 == 0 then sl else { sl with p := vset sl.p (n % 8) x }

/-- Marks a destination pending (R138); g0 is never pending. -/
def Slot.pendG (sl : Slot) (r : RegNo) : Slot :=
  if r == 0 then sl else { sl with g := vset sl.g r.toNat { vget sl.g r.toNat {} with pending := true } }

def Slot.pendV (sl : Slot) (r : RegNo) : Slot :=
  { sl with v := vset sl.v r.toNat { vget sl.v r.toNat {} with pending := true } }

/-! ## Warnings (R40) -/

def wFMTFIX : BitVec 10 := 0x001
def wMODIGN : BitVec 10 := 0x002
def wORDFIX : BitVec 10 := 0x004
def wSCOPE : BitVec 10 := 0x008
def wIMMSAT : BitVec 10 := 0x010
def wDIVZ : BitVec 10 := 0x020
def wCOLLIDE : BitVec 10 := 0x040
def wTILEREL : BitVec 10 := 0x080
def wCAPCLR : BitVec 10 := 0x100
def wCLKSAT : BitVec 10 := 0x200

def Slot.addWarn (sl : Slot) (w : BitVec 10) : Slot := { sl with warn := sl.warn ||| w }

/-- CLK increments on a release and stops at its top (R43). DEDUCED (log 16): unsafe. -/
def Slot.incClk (sl : Slot) : Slot :=
  if sl.clk == 0xFFFFFFFF then sl
  else
    let c := sl.clk + 1
    if c == 0xFFFFFFFF then { sl.addWarn wCLKSAT with clk := c } else { sl with clk := c }

/-! ## Deposits (R37) -/

/-- The head of a link applied if it has arrived and its register, one of g56 to g63, is not present, or was written in this
very cycle; a load that the register waits for is no longer waited for. DEDUCED (log 26): unsafe. -/
def depositHead (c : Core) (link : Nat) : Option Core :=
  match vget c.links link [] with
  | [] => none
  | d :: rest =>
    let k := d.slot.toNat
    let n := d.reg.toNat % 8
    let sl := c.slot k
    if d.arrived && (!sl.mbp.getLsbD n || sl.mbNew.getLsbD n) then
      let sl1 := if sl.mbNew.getLsbD n then sl.addWarn wCOLLIDE else sl
      let sl2 := { sl1 with
        g := vset sl1.g (56 + n) { val := d.val }
        mbp := sl1.mbp ||| BitVec.twoPow 8 n
        mbNew := sl1.mbNew &&& ~~~(BitVec.twoPow 8 n) }
      some { c.setSlot k sl2 with links := vset c.links link rest }
    else none

/-- Deposits applied on one link, at most four. DEDUCED (log 26): unsafe. -/
def depositLink (c : Core) (link : Nat) : Nat → Core
  | 0 => c
  | n + 1 => match depositHead c link with
    | some c' => depositLink c' link n
    | none => c

/-- Deposits applied on the four links, in the order +x, -x, +y, -y. DEDUCED (log 26): unsafe. -/
def applyDeposits (c : Core) : Core := [0, 1, 2, 3].foldl (fun c l => depositLink c l 4) c

/-- A slot goes to sleep after its instruction has read its operands: a deposit that waited for one of them lands (R37). -/
def State.sleepSlot (s : State) (cid k : Nat) (sl : Slot) : State := s.setCore cid (applyDeposits ((s.core cid).setSlot k sl))

/-! ## Trace records (R442 to R445) -/

/-- A LOSS record: the records lost, and the cluster. -/
def lossRecord (reft : W64) (cl : Nat) (loss : BitVec 32) : W512 :=
  packFields 512 [(0, 8, 0x08), (64, 64, reft.toNat), (256, 64, loss.toNat), (320, 9, cl % 512), (329, 4, cl / 512)]

/-- A record into the cluster's buffer; a full buffer, or one whose cluster is gated, loses it and counts. A pending loss count makes its own record first. -/
def Cluster.addTrace (c : Cluster) (reft : W64) (cl : Nat) (rec : W512) : Cluster :=
  if c.gated then { c with loss := if c.loss == 0xFFFFFFFF then c.loss else c.loss + 1 } else
  let c1 :=
    if c.loss != 0 && c.trace.length < 256 then
      { c with
        trace := c.trace ++ [lossRecord reft cl c.loss]
        loss := 0 }
    else c
  if c1.trace.length < 256 then { c1 with trace := c1.trace ++ [rec] }
  else { c1 with loss := if c1.loss == 0xFFFFFFFF then c1.loss else c1.loss + 1 }

/-- A trace record of a slot's activation (R442). -/
def State.traceWord (s : State) (cid k ty pc d0 d1 : Nat) : W512 :=
  let sl := (s.core cid).slot k
  packFields 512 [(0, 8, ty), (8, 5, fld sl.actinfo 0 5), (13, 2, k), (16, 16, coreNo cid),
    (32, 10, s.pkg.toNat), (48, 16, (s.lidOf cid).toNat), (64, 64, s.reft.toNat), (128, 64, sl.act.entry.toNat),
    (192, 64, pc), (256, 64, d0), (320, 64, d1)]

/-- A record of a slot's activation, when tracing is enabled for its core and `gate` holds; a service core lies in no cluster, and makes
none. DEDUCED (log 58): unsafe. -/
def State.traceRec (s : State) (cid k : Nat) (gate : Bool) (ty : Nat) (pc d0 d1 : Nat) : State :=
  let c := s.core cid
  if !(c.trcc.getLsbD 0 && gate) || isSvc cid then s
  else
    let cl := clusterOf (coreNo c.phys)
    s.setCluster cl ((s.cluster cl).addTrace s.reft cl (s.traceWord cid k ty pc d0 d1))

/-! ## Taking an exception (R9, R424 to R427, R436), and the return from it (R435) -/

def cILLEGAL_OPCODE : Nat := 0x01
def cILLEGAL_LENGTH : Nat := 0x02
def cILLEGAL_FORMAT : Nat := 0x03
def cILLEGAL_FIELD : Nat := 0x04
def cSTRADDLE : Nat := 0x05
def cCAP_FAULT : Nat := 0x06
def cRACE : Nat := 0x07
def cEXPIRED : Nat := 0x08
def cACT_TIMEOUT : Nat := 0x09
def cTRAP : Nat := 0x0A
def cBKPT : Nat := 0x0B
def cSTORE : Nat := 0x0C
def cPAGE : Nat := 0x0D
def cENGINE_LOST : Nat := 0x0E
def cUNCORR : Nat := 0x0F
def cBREAK : Nat := 0x10

/-- The store-fault queue holds a valid record. -/
def Core.sfqAny (c : Core) : Bool := c.sfq.any (·.v)

/-- The fault record (R436). DEDUCED (log 53): unsafe. -/
def faultRecord (reft : W64) (core k : Nat) (sfq inbr : Bool) (t : Trap) (pc : W64) : W512 :=
  packFields 512 [(0, 64, pc.toNat), (64, 64, t.addr.toNat), (128, 64, t.aux.toNat), (192, 8, t.cause), (200, 8, t.sub),
    (216, 8, t.reg), (224, 2, k), (226, 1, b2n sfq), (227, 1, b2n inbr), (240, 16, core), (256, 64, reft.toNat)]

/-- The fatal fault packet (R427) of a physical core. -/
def faultPacket (phys : Nat) (lid : BitVec 16) (t : Trap) : BitVec 256 :=
  packFields 256 [(0, 64, 2 ^ locX (coreNo phys)), (64, 64, t.addr.toNat), (144, 16, lid.toNat), (160, 8, t.cause),
    (168, 8, t.sub), (176, 16, rowOf (coreNo phys)), (248, 8, 0x01)]

/-- The order of the causes of one cycle in R426: a precise fault, a PC breakpoint, an uncorrected error, ENGINE_LOST, PGREPLY's action
1, a store fault. -/
def freezeRank (cause : Nat) : Nat :=
  if cause == cBREAK then 1 else if cause == cUNCORR then 2 else if cause == cENGINE_LOST then 3 else if cause == cPAGE then 4
  else if cause == cSTORE then 5 else 0

/-- A core froze in the present tick (R426). DEDUCED (log 66): unsafe. -/
def Core.frozeNow (c : Core) (reft : W64) : Bool := c.frz.frozen && c.faultRec.extractLsb' 256 64 == reft

/-- An event of slot `k` that freezes a frozen core is one of the cycle of its freeze and comes before the recorded cause; among precise
faults the lowest-numbered slot's comes first (R426). -/
def Core.goesFirst (c : Core) (reft : W64) (k : Nat) (t : Trap) : Bool :=
  let r := freezeRank (fld c.faultRec 192 8)
  c.frozeNow reft && (freezeRank t.cause < r || (freezeRank t.cause == 0 && r == 0 && k < fld c.faultRec 224 2))

/-- A further event of a frozen core is noted as nested (R425). In the cycle of the freeze, the fault record takes the first cause
in R426's order, and its SFQ flag tells of a store fault (R450). DEDUCED (log 66): unsafe. -/
def Core.nest (c : Core) (reft : W64) (core k : Nat) (t : Trap) : Core :=
  let first := c.goesFirst reft k t
  { c with
    faultRec := if first then faultRecord reft core k (c.sfqAny) (c.slot k).taken t (c.slot k).pc
      else if c.frozeNow reft && t.cause == cSTORE then setFld c.faultRec 226 1 1 else c.faultRec
    raceRec := if first then t.race.getD c.raceRec else c.raceRec
    frz := { c.frz with nested := true }
    nests := min 255 (c.nests + 1)
    ncause := if c.nests != 0 then c.ncause
      else if first then (if fld c.faultRec 192 8 == cSTORE then 0x80 ||| (c.sfq.getLast?.map (·.cause)).getD 0 else BitVec.ofNat 8 (fld c.faultRec 192 8))
      else if t.cause == cSTORE then 0x80 ||| t.sf else BitVec.ofNat 8 t.cause }

/-- The cause of a fault record, as its packet gives it. -/
def recordTrap (r : W512) : Trap := { cause := fld r 192 8, sub := fld r 200 8, addr := r.extractLsb' 64 64 }

/-- The FAULT record of a trap of a slot (R443). -/
def State.traceFault (s : State) (cid k : Nat) (t : Trap) : W512 :=
  s.traceWord cid k 0x06 (s.slotAt cid k).pc.toNat (t.cause + t.sub * 256) t.addr.toNat

/-- The FAULT record of the recorded cause gives way to that of the cause that goes first. -/
def State.retrace (s : State) (cid k : Nat) (old t : Trap) (oldK : Nat) : State :=
  let cl := clusterOf (coreNo (s.core cid).phys)
  let x := s.cluster cl
  s.setCluster cl { x with trace := replaceFirst (· == s.traceFault cid oldK old) (fun _ => s.traceFault cid k t) x.trace }

/-- A store, atomic, multicast or write-back (R140, R156). -/
def ReqOp.isStore : ReqOp → Bool
  | .store => true
  | .writeBack => true
  | .atomic _ _ _ _ => true
  | .mcast _ _ => true
  | .debugWrite => true
  | .windowWrite => true
  | .load => false
  | .fill => false
  | .fetch => false
  | .probe _ _ => false
  | .debugRead => false
  | .windowRead => false

/-- A held access of an instruction has begun to take effect: one of its writes has performed, runs, was refused, or has left the
package. -/
def Access.begun (a : Access) (rs : List Req) : Bool :=
  a.wr && (a.left != a.parts || rs.any fun r => r.org == 0x3FF && r.grp == a.gid && (r.sent || (match r.stage with
    | .done => true
    | .handler => true
    | .refused _ => true
    | _ => false)))

/-- At a freeze, an instruction of a slot that has issued and not retired is discarded, to be issued again (R425); one whose write has
begun to take effect retires after RESUME. DEDUCED (log 66): unsafe. -/
def State.discardHeld (s : State) (cid k : Nat) : State :=
  let sl := s.slotAt cid k
  let again := sl.run
  match again with
  | .sleeping (.check _ gid _ _ _) =>
    match s.accs.find? (·.gid == gid) with
    | none => s
    | some a =>
      if a.begun s.reqs then s
      else { s.setSlot cid k { sl with run := .running } with
        reqs := s.reqs.filter (fun r => !(r.org == 0x3FF && r.grp == gid)), accs := s.accs.filter (·.gid != gid) }
  | .sleeping (.submit _ _ _ _ _ _) => s.setSlot cid k { sl with run := .running }
  | _ => s

/-- Such instructions of every slot of a physical core. -/
def State.discardAll (s : State) (cid : Nat) : State :=
  (s.residents cid).foldl (fun s c => [0, 1, 2, 3].foldl (fun s k => s.discardHeld c k) s) s

/-- A core freezes: the record is written, the packet leaves, a FAULT record is traced. A core that is frozen already notes a nested
event. A service core's fault is reported to the Owls of the package (R451). DEDUCED (log 66): unsafe. -/
def State.freeze (s : State) (cid k : Nat) (t : Trap) : State :=
  let c := s.core cid
  if s.frozen cid then
    let old := recordTrap c.faultRec
    let pkt := faultPacket c.phys (s.lidOf cid) old
    let s1 := s.setCore cid (c.nest s.reft (coreNo cid) k t)
    if c.goesFirst s.reft k t && !isSvc cid then
      ({ s1 with fpkts := replaceFirst (fun p => p.2 == pkt) (fun p => (p.1, faultPacket c.phys (s.lidOf cid) t)) s.fpkts }).retrace
        cid k old t (fld c.faultRec 224 2)
    else s1
  else
    let sl := c.slot k
    let c1 := { c with
      faultRec := faultRecord s.reft (coreNo cid) k (c.sfqAny) (sl.taken && t.cause != cSTORE) t sl.pc
      raceRec := t.race.getD c.raceRec
      frz := { c.frz with frozen := true }
      nests := 0, ncause := 0 }
    let s1 := s.setCore cid c1
    let s2 := if isSvc cid then s1 else { s1 with fpkts := s1.fpkts ++ [(rowOf (coreNo c.phys), faultPacket c.phys (s.lidOf cid) t)] }
    (s2.traceRec cid k true 0x06 sl.pc.toNat (t.cause + t.sub * 256) t.addr.toNat).discardAll cid

/-- A precise fault of the instruction that a slot issues: nothing but the freeze changes (R9). The faulting address of an illegal or
straddling instruction is its own. -/
def State.preciseFault (s : State) (cid k : Nat) (t : Trap) : State :=
  s.freeze cid k (if t.cause ≤ cSTRADDLE then { t with addr := (s.slotAt cid k).pc } else t)

/-- A slot that no longer keeps the elements of a gather that a fault posted in the middle of it (R151). -/
def Slot.endGather (sl : Slot) : Slot := { sl with vgDone := 0, vgWarn := 0, vgAcq := none }

/-- A slot passes its instruction, also one that sleeps. -/
def Slot.skip (sl : Slot) (len : Nat) : Slot :=
  { sl.endGather with
    pc := sl.pc + BitVec.ofNat 64 len, taken := false
    run := match sl.run with
      | .sleeping _ => .running
      | r => r }

/-- RESUME of a core (R224, R435): the status, and the state. With SKIP the slot named in the fault record passes its
instruction, whose length is `len`. -/
def State.resumeCore (s : State) (cid : Nat) (skip : Bool) (len : Nat) : Nat × State :=
  let c := s.core cid
  if !c.frz.frozen then (1, s)
  else if c.sfqAny then (2, s)
  else
    let k := fld c.faultRec 224 2
    let c1 := { c with frz := { c.frz with frozen := false, nested := false } }
    let c2 := if skip then c1.setSlot k ((c1.slot k).skip len) else c1
    (0, s.setCore cid c2)

/-! ## Store faults (R430, R431) -/

def sfPERM : BitVec 8 := 0x10
def sfNOTPRESENT : BitVec 8 := 0x11
def sfPROT : BitVec 8 := 0x12
def sfUNREACH : BitVec 8 := 0x13
def sfHANDLER : BitVec 8 := 0x14
def sfUNCORR : BitVec 8 := 0x15
def sfRACE : BitVec 8 := 0x16
def sfWINDOW : BitVec 8 := 0x17
def sfSENDREFUSED : BitVec 8 := 0x18
def sfBADXLATE : BitVec 8 := 0x19

/-- A record in the first position that holds no valid one, of eight; none where all are valid (R431). -/
def sfqAdd (l : List SfqRec) (r : SfqRec) : Option (List SfqRec) :=
  match l.findIdx? fun x => !x.v with
  | some k => some (l.set k r)
  | none => if l.length < 8 then some (l ++ [r]) else none

/-- A store fault is reported: a record in the next free position, then a freeze with cause STORE (R430, R431). -/
def State.storeFault (s : State) (cid k : Nat) (addr pc : W64) (cause : BitVec 8) : State :=
  let c := s.core cid
  let c1 := match sfqAdd c.sfq { addr := addr, pc := pc, slot := BitVec.ofNat 2 k, cause := cause } with
    | some l => { c with sfq := l }
    | none => { c with sfqOvf := true }
  (s.setCore cid c1).freeze cid k { cause := cSTORE, addr := addr, sf := cause }

/-! ## The host (R515 to R518) -/

/-- A host interrupt (R517). -/
def State.irq (s : State) (vector : Nat) : State := { s with out := s.out ++ [.irq vector] }

/-- What a read of a register that the read clears returns. -/
def State.readOut (s : State) (x : W64) : State := { s with out := s.out ++ [.hostData true (x.zeroExtend 512)] }

/-- A record appended to the pending-fault list with its interrupt, or lost and counted (R518). DEDUCED (log 48): unsafe. -/
def State.pendFault (s : State) (type_ : Nat) (arg : Nat) : State :=
  let h := s.host
  if 256 ≤ h.pend.length then { s with host := { h with pflost := if h.pflost == 0xFFFFFFFF then h.pflost else h.pflost + 1 } }
  else
    let r : BitVec 256 := packFields 256 [(0, 8, type_), (64, 64, s.reft.toNat), (128, 128, arg)]
    ({ s with host := { h with pend := h.pend ++ [r], pfhead := h.pfhead + 1 } }).irq 0

/-- The identifier of the host as it accesses memory through an aperture of its window. -/
def hostBase : Nat := 2 ^ 41
/-- A request of the host. -/
def Req.isHost (r : Req) : Bool := r.org == 0x3FF && hostBase ≤ r.cid

/-! ## Retiring an instruction (R123, R126, R127, R430) -/

/-- The program counter and the hardware loop after an instruction of `len` bytes, or after a taken transfer. -/
def Slot.advance (sl : Slot) (len : Nat) (target : Option W64) : Slot :=
  match target with
  | some t =>
    { sl with pc := t, taken := true, run := .running
              loop := if sl.loop.lact && !(sl.loop.lstart ≤ t && t < sl.loop.lend) then { sl.loop with lact := false } else sl.loop }
  | none =>
    let nxt := sl.pc + BitVec.ofNat 64 len
    let sl1 := { sl with taken := false, run := .running }
    if sl.loop.lact && nxt == sl.loop.lend then
      if sl.loop.lcnt.toNat ≤ 1 then { sl1 with pc := nxt, loop := { sl.loop with lact := false } }
      else { sl1 with pc := sl.loop.lstart, loop := { sl.loop with lcnt := sl.loop.lcnt - 1 } }
    else { sl1 with pc := nxt }

/-- A request is one of a slot of this package. -/
def Req.isOf (r : Req) (cid k : Nat) : Bool := r.org == 0x3FF && r.cid == cid && r.slot == k

/-- One more instruction retired since each outstanding store of the slot was issued, its own among them (R430). -/
def bumpRetired (rs : List Req) (cid k : Nat) : List Req :=
  rs.map fun r => if r.isOf cid k then { r with retired := r.retired + 1 } else r

/-- A slot retires an instruction with its new state, and the deposits that waited for a mailbox it read are applied. -/
def State.retire (s : State) (cid k : Nat) (sl : Slot) (len : Nat) (target : Option W64) : State :=
  let c := (s.core cid).setSlot k (sl.advance len target)
  { s.setCore cid (applyDeposits c) with reqs := bumpRetired s.reqs cid k }

/-- The slot waits and issues the same instruction again. -/
def State.stall (s : State) (cid k : Nat) (w : Wait) : State := s.modSlot cid k fun sl => { sl with run := .sleeping w }

end Sys2Proof.Machine
end

