-- ==== Sys2Proof/Machine/Flags.lean ====
section
/-! DEFINITION. The rounding mode and flags of FPC, and the warnings of modifiers that R87 ignores or replaces. -/
namespace Sys2Proof.Machine

/-- FPC.RM and FPC.FTZ (R41). -/
def Slot.fpcRm (sl : Slot) : Nat := fld sl.fpc 0 3
def Slot.ftz (sl : Slot) : Bool := sl.fpc.getLsbD 3

/-- The mode of an RM field: 0 takes FPC.RM (R81). -/
def Slot.mode (sl : Slot) (rm : Nat) : RMode := if rm == 0 then sl.fpcRm else rm - 1

/-- IEEE flags are sticky (R57). -/
def Slot.addFlags (sl : Slot) (f : FFlags) : Slot := { sl with fpc := sl.fpc ||| f }

/-- A delivery's flags and SEED taken into the slot. -/
def Slot.afterRnd (sl : Slot) (f : FFlags) (seed : W64) : Slot := { sl.addFlags f with seed := seed }

/-- Layout A's fields (R79). -/
def mRm (m : BitVec 12) : Nat := fld m 5 3
def mSat (m : BitVec 12) : Bool := m.getLsbD 8
def mZ (m : BitVec 12) : Bool := m.getLsbD 9
def mOpt (m : BitVec 12) : Bool := m.getLsbD 10
def mKeep (m : BitVec 12) : Bool := m.getLsbD 11
def mTy (m : BitVec 12) : Nat := fld m 0 5
/-- Layout M's fields. -/
def mOrd (m : BitVec 12) : Nat := fld m 5 2
def mScope (m : BitVec 12) : Nat := fld m 7 3
def mSce (m : BitVec 12) : Bool := m.getLsbD 10

/-- Saturation applies to FP16, BF16, E4M3 and E5M2 destinations (R56). -/
def satApplies (t : Nat) : Bool := 0x0C ≤ t && t ≤ 0x0F

/-- The warnings of R87 for a layout A instruction: `dst` is the TYPE of a floating destination, or 0 for an integer, mask or
predicate destination; `rounds` says that the form rounds; `imm` that it has an immediate; `fp` that its TYPE is floating. -/
def warnA (m : BitVec 12) (dst : Nat) (rounds imm fp : Bool) : BitVec 10 :=
  (if mSat m && dst ≤ 0x0B then wMODIGN else 0) |||
  (if mRm m != 0 && !rounds then wMODIGN else 0) |||
  (if mZ m && (!imm || fp) then wMODIGN else 0)

/-- Block quantisation rounds by RNE alone (R65, R87). -/
def warnBlock (sl : Slot) (m : BitVec 12) : BitVec 10 :=
  if 2 ≤ mRm m || (mRm m == 0 && sl.fpcRm != 0) then wFMTFIX else 0

end Sys2Proof.Machine
end

