-- ==== Sys2Proof/Machine/Operands.lean ====
section
/-! DEFINITION. The common part of every instruction: its fields, the registers it uses, predicates and lanes, immediates, and
the issue of an instruction up to the point where its own effect begins (R34, R36, R62, R77, R100 to R102, R138, R141). -/
namespace Sys2Proof.Machine

/-- The fields of an instruction in any form: `immW` is the width of its immediate, 0 when it has none. The mod field is laid
out in 12 bits. -/
structure Ins where
  len  : Nat
  pred : BitVec 4
  sub  : BitVec 8
  mod  : BitVec 12
  d    : RegNo
  a    : RegNo
  b    : RegNo
  c    : RegNo
  imm  : Nat
  immW : Nat
  deriving DecidableEq, Repr

def insR (f : FR) : Ins := ⟨8, f.pred, f.sub, f.mod, f.d, f.a, f.b, f.c, 0, 0⟩
/-- An F64-I form of ADDI, LI or VBCAST: its Z bit is put where layout A has it (R101). -/
def insIA (f : FI) : Ins :=
  ⟨8, f.pred, 0, (f.mod.extractLsb' 0 5).zeroExtend 12 ||| (if f.mod.getLsbD 5 then 0x200 else 0), f.d, f.a, 0, 0, f.imm.toNat, 32⟩
/-- Any other F64-I form. -/
def insI (f : FI) : Ins := ⟨8, f.pred, 0, f.mod.zeroExtend 12, f.d, f.a, 0, 0, f.imm.toNat, 32⟩
def insX (f : FX) : Ins := ⟨12, f.pred, f.sub, f.mod, f.d, f.a, f.b, 0, f.imm.toNat, 44⟩
def insL (f : FL) : Ins := ⟨16, f.pred, f.sub, f.mod.extractLsb' 0 12, f.d, f.a, f.b, f.c, f.imm.toNat, 64⟩

def Ins.hasImm (i : Ins) : Bool := i.immW != 0
def Ins.ty (i : Ins) : Nat := mTy i.mod

/-- The registers an instruction reads and writes; `moves` when it copies whole values with their expired marks (R141). -/
structure Uses where
  g  : List RegNo := []
  v  : List RegNo := []
  dg : List RegNo := []
  dv : List RegNo := []
  moves : Bool := false
  deriving DecidableEq, Repr

/-! ## Predicates and lanes (R34, R77) -/

/-- A scalar instruction executes. -/
def Slot.predTrue (sl : Slot) (p : BitVec 4) : Bool := (sl.readP (fld p 0 3)).getLsbD 0 != p.getLsbD 3

/-- The mask of a vector instruction. -/
def Slot.laneMask (sl : Slot) (p : BitVec 4) : BitVec 16 :=
  let m := sl.readP (fld p 0 3)
  if p.getLsbD 3 then ~~~m else m

/-- The mask bit that governs element `j` of width `w`. -/
def laneOn (m : BitVec 16) (w j : Nat) : Bool := if w == 8 then m.getLsbD (2 * j) else m.getLsbD (j * w / 4)

/-- The byte mask of the active elements of width `w`. -/
def activeBytes (m : BitVec 16) (w : Nat) : BitVec 64 :=
  BitVec.ofNat 64 ((List.range 64).foldl (fun acc i => if laneOn m w (i / w) then acc + 2 ^ i else acc) 0)

/-! ## Immediates (R62, R101) -/

/-- The immediate extended to 64 bits, by sign, or by zeros under `.z`. -/
def Ins.imm64 (i : Ins) : W64 :=
  if mZ i.mod then BitVec.ofNat 64 i.imm else BitVec.ofInt 64 (sextN i.immW i.imm)

/-- The immediate sign-extended to 64 bits. -/
def Ins.immS (i : Ins) : W64 := BitVec.ofInt 64 (sextN i.immW i.imm)

/-- The immediate zero-extended to 64 bits. -/
def Ins.immZ (i : Ins) : W64 := BitVec.ofNat 64 i.imm

/-- The format of a floating immediate by its width (R62). -/
def immFmt (w : Nat) : Nat := if w == 32 then 0x0C else if w == 44 then 0x0B else 0x0A

/-- A floating immediate in the operation's type, and the warning of its saturation. -/
def Ins.immFp (i : Ins) : Nat × BitVec 10 :=
  let r := immF (immFmt i.immW) i.ty i.imm
  (r.1, if r.2 then wIMMSAT else 0)

/-! ## Issue -/

/-- A register that the instruction uses is pending (R138). -/
def Slot.pends (sl : Slot) (u : Uses) : Bool :=
  (u.g ++ u.dg).any (fun r => (sl.readG r).pending) || (u.v ++ u.dv).any (fun r => (sl.readV r).pending)

/-- A mailbox source whose presence bit is clear (R36). -/
def Slot.mboxMissing (sl : Slot) (u : Uses) : Bool :=
  u.g.any fun r => match mbox? r with
    | some n => !sl.mbp.getLsbD n
    | none => false

/-- The presence bits that the instruction's reads clear (R36, R102). -/
def mboxReads (u : Uses) : BitVec 8 :=
  u.g.foldl (fun m r => match mbox? r with
    | some n => m ||| BitVec.twoPow 8 n
    | none => m) 0

/-- A source with a parity error (R20). DEDUCED (log 28): unsafe. -/
def parityErr (sl : Slot) (u : Uses) : Bool := u.g.any (fun r => (sl.readG r).bad) || u.v.any fun r => (sl.readV r).bad

/-- Some store of the slot has met the bound of R430. -/
def skidFull (rs : List Req) (cid k : Nat) : Bool :=
  rs.any fun r => r.isOf cid k && 32 < r.retired && r.op.isStore

/-- The slot as its instruction's own effect begins: the presence bits of its mailbox sources are cleared, unless `.keep`,
and the warnings of its encoding are set; a `.keep` without a mailbox source warns too (R87). -/
def Slot.begin (sl : Slot) (i : Ins) (u : Uses) (w : BitVec 10) : Slot :=
  let m := mboxReads u
  let sl1 := { sl with mbp := if mKeep i.mod then sl.mbp else sl.mbp &&& ~~~m, run := .running }
  sl1.addWarn (w ||| (if mKeep i.mod && m == 0 then wMODIGN else 0))

/-- Issue up to the instruction's own effect: the slot to act on, or the answer of an instruction that is squashed, that
stalls, or whose sources fault; a source marked expired faults in a PREF too. DESIGN CHOICE (log 69): unsafe. -/
def issue (i : Ins) (u : Uses) (vec : Bool) (w : BitVec 10) (s : State) : Except Res Slot :=
  let cid := s.turn.1
  let k := s.turn.2
  let sl := s.slotAt cid k
  if skidFull s.reqs cid k then .error (.next (s.stall cid k .stall))
  else if !vec && !sl.predTrue i.pred then .error (.next (s.retire cid k sl i.len none))
  else if sl.pends u then .error (.next (s.stall cid k .stall))
  else if sl.mboxMissing u then .error (.next (s.stall cid k (.block (.mbox (mboxReads u)))))
  else if parityErr sl u then .error (.next (s.freeze cid k { cause := cUNCORR }))
  else if !u.moves && u.g.any (fun r => (sl.readG r).expired) then .error (.next (s.preciseFault cid k { cause := cEXPIRED }))
  else .ok (sl.begin i u w)

/-- An instruction whose whole effect lies in its slot: the slot after it and the target of a taken transfer, or a fault. -/
def execSlot (i : Ins) (u : Uses) (vec : Bool) (w : BitVec 10) (body : Slot → Except Trap (Slot × Option W64)) (s : State) : Res :=
  match issue i u vec w s with
  | .error r => r
  | .ok sl =>
    match body sl with
    | .error t => .next (s.preciseFault s.turn.1 s.turn.2 t)
    | .ok (sl', target) => .next (s.retire s.turn.1 s.turn.2 sl' i.len target)

/-- The same for an instruction that is no transfer. -/
def execReg (i : Ins) (u : Uses) (vec : Bool) (w : BitVec 10) (body : Slot → Except Trap Slot) (s : State) : Res :=
  execSlot i u vec w (fun sl => match body sl with
    | .error t => .error t
    | .ok sl' => .ok (sl', none)) s

/-- An instruction that acts on more than its slot: `body` answers from the state and the slot at the point where its own
effect begins. -/
def execState (i : Ins) (u : Uses) (vec : Bool) (w : BitVec 10) (body : Nat → Nat → Slot → Res) (s : State) : Res :=
  match issue i u vec w s with
  | .error r => r
  | .ok sl => body s.turn.1 s.turn.2 sl

/-! ## Vector sources with expired marks (R141) -/

/-- The bytes of a v source that are used; a marked one faults. -/
def Slot.useV (sl : Slot) (r : RegNo) (bytes : BitVec 64) : Except Trap W512 :=
  let x := sl.readV r
  if x.expired &&& bytes == 0 then .ok x.val else .error { cause := cEXPIRED }

/-- A v destination whose `bytes` take a new value, unmarked. -/
def Slot.putV (sl : Slot) (r : RegNo) (bytes : BitVec 64) (x : W512) : Slot :=
  let old := sl.readV r
  sl.writeV r { val := mergeBytes old.val x bytes, expired := old.expired &&& ~~~bytes }

/-- A v destination whose `bytes` are copied with their marks. -/
def Slot.copyV (sl : Slot) (r : RegNo) (bytes : BitVec 64) (x : W512) (marks : BitVec 64) : Slot :=
  let old := sl.readV r
  sl.writeV r { val := mergeBytes old.val x bytes, expired := (old.expired &&& ~~~bytes) ||| (marks &&& bytes) }

/-- The addresses a meaning uses for source b, in a register or an immediate form. -/
def usesAB (i : Ins) : List RegNo := if i.hasImm then [i.a] else [i.a, i.b]

end Sys2Proof.Machine
end

