-- ==== Sys2Proof/Machine/ExecCap.lean ====
section
/-! DEFINITION. The capability instructions, opcodes 0x20 to 0x27 (R114 to R120). -/
namespace Sys2Proof.Machine

/-- A capability fault of a register at an address. DEDUCED (log 53): unsafe. -/
def capTrap (sub : Nat) (r : RegNo) (addr : W64) : Trap := { cause := cCAP_FAULT, sub := sub, reg := r.toNat, addr := addr }

/-- Source b of a capability instruction: raw in a register form, else the immediate, by zeros or by sign (R114). -/
def capB (i : Ins) (signed : Bool) (sl : Slot) : W64 :=
  if !i.hasImm then sl.g64 i.b else if signed then i.immS else i.immZ

/-- The checks that CBOUND and CCHAN share before their bounds: tag, then kind. -/
def capUsable (x : GReg) (kinds : List Nat) : Option Nat :=
  if !x.tag then some 1
  else if fld x.val 124 4 != 0 || !kinds.contains (capKind x.val) then some 2
  else none

/-- The narrowed capability, or the subcode of the failing check (R116). -/
def cboundVal (c : W128) (len : Nat) (round : Bool) : Except Nat W128 :=
  match capDecode c with
  | none => .error 5
  | some (pb, pt) =>
    let lo := capAddr c
    let hi := lo + len
    if lo < pb || pt < hi then .error 4
    else
      let (e, b, t, exact) := capEncode lo hi
      if !exact && !round then .error 7
      else
        let n := capWithBounds c e b t
        match capDecode n with
        | none => .error 5
        | some (nb, nt) => if nb < pb || pt < nt then .error 4 else .ok n

def cboundOp (i : Ins) (s : State) : Res :=
  execReg i { g := usesAB i, dg := [i.d] } false 0
    (fun sl =>
      let x := sl.readG i.a
      let len := capB i false sl
      match capUsable x [0, 1, 2] with
      | some sub => .error (capTrap sub i.a (sl.g64 i.a))
      | none =>
        match cboundVal x.val len.toNat (i.mod.getLsbD 0) with
        | .error sub => .error { capTrap sub i.a (sl.g64 i.a) with aux := if sub == 7 then len else 0 }
        | .ok n => .ok (sl.writeG i.d { val := n, tag := true })) s

/-- A copy with the address moved: the tag stays where the bounds stay (R30, R117). -/
def moveAddr (sl : Slot) (d : RegNo) (x : GReg) (a : W64) : Slot :=
  let n := capWithAddr x.val a
  let keep := capSame x.val n
  let sl1 := if x.tag && !keep then sl.addWarn wCAPCLR else sl
  sl1.writeG d { val := n, tag := x.tag && keep }

def cpermOp (i : Ins) (s : State) : Res :=
  execReg i { g := usesAB i, dg := [i.d] } false 0
    (fun sl =>
      let x := sl.readG i.a
      let p := capPerm x.val &&& (capB i false sl).extractLsb' 0 12
      .ok (sl.writeG i.d { val := setFld x.val 64 12 p.toNat, tag := x.tag })) s

def coffOp (i : Ins) (s : State) : Res :=
  execReg i { g := usesAB i, dg := [i.d] } false 0
    (fun sl => .ok (moveAddr sl i.d (sl.readG i.a) (sl.g64 i.a + capB i true sl))) s

def csetaOp (i : Ins) (s : State) : Res :=
  execReg i { g := usesAB i, dg := [i.d] } false 0
    (fun sl => .ok (moveAddr sl i.d (sl.readG i.a) (capB i true sl))) s

/-- The field that CGET reads (R118). -/
def cgetVal (sub : Nat) (x : GReg) : Nat :=
  match sub with
  | 0 => capAddr x.val
  | 1 => match capDecode x.val with
    | some (b, _) => b
    | none => 0
  | 2 => match capDecode x.val with
    | some (b, t) => if t - b == 2 ^ 64 then 2 ^ 64 - 1 else t - b
    | none => 0
  | 3 => (capPerm x.val).toNat
  | 4 => capKind x.val
  | _ => b2n x.tag

/-- CCHAN's checks and its capability of one channel (R119). -/
def cchanVal (x : GReg) (v : Nat) : Except Nat W128 :=
  match capUsable x [2] with
  | some sub => .error sub
  | none =>
    if v != (v >>> 36) % 2 ^ 27 * 2 ^ 36 + v % 32 then .error 4
    else
      match capDecode x.val with
      | none => .error 5
      | some (b, t) =>
        if v < b || t < v + 1 then .error 4
        else
          let (e, eb, et, _) := capEncode v (v + 1)
          .ok (capWithBounds (capWithAddr x.val (BitVec.ofNat 64 v)) e eb et)

def cchanOp (i : Ins) (s : State) : Res :=
  execReg i { g := usesAB i, dg := [i.d] } false 0
    (fun sl =>
      let x := sl.readG i.a
      let v := if i.hasImm then capAddr x.val / 32 * 32 + i.imm % 32 else (sl.g64 i.b).toNat
      match cchanVal x v with
      | .error sub => .error (capTrap sub i.a (BitVec.ofNat 64 v))
      | .ok n => .ok (sl.writeG i.d { val := n, tag := true })) s

/-- Capability `y` is a subset of `x` (R120). -/
def capSubset (x y : GReg) : Bool :=
  x.tag && y.tag && capKind x.val == capKind y.val && capKind x.val != 3 &&
  fld x.val 124 4 == 0 && fld y.val 124 4 == 0 &&
  (match capDecode x.val, capDecode y.val with
    | some (xb, xt), some (yb, yt) => xb ≤ yb && yt ≤ xt
    | _, _ => false) &&
  capPerm y.val &&& ~~~(capPerm x.val) &&& 0x7FF == 0

def execCbound (f : FR) (s : State) : Res := cboundOp (insR f) s
def execCboundF96 (f : FX) (s : State) : Res := cboundOp (insX f) s
def execCperm (f : FR) (s : State) : Res := cpermOp (insR f) s
def execCpermF96 (f : FX) (s : State) : Res := cpermOp (insX f) s
def execCoff (f : FR) (s : State) : Res := coffOp (insR f) s
def execCoffF96 (f : FX) (s : State) : Res := coffOp (insX f) s
def execCoffF128 (f : FL) (s : State) : Res := coffOp (insL f) s
def execCseta (f : FR) (s : State) : Res := csetaOp (insR f) s
def execCsetaF96 (f : FX) (s : State) : Res := csetaOp (insX f) s
def execCsetaF128 (f : FL) (s : State) : Res := csetaOp (insL f) s

def execCget (f : FR) (s : State) : Res :=
  let i := insR f
  execReg i { g := [i.a], dg := [i.d] } false 0
    (fun sl => .ok (sl.putG i.d (cgetVal i.sub.toNat (sl.readG i.a)))) s

/-- CCLR copies the bits and clears the tag (R117). -/
def execCclr (f : FR) (s : State) : Res :=
  let i := insR f
  execReg i { g := [i.a], dg := [i.d] } false 0
    (fun sl => .ok (sl.writeG i.d { val := (sl.readG i.a).val })) s

def execCchan (f : FR) (s : State) : Res := cchanOp (insR f) s
def execCchanF96 (f : FX) (s : State) : Res := cchanOp (insX f) s

def execCsub (f : FR) (s : State) : Res :=
  let i := insR f
  execReg i { g := [i.a, i.b], dg := [i.d] } false 0
    (fun sl => .ok (sl.putG i.d (b2n (capSubset (sl.readG i.a) (sl.readG i.b))))) s

end Sys2Proof.Machine
end

