-- ==== Sys2Proof/Machine/Races.lean ====
section
/-! DEFINITION. Scopes, the horizon table, and the race check of an access against a line's metadata (R39, R317, R330 to R335,
R344). -/
namespace Sys2Proof.Machine

/-! ## Scopes -/

def scSLOT : Nat := 0
def scCORE : Nat := 1
def scCLUSTER : Nat := 2
def scDIE : Nat := 3
def scPACKAGE : Nat := 4
def scFABRIC : Nat := 5

/-- The identity of a slot: logical core and slot (R330). -/
def identOf (cid k : Nat) : BitVec 18 := BitVec.ofNat 18 (coreNo cid * 4 + k)

/-- A scope covers two identities (R332). -/
def covers (scope : Nat) (w x : BitVec 18) : Bool :=
  let cw := fld w 2 16
  let cx := fld x 2 16
  if scope == scSLOT then w == x
  else if scope == scCORE then cw == cx
  else if scope == scCLUSTER then clusterOf cw == clusterOf cx
  else if scope == scDIE then cw / 4096 == cx / 4096
  else true

/-- The narrowest scope that holds two cores of this package. -/
def scopeOf (a b : Nat) : Nat :=
  if a == b then scCORE else if clusterOf a == clusterOf b then scCLUSTER
  else if a / 4096 == b / 4096 then scDIE else scPACKAGE

/-! ## Metadata (R330) -/

def metaGen (m : W64) : BitVec 9 := m.extractLsb' 55 9
def metaUnk (m : W64) : Bool := m.getLsbD 54
def metaV (m : W64) : Bool := m.getLsbD 53
def metaScope (m : W64) : BitVec 3 := m.extractLsb' 50 3
def metaClock (m : W64) : BitVec 32 := m.extractLsb' 18 32
def metaWriter (m : W64) : BitVec 18 := m.extractLsb' 0 18

def mkMeta (gen : BitVec 9) (scope : BitVec 3) (clock : BitVec 32) (writer : BitVec 18) : W64 :=
  packFields 64 [(55, 9, gen.toNat), (53, 1, 1), (50, 3, scope.toNat), (18, 32, clock.toNat), (0, 18, writer.toNat)]

/-- The hash that marks an evicted writer (R333). -/
def hznHash (w : BitVec 18) : Nat :=
  (fld w 14 4) ^^^ (fld w 10 4) ^^^ (fld w 6 4) ^^^ (fld w 2 4) ^^^ (fld w 0 2)

/-- The position of a writer's entry. -/
def hznPos (h : Vector Hzn 16) (w : BitVec 18) : Option Nat :=
  (List.range 16).find? fun i => (vget h i {}).v && (vget h i {}).writer == w

/-- A position becomes the most recently used. -/
def useHzn (use : List Nat) (i : Nat) : List Nat := i :: use.filter (· != i)

/-- An entry learned: raised, or inserted in an invalid position or in place of the least recently used one (R333). -/
def Slot.learn (sl : Slot) (w : BitVec 18) (clock : BitVec 32) (scope : BitVec 3) : Slot :=
  match hznPos sl.hzn w with
  | some i =>
    let e := vget sl.hzn i {}
    if e.clock.toNat < clock.toNat then
      { sl with hzn := vset sl.hzn i { e with clock := clock, scope := scope }, hznUse := useHzn sl.hznUse i }
    else if e.clock == clock && e.scope.toNat < scope.toNat then
      { sl with hzn := vset sl.hzn i { e with scope := scope }, hznUse := useHzn sl.hznUse i }
    else sl
  | none =>
    let free := (List.range 16).find? fun i => !(vget sl.hzn i {}).v
    let i := free.getD (sl.hznUse.getLastD 0)
    let old := vget sl.hzn i {}
    { sl with
      hzn := vset sl.hzn i { v := true, scope := scope, clock := clock, writer := w }
      hznUse := useHzn sl.hznUse i
      hznev := if old.v then sl.hznev ||| BitVec.twoPow 16 (hznHash old.writer) else sl.hznev }

def narrower (a b : BitVec 3) : BitVec 3 := if a.toNat ≤ b.toNat then a else b

/-- The entry learned from a line's metadata by an acquire at a scope (R333). -/
def Slot.learnMeta (sl : Slot) (m : W64) (scope : BitVec 3) : Slot :=
  if metaV m && !metaUnk m then sl.learn (metaWriter m) (metaClock m) (narrower (metaScope m) scope) else sl

/-- Ordered (R334): the answer, and the horizon position that made it pass. -/
def ordered (gen : BitVec 9) (hzn : Vector Hzn 16) (x : BitVec 18) (m : W64) : Bool × Option Nat :=
  if !metaV m || metaUnk m then (true, none)
  else
    let d := (gen - metaGen m).toNat
    if 1 ≤ d && d ≤ 255 then (true, none)
    else if metaWriter m == x then (true, none)
    else
      match hznPos hzn (metaWriter m) with
      | none => (false, none)
      | some i =>
        let e := vget hzn i {}
        if metaClock m ≤ e.clock && covers (narrower e.scope (metaScope m)).toNat (metaWriter m) x then (true, some i)
        else (false, none)

/-- A race record or log record (R344). -/
def raceRecord (gen : BitVec 9) (hzn : Vector Hzn 16) (hznev : BitVec 16) (x : BitVec 18) (pkg : BitVec 10) (lid : BitVec 16)
    (kind : Nat) (reft pc addr : W64) (m : W64) : W512 :=
  let e := ((hznPos hzn (metaWriter m)).map fun i => vget hzn i {}).getD {}
  let cert := !hznev.getLsbD (hznHash (metaWriter m))
  packFields 512 [(0, 64, addr.toNat), (64, 64, pc.toNat), (128, 64, reft.toNat), (192, 32, (metaClock m).toNat),
    (224, 32, e.clock.toNat), (256, 18, (metaWriter m).toNat), (288, 18, x.toNat), (306, 10, pkg.toNat),
    (320, 9, (metaGen m).toNat), (336, 9, gen.toNat), (352, 3, (metaScope m).toNat), (355, 3, e.scope.toNat),
    (358, 1, b2n cert), (360, 8, kind), (368, 16, lid.toNat)]

/-- The stamp of a write (R331): CLK + 1, or CLK itself for a release. -/
def stampOf (clk : BitVec 32) (rel : Bool) : BitVec 32 := if rel || clk == 0xFFFFFFFF then clk else clk + 1

/-- The position that made a check of a slot pass counts as used (R333). -/
def Slot.useEntry (sl : Slot) (i : Option Nat) : Slot :=
  match i with
  | none => sl
  | some i => { sl with hznUse := useHzn sl.hznUse i }

/-- What a check told, taken by its slot. -/
def Slot.note (sl : Slot) (n : Note) : Slot :=
  let x := sl.useEntry (n.used.bind (hznPos sl.hzn))
  match n.learnt with
  | some (m, sc) => x.learnMeta m sc
  | none => x

/-- The notes of a slot's checks taken (R333). -/
def Slot.takeNotes (sl : Slot) (ns : List Note) : Slot := ns.foldl Slot.note sl

end Sys2Proof.Machine
end

