-- ==== Sys2Proof/Machine/Llc.lean ====
section
/-! DEFINITION. Physical memory at its point of coherence: HBM lines, Hedgehog coding, and the sectored last-level cache of each
M-die (R370, R390 to R402), with the parity deltas that write-backs send (R485 to R487). -/
namespace Sys2Proof.Machine

/-! ## Physical addresses (R370) -/

def paMdie (pa : Nat) : Nat := pa / 2 ^ 37
def paValid (pa : Nat) : Bool := paMdie pa < 6 && pa % 2 ^ 37 < 128000000000

/-! ## Hedgehog coding (R393 to R398) -/

/-- The words of a line in a view of `bw` bytes. -/
def hhWords (bw : Nat) (d : W512) : List Nat := (List.range (64 / bw)).map (vElem d bw)

/-- The base width and the delta width of a mode. -/
def hhWidths : Nat → Nat × Nat
  | 2 => (8, 1)
  | 3 => (8, 2)
  | 4 => (8, 4)
  | 5 => (4, 1)
  | 6 => (4, 2)
  | _ => (8, 0)

/-- A difference modulo the word width fits `dw` bytes as a signed value. -/
def hhFits (bw dw x base : Nat) : Bool :=
  let t := sextN (8 * bw) ((x + 2 ^ (8 * bw) - base) % 2 ^ (8 * bw))
  let h : Int := 2 ^ (8 * dw - 1)
  decide (-h ≤ t ∧ t < h)

/-- The payload bytes of a line under a mode from 1 to 7, or none where the mode cannot code it. -/
def hhBytes (d : W512) (m : Nat) : Option Nat :=
  let (bw, dw) := hhWidths m
  let nz := (hhWords bw d).filter (· != 0)
  if m == 1 then (if nz.isEmpty then some 0 else none)
  else
    match nz with
    | [] => none
    | base :: rest =>
      if m == 7 then (if rest.all (· == base) then some 8 else none)
      else if rest.all (fun x => hhFits bw dw x base) then some (bw + rest.length * dw) else none

/-- The mode and the sectors of a line (R396). -/
def hhChoose (d : W512) (cmp : Bool) : Nat × Nat :=
  if !cmp then (0, 8)
  else [1, 2, 3, 4, 5, 6, 7].foldl (fun best m =>
    match hhBytes d m with
    | none => best
    | some b => if (b + 7) / 8 < best.2 then (m, (b + 7) / 8) else best) (0, 8)

/-- The zero mask of a view. -/
def zeroMask (ws : List Nat) : Nat := ws.foldr (fun w acc => b2n (w == 0) + 2 * acc) 0

/-- The header of a line under a mode (R395). -/
def hhHeader (d : W512) (m : Nat) : BitVec 24 :=
  let z := if m ≤ 1 then 0 else zeroMask (hhWords (hhWidths m).1 d)
  packFields 24 [(0, 4, m), (4, 16, z)]

/-- Bytes cut into sectors, the last filled up with zeros. -/
def sectorsOf (bs : List Byte) : List W64 :=
  (List.range ((bs.length + 7) / 8)).map fun i => ofBytes 64 ((bs.drop (8 * i)).take 8)

/-- The payload of a line under a mode (R394). -/
def hhPayload (d : W512) (m : Nat) : List W64 :=
  if m == 0 then (hhWords 8 d).map (BitVec.ofNat 64)
  else
    let (bw, dw) := hhWidths m
    match (hhWords bw d).filter (· != 0) with
    | [] => []
    | base :: rest =>
      sectorsOf (leBytes bw base ++
        (if m == 7 then [] else rest.flatMap fun x => leBytes dw ((x + 2 ^ (8 * bw) - base) % 2 ^ (8 * bw))))

/-- Words put back where the zero mask leaves them, in order. -/
def spreadWords : List Bool → List Nat → List Nat
  | [], _ => []
  | true :: z, ws => 0 :: spreadWords z ws
  | false :: z, [] => 0 :: spreadWords z []
  | false :: z, w :: ws => w :: spreadWords z ws

/-- The line of a header and its payload, or none where the header breaks its rules (R398). -/
def hhDecode (hdr : BitVec 24) (payload : List W64) : Option W512 :=
  let m := fld hdr 0 4
  let z := fld hdr 4 16
  if fld hdr 20 4 != 0 || 8 ≤ m then none
  else if m == 0 then
    if z == 0 && payload.length == 8 then some (vOfElems 8 (payload.map (·.toNat))) else none
  else if m == 1 then (if z == 0 && payload.isEmpty then some 0 else none)
  else
    let (bw, dw) := hhWidths m
    let n := 64 / bw
    let zs := (List.range n).map z.testBit
    let nz := (zs.filter (!·)).length
    let bytes := if m == 7 then 8 else bw + (nz - 1) * dw
    if nz == 0 || (bw == 8 && 256 ≤ z) || payload.length != (bytes + 7) / 8 then none
    else
      let bs := payload.flatMap fun w => bytesOf w 8
      let base := leNat (bs.take bw)
      let word (i : Nat) : Nat :=
        if i == 0 || m == 7 then base
        else truncI (8 * bw) (base + sextN (8 * dw) (leNat ((bs.drop (bw + (i - 1) * dw)).take dw)))
      some (vOfElems bw (spreadWords zs ((List.range nz).map word)))

/-! ## Lines of HBM -/

/-- The 64 bytes of an HBM line. -/
def State.hbmLine (s : State) (line : Nat) : W512 := ofBytes 512 (s.bytesAt (hbmKey (line * 64)) 64)

/-- Four granule tags from a key. -/
def State.tags4 (s : State) (k : Nat) : BitVec 4 :=
  BitVec.ofNat 4 ((List.range 4).foldl (fun acc i => acc + (if s.tagAt (k + 16 * i) then 2 ^ i else 0)) 0)

def State.putTags4 (s : State) (k : Nat) (t : BitVec 4) : State :=
  (List.range 4).foldl (fun s i => s.putTag (k + 16 * i) (t.getLsbD i)) s

/-- The key of a line's poison (R421, R494), of an error of its HBM cells that cannot be corrected, and of one that can, in each of its
two units of 32 bytes (R404). -/
def poisonKey (line : Nat) : Nat := hbmKey (line * 64)
def cellKey (line : Nat) : Nat := hbmKey (line * 64) + 1
def unitKey (line unit : Nat) : Nat := hbmKey (line * 64) + 2 + unit

/-- A whole line written to HBM with its granule tags: its cells have fresh check bits, its poison stays. -/
def State.hbmPut (s : State) (line : Nat) (d : W512) (tags : BitVec 4) : State :=
  { s with mem := memPuts s.mem (hbmKey (line * 64)) (bytesOf d 64), errs := s.errs.filter fun e => e.1 != cellKey line && e.1 != unitKey line 0 && e.1 != unitKey line 1 }.putTags4 (hbmKey (line * 64)) tags

/-- A line is poisoned until it is written whole. -/
def State.poison (s : State) (line : Nat) : State :=
  if s.errs.contains (poisonKey line, true) then s else { s with errs := s.errs ++ [(poisonKey line, true)] }

/-! ## The LLC -/

/-- M-die, slice and set of a line (R390). -/
def LlcLine.pos (l : LlcLine) : Nat × Nat × Nat :=
  if l.frn then ((l.line % 8 + l.pkg) % 6, l.line / 8 % 8, l.line / 64 % 8192)
  else (l.line * 64 / 2 ^ 37, l.line % 8, l.line / 8 % 8192)

def LlcLine.data (l : LlcLine) : Option W512 := hhDecode l.hdr l.payload

/-- The home line of a physical line. -/
def State.llcHome (s : State) (line : Nat) : Option LlcLine :=
  (s.mdie (line * 64 / 2 ^ 37)).llc.find? fun l => !l.frn && l.line == line

/-- A foreign line of this package, by home package, context and virtual line. -/
def State.llcForeign (s : State) (h ctx vline : Nat) : Option LlcLine :=
  (s.mdie ((vline % 8 + h) % 6)).llc.find? fun l => l.frn && l.pkg == h && l.ctx == ctx && l.line == vline

/-- A counter of a table raised by one (events wrap modulo 2^64). -/
def bump (t : Tbl W64) (i : Nat) : Tbl W64 := tblSet i (tblGetD t i 0 + 1) t

def State.countM (s : State) (m i : Nat) : State :=
  let d := s.mdie m
  s.setMdie m { d with count := bump d.count i }

/-- The bytes of a line at the point of coherence: the LLC's, else those of HBM. -/
def State.pocLine (s : State) (line : Nat) : W512 :=
  match s.llcHome line with
  | some l => l.data.getD 0
  | none => s.hbmLine line

def State.pocTags (s : State) (line : Nat) : BitVec 4 :=
  match s.llcHome line with
  | some l => l.tags
  | none => s.tags4 (hbmKey (line * 64))

/-- `n` bytes from a physical address, within one line. -/
def State.pocNat (s : State) (pa n : Nat) : Nat :=
  (s.pocLine (pa / 64)).toNat >>> (8 * (pa % 64)) % 2 ^ (8 * n)

/-- Bytes of any range of physical memory. -/
def State.pocBytes (s : State) (pa n : Nat) : List Byte :=
  (List.range n).map fun i => BitVec.ofNat 8 (s.pocNat (pa + i) 1)

/-- An uncorrectable error of a line: its poison, a header that the decoder rejects, or an error of its HBM cells. -/
def State.pocBad (s : State) (line : Nat) : Bool :=
  s.errs.contains (poisonKey line, true) ||
  (match s.llcHome line with
    | some l => l.data.isNone
    | none => s.errs.contains (cellKey line, true))

/-! ## Parity deltas (R485, R487) -/

/-- An erasure group's entry. -/
structure EgEntry where
  valid  : Bool
  scheme : Nat
  ctx    : Nat
  spare  : Option Nat
  dbase  : Nat
  dlen   : Nat
  pbase  : Nat
  members : List Nat
  deriving DecidableEq, Repr

def State.egEntry (s : State) (g : Nat) : EgEntry :=
  let e := s.host.egtb.toNat / 2 ^ 15 * 2 ^ 15 % 2 ^ 40 + 128 * g
  let sp := s.pocNat (e + 2) 2
  { valid := s.pocNat e 1 % 2 == 1 && s.pocNat e 1 / 2 % 4 != 3
    scheme := s.pocNat e 1 / 2 % 4, ctx := s.pocNat (e + 1) 1 % 64
    spare := if 2 ^ 15 ≤ sp then some (sp % 1024) else none
    dbase := s.pocNat (e + 8) 8, dlen := s.pocNat (e + 16) 8, pbase := s.pocNat (e + 24) 8
    members := (List.range 18).map fun i => s.pocNat (e + 32 + 2 * i) 2 % 1024 }

/-- The data members of a scheme. -/
def egData (scheme : Nat) : Nat := if scheme == 0 then 4 else if scheme == 1 then 8 else 16

/-- The delta of a write-back sent to the parity packages, or the count of a bad placement. DEDUCED (log 64): unsafe. -/
def State.parityOut (s : State) (g : BitVec 8) (vline : Nat) (delta : W512) (dt : BitVec 4) (sync : Bool) : State :=
  let e := s.egEntry g.toNat
  let n := egData e.scheme
  let va := vline * 64 % 2 ^ 53
  let b := e.dbase % 2 ^ 53
  match indexOf? (· == s.pkg.toNat) (e.members.take n) with
  | none => { s with host := { s.host with badPlace := s.host.badPlace + 1 } }
  | some i =>
    if !e.valid || va < b || b + e.dlen ≤ va then { s with host := { s.host with badPlace := s.host.badPlace + 1 } }
    else
      let o := va - b
      let send (s : State) (pos : Nat) : State :=
        let p := e.members.getD pos 0
        { s with
          nextId := s.nextId + 1
          host := { s.host with deltas := s.host.deltas ++ [{ k := s.nextId, egrp := g.toNat, pkg := p, sync := sync }] }
          out := s.out ++ [.delta p g.toNat o i (pos != n) delta (dt.zeroExtend 8)] }
      if e.scheme == 0 then send s n else send (send s n) (n + 1)

/-! ## Eviction, fill and write (R399 to R402) -/

/-- A dirty home line written to HBM, with its parity delta. -/
def State.llcWriteBack (s : State) (l : LlcLine) (sync : Bool) : State :=
  if l.frn || !l.dirty then s
  else
    let d := l.data.getD 0
    let old := s.hbmLine l.line
    let ot := s.tags4 (hbmKey (l.line * 64))
    let s1 := (s.hbmPut l.line d l.tags).countM (l.line * 64 / 2 ^ 37) 0x05
    match l.egrp with
    | none => s1
    | some (g, v) => s1.parityOut g v (old ^^^ d) (ot ^^^ l.tags) sync

/-- The kind of the Put of an evicted foreign line: PutM 0, PutO 1, PutE 2, PutS 3. -/
def putKind (cst : BitVec 2) : Nat := if cst == 3 then 0 else if cst == 2 then 1 else if cst == 1 then 2 else 3

/-- The bytes of a line as it leaves the package; those of a poisoned one are not known. DESIGN CHOICE (log 5): safe. -/
def State.lineOut (s : State) (l : LlcLine) : W512 :=
  l.data.getD (ofBytes 512 ((List.range 64).map (Config.lostByte s.fresh)))

/-- The kind of a message with a line: 32 more says that the line is poisoned (R494). -/
def LlcLine.outKind (l : LlcLine) (k : Nat) : Nat := if l.data.isNone then 32 + k else k

/-- A line leaves the LLC (R401): written back, or Put to its home with its data kept until the Put is acknowledged (R419). -/
def State.llcEvict (s : State) (l : LlcLine) : State :=
  let m := l.pos.1
  let s1 := s.setMdie m { s.mdie m with llc := (s.mdie m).llc.filter (· != l) }
  if l.frn then
    let d := s.lineOut l
    let clean := 2 ≤ putKind l.cst
    { s1 with
      fresh := s1.fresh + 1
      out := s1.out ++ [if clean then .directory (putKind l.cst) l.pkg l.hline 0 0 else .directory (l.outKind (putKind l.cst)) l.pkg l.hline d l.tags]
      dir := { s1.dir with wbBuf := s1.dir.wbBuf ++
        [{ pkg := l.pkg, ctx := l.ctx, line := l.line, hline := l.hline, data := d, tags := l.tags, dirty := !clean, bad := l.data.isNone }] } }
  else s1.llcWriteBack l false

/-- The lines of a set, most recently used first. -/
def setLines (ls : List LlcLine) (p : Nat × Nat × Nat) : List LlcLine := ls.filter fun l => l.pos == p

def sectorsUsed (ls : List LlcLine) : Nat := ls.foldl (fun n l => n + l.slist.length) 0

/-- Room for one tag (when `tag`) and `need` sectors in a set, the line `keep` apart: the least recently used lines leave, each
counted at index `ctr`. -/
def State.llcRoom (s : State) (p : Nat × Nat × Nat) (keep : LlcLine) (tag : Bool) (need ctr : Nat) : Nat → State
  | 0 => s
  | fuel + 1 =>
    let ls := setLines (s.mdie p.1).llc p
    let others := ls.filter (· != keep)
    if (!tag || ls.length < 48) && sectorsUsed others + need ≤ 192 then s
    else match others.getLast? with
      | none => s
      | some v => ((s.llcEvict v).countM p.1 ctr).llcRoom p keep tag need ctr fuel

/-- The `n` lowest free sectors of a set. DEDUCED (log 42): unsafe. -/
def freeSectors (ls : List LlcLine) (n : Nat) : List (BitVec 8) :=
  let used := ls.flatMap (·.slist)
  (((List.range 192).map (BitVec.ofNat 8)).filter fun x => !used.contains x).take n

/-- A line coded anew with its sectors, most recently used in its set. DEDUCED (log 42): unsafe. -/
def State.llcPlace (s : State) (old : Option LlcLine) (l : LlcLine) (d : W512) (cmp : Bool) (ctr : Nat) : State :=
  let c := hhChoose d cmp
  let l0 := { l with hdr := hhHeader d c.1, payload := hhPayload d c.1 }
  let p := l0.pos
  let keep := old.getD l0
  let s1 := s.llcRoom p keep old.isNone c.2 ctr 48
  let rest := (s1.mdie p.1).llc.filter (· != keep)
  let sl := match old with
    | some o => if c.2 ≤ o.slist.length then o.slist.take c.2
                else o.slist ++ freeSectors (setLines (o :: rest) p) (c.2 - o.slist.length)
    | none => freeSectors (setLines rest p) c.2
  s1.setMdie p.1 { s1.mdie p.1 with llc := { l0 with slist := sl } :: rest }

/-- A line becomes the most recently used of its set. -/
def State.llcTouch (s : State) (l : LlcLine) : State :=
  let m := l.pos.1
  s.setMdie m { s.mdie m with llc := l :: (s.mdie m).llc.filter (· != l) }

/-- A home line is present: filled from HBM when it is absent. Data that HBM cannot correct is poisoned (R494). -/
def State.llcFillHome (s : State) (line : Nat) (cmp : Bool) (egrp : Option (BitVec 8 × Nat)) (exp : Bool) : State :=
  match s.llcHome line with
  | some l => s.llcTouch l
  | none =>
    let s1 := s.llcPlace none { line := line, tags := s.tags4 (hbmKey (line * 64)), egrp := egrp, exp := exp } (s.hbmLine line) cmp 0x03
    if s.errs.contains (cellKey line, true) then s1.poison line else s1

/-- Some other package may hold a home line: its directory state is not I (R417). -/
def State.exported (s : State) (line : Nat) : Bool := s.dir.ents.any fun e => e.pline == line && e.state != 0

/-- A corrected error of the LLC's copy of a line is corrected in place and counted (R494). -/
def State.correctLine (s : State) (line : Nat) : State :=
  let e := (poisonKey line, false)
  let n := (s.errs.filter (· == e)).length
  if n == 0 then s else { (List.range n).foldl (fun s _ => s.countM (line * 64 / 2 ^ 37) 0x06) s with errs := s.errs.filter (· != e) }

/-- The granule tags after a write of `mask`: written granules take `t`. -/
def mergeTags (old t : BitVec 4) (mask : BitVec 64) : BitVec 4 :=
  BitVec.ofNat 4 ((List.range 4).foldl (fun acc i =>
    acc + (if (if fld mask (16 * i) 16 != 0 then t.getLsbD i else old.getLsbD i) then 2 ^ i else 0)) 0)

/-- The bytes of a mask written into a home line at the point of coherence; `cmp` is the translation's CMP, or none for a write
without a translation (R397). A line that is absent is filled first, unless it is written whole (R392); a write of the whole line ends
its poison. -/
def State.pocWrite (s : State) (line : Nat) (d : W512) (mask : BitVec 64) (t : BitVec 4) (cmp : Option Bool)
    (egrp : Option (BitVec 8 × Nat)) : State :=
  let whole := mask == BitVec.allOnes 64
  let clean (s : State) : State := { s with errs := s.errs.filter fun e => e.1 / 64 * 64 != hbmKey (line * 64) }
  if whole && (s.llcHome line).isNone then
    clean (s.llcPlace none { line := line, dirty := true, tags := t, egrp := egrp, exp := s.exported line } d (cmp.getD false) 0x03)
  else
  let s := s.llcFillHome line (cmp.getD false) egrp (s.exported line)
  match s.llcHome line with
  | none => s
  | some l =>
    let nd := mergeBytes (l.data.getD 0) d mask
    let c := cmp.getD (fld l.hdr 0 4 != 0)
    let l1 := { l with dirty := true, tags := mergeTags l.tags t mask, egrp := if egrp.isSome then egrp else l.egrp }
    let s1 := s.llcPlace (some l) l1 nd c 0x04
    if whole then clean s1 else s1

/-- A word of up to 64 bytes within one line written by the device on its own account (a Beaver, a walker). -/
def State.pocPatch (s : State) (pa n v : Nat) : State :=
  s.pocWrite (pa / 64) (BitVec.ofNat 512 (v <<< (8 * (pa % 64)))) (byteMask (pa % 64) n) 0 none none

/-- Words that the device keeps beside the LLC (race metadata, race control words): in the LLC line where one holds them, else
in HBM. -/
def State.sidePut (s : State) (pa n v : Nat) : State :=
  match s.llcHome (pa / 64) with
  | some _ => s.pocPatch pa n v
  | none => { s with mem := memPuts s.mem (hbmKey pa) (leBytes n v) }

end Sys2Proof.Machine
end

