-- ==== Sys2Proof/Machine/Walk.lean ====
section
/-! DEFINITION. Page-table walks, attributes of translations, and the TLBs (R371 to R378, R386). -/
namespace Sys2Proof.Machine

/-- The position of the lowest bit that a level's page number holds (R371). -/
def pageBits (level : Nat) : Nat := if level == 0 then 16 else if level == 1 then 21 else if level == 2 then 30 else 36

/-- The table index of a virtual address at a level. -/
def tableIndex (va level : Nat) : Nat :=
  if level == 3 then va / 2 ^ 36 % 2 ^ 17 else if level == 2 then va / 2 ^ 30 % 64
  else if level == 1 then va / 2 ^ 21 % 512 else va / 2 ^ 16 % 32

/-- The causes of a walk (R380). -/
def xNOTPRESENT : BitVec 8 := 1
def xPERM : BitVec 8 := 2
def xMALFORMED : BitVec 8 := 3
def xBADFRAME : BitVec 8 := 4
def xNOCTX : BitVec 8 := 5
def xUNREACH : BitVec 8 := 6
def xPROT : BitVec 8 := 7
def xWINDOW : BitVec 8 := 8

/-- The cause of the store-fault record of a refused store (R140, R431). -/
def storeCause (c : BitVec 8) : BitVec 8 :=
  if c == xNOTPRESENT then sfNOTPRESENT else if c == xPERM then sfPERM else if c == xUNREACH then sfUNREACH
  else if c == xPROT then sfPROT else if c == xWINDOW then sfWINDOW else sfBADXLATE

/-- What a walk yields: a leaf with its level and its place, or a cause. -/
inductive WalkRes where
  | leaf (entry : W64) (level at_ : Nat)
  | fault (cause : BitVec 8)
  deriving DecidableEq, Repr

def entryFrame (e : W64) : Nat := fld e 16 24 * 2 ^ 16

/-- The attributes that a leaf gives an access (R375). -/
def attrOf (e : W64) : Attr :=
  { ord := e.extractLsb' 2 2, rc := e.getLsbD 48, cg := e.getLsbD 50, cmp := e.getLsbD 49, erase := e.getLsbD 55
    lat := e.getLsbD 54, egrp := e.extractLsb' 56 8 }

/-- MIG stands for a migration that the Beavers run on this entry; any other MIG was written by software (R384). DEDUCED (log 41): unsafe. -/
def State.migrating (s : State) (at_ : Nat) : Bool :=
  (List.range 6).any fun m => (s.mdie m).mig.phase != 0 && (s.mdie m).mig.mpte.toNat == at_

/-- The checks of a valid leaf at a level (R372, R374, R386). DEDUCED (log 41): unsafe. -/
def State.leafCheck (s : State) (e : W64) (level at_ : Nat) : WalkRes :=
  let f := entryFrame e
  if fld e 40 8 != 0 || fld e 7 9 != 0 || fld e 2 2 == 3 || f % 2 ^ pageBits level != 0 ||
      (e.getLsbD 53 && !s.migrating at_) then .fault xMALFORMED
  else if !paValid f || !paValid (f + 2 ^ pageBits level - 1) then .fault xBADFRAME
  else
    let d := s.mdie (paMdie f)
    if e.getLsbD 48 && !(d.cklo.toNat ≤ f && f + 2 ^ pageBits level ≤ d.ckhi.toNat) then .fault xBADFRAME
    else .leaf e level at_

/-- One level of a walk: its result, or the next table. -/
def State.walkLevel (s : State) (va t level : Nat) : Except WalkRes Nat :=
  let at_ := t + 8 * tableIndex va level
  let e : W64 := BitVec.ofNat 64 (s.pocNat at_ 8)
  if !e.getLsbD 0 then .error (.fault xNOTPRESENT)
  else if e.getLsbD 1 then .error (s.leafCheck e level at_)
  else if fld e 40 24 != 0 || fld e 2 6 != 0 then .error (.fault xMALFORMED)
  else .ok (fld e 8 32 * 256)

/-- The walk from a table at a level (R374). DEDUCED (log 37): unsafe. -/
def State.walkFrom (s : State) (va t : Nat) : Nat → WalkRes
  | 0 => match s.walkLevel va t 0 with
    | .error r => r
    | .ok _ => .fault xMALFORMED
  | l + 1 => match s.walkLevel va t (l + 1) with
    | .error r => r
    | .ok t' => s.walkFrom va t' l

/-- Walk (R374). -/
def State.walk (s : State) (ctx va : Nat) : WalkRes :=
  let c := s.ctx ctx
  if !c.valid || !c.ptroot.getLsbD 0 then .fault xNOCTX
  else if fld c.ptroot 40 24 != 0 || fld c.ptroot 1 19 != 0 then .fault xMALFORMED
  else s.walkFrom va (fld c.ptroot 20 20 * 2 ^ 20) 3

/-- The physical address of a translation. -/
def xlatePa (e : W64) (level va : Nat) : Nat := entryFrame e + va % 2 ^ pageBits level

/-- A leaf permits a need (R375). -/
def permOk (e : W64) : Need → Bool
  | .read => e.getLsbD 4
  | .write => e.getLsbD 5
  | .atomic => e.getLsbD 4 && e.getLsbD 5
  | .exec => e.getLsbD 6

def Need.writes : Need → Bool
  | .read => false
  | .write => true
  | .atomic => true
  | .exec => false

/-- The line of a table's entry is brought into the LLC. -/
def State.tableFill (s : State) (va t level : Nat) : State :=
  let at_ := t + 8 * tableIndex va level
  if paValid at_ then s.llcFillHome (at_ / 64) false none (s.exported (at_ / 64)) else s

/-- The lines that a walk reads are brought into the LLC, uncompressed (R377, R392, R397). -/
def State.walkFill (s : State) (va t : Nat) : Nat → State
  | 0 => s.tableFill va t 0
  | l + 1 => match s.walkLevel va t (l + 1) with
    | .error _ => s.tableFill va t (l + 1)
    | .ok t' => (s.tableFill va t (l + 1)).walkFill va t' l

/-- The lines of a context's walk. -/
def State.walkLines (s : State) (ctx va : Nat) : State :=
  let c := s.ctx ctx
  if !c.valid || !c.ptroot.getLsbD 0 || fld c.ptroot 40 24 != 0 || fld c.ptroot 1 19 != 0 then s
  else s.walkFill va (fld c.ptroot 20 20 * 2 ^ 20) 3

/-- The leaf with A set, and D for a write (R376). -/
def markAD (e : W64) (write : Bool) : W64 := e ||| BitVec.twoPow 64 51 ||| (if write then BitVec.twoPow 64 52 else 0)

/-- A walk that also keeps A and D; `setD` is the write for which D is set (a TOUCH never sets it). -/
def State.walkAD (s0 : State) (ctx va : Nat) (need : Need) (setD : Bool) : WalkRes × State :=
  let s := s0.walkLines ctx va
  match s0.walk ctx va with
  | .fault c => (.fault c, s)
  | .leaf e level at_ =>
    if !permOk e need then (.fault xPERM, s)
    else
      let e1 := markAD e (need.writes && setD)
      if e1 == e then (.leaf e level at_, s) else (.leaf e1 level at_, s.pocPatch at_ 8 e1.toNat)

/-! ## TLBs (R377) -/

def tlbHit (ctx va : Nat) (t : TlbEnt) : Bool := t.ctx == ctx && t.vpage == va / 2 ^ pageBits t.level

/-- An entry put first, the same page's other entries dropped. -/
def tlbFront (t : TlbEnt) (l : List TlbEnt) : List TlbEnt :=
  t :: l.filter fun x => !(x.ctx == t.ctx && x.level == t.level && x.vpage == t.vpage)

/-- Entries kept to `ways` per set of `sets` sets, the least recently used dropped. -/
def tlbInsert (sets ways : Nat) (t : TlbEnt) (l : List TlbEnt) : List TlbEnt :=
  let l1 := tlbFront t l
  let same := l1.filter fun x => x.vpage % sets == t.vpage % sets
  if ways < same.length then l1.filter (fun x => !(same.drop ways).contains x) else l1

/-- The cluster of a worker core's physical core; none for a service core. -/
def State.tlbCluster (s : State) (cid : Nat) : Option Nat :=
  if isSvc cid then none else some (clusterOf (coreNo (s.core cid).phys))

/-- A translation installed in the micro-TLB of a core and in its cluster's TLB. -/
def State.tlbInstall (s : State) (cid : Nat) (t : TlbEnt) : State :=
  let s1 := s.modCore cid fun c => { c with utlb := (tlbFront t c.utlb).take 32 }
  match s1.tlbCluster cid with
  | none => s1
  | some cl => s1.setCluster cl { s1.cluster cl with tlb := tlbInsert 128 8 t (s1.cluster cl).tlb }

/-- A translation installed in a core's cluster's TLB, for an engine. -/
def State.tlbInstallCl (s : State) (cid : Nat) (t : TlbEnt) : State :=
  match s.tlbCluster cid with
  | none => s
  | some cl => s.setCluster cl { s.cluster cl with tlb := tlbInsert 128 8 t (s.cluster cl).tlb }

/-- A lookup in a core's cluster's TLB, for an engine. -/
def State.tlbFindCl (s : State) (cid ctx va : Nat) : Option TlbEnt :=
  match s.tlbCluster cid with
  | none => none
  | some cl => (s.cluster cl).tlb.find? (tlbHit ctx va)

/-- A lookup in the micro-TLB, then in the cluster's TLB. -/
def State.tlbFind (s : State) (cid ctx va : Nat) : Option TlbEnt :=
  match (s.core cid).utlb.find? (tlbHit ctx va) with
  | some t => some t
  | none =>
    match s.tlbCluster cid with
    | none => none
    | some cl => (s.cluster cl).tlb.find? (tlbHit ctx va)

/-- A virtual address lies in the page of an invalidation: the whole context, or a page of a size. -/
def inPage (all : Bool) (ctx : Nat) (va : Nat) (level : Nat) (c a : Nat) : Bool :=
  c == ctx && (all || a / 2 ^ pageBits level == va / 2 ^ pageBits level)

/-- An entry overlaps the invalidated page. -/
def tlbOverlap (all : Bool) (ctx va level : Nat) (t : TlbEnt) : Bool :=
  let b := max (pageBits level) (pageBits t.level)
  t.ctx == ctx && (all || t.vpage * 2 ^ pageBits t.level / 2 ^ b == va / 2 ^ b)

/-- The result of a walk that a slot has not used yet: of a migrating page, or of a refused store. -/
def Req.walked (r : Req) : Bool :=
  match r.op, r.stage with
  | .probe _ _, .done => true
  | .probe _ n, .refused _ => n.writes
  | _, _ => false

/-- Translations of a page removed from every TLB and translation cache of the package, and the results of its walks that are still to be
used (R224, R383, R384). -/
def State.tlbPurge (s : State) (all : Bool) (ctx va level : Nat) : State :=
  let f (l : List TlbEnt) : List TlbEnt := l.filter fun t => !tlbOverlap all ctx va level t
  { s with
    reqs := s.reqs.filter fun r => !(r.walked && inPage all ctx va level r.ctx (fld r.ea 0 53))
    cores := s.cores.map fun p => (p.1, { p.2 with utlb := f p.2.utlb })
    clusters := s.clusters.map fun p => (p.1, { p.2 with tlb := f p.2.tlb })
    dir := { s.dir with tcache := s.dir.tcache.map f } }

end Sys2Proof.Machine
end

