-- ==== Sys2Proof/Machine/RaceCtl.lean ====
section
/-! DEFINITION. Race control: the words of a context's race control block, its log ring, the shadow metadata, and the sweep (R337, R342,
R345, R346). -/
namespace Sys2Proof.Machine

/-! ## Race control (R345, R346) -/

/-- The physical address of a context's race control words. DEDUCED (log 65): unsafe. -/
def State.raceCtl (s : State) (ctx : Nat) : Nat := s.host.ctxb.toNat / 2 ^ 13 * 2 ^ 13 % 2 ^ 40 + 128 * ctx + 32

/-- Reporting-only mode. -/
def State.raceLogs (s : State) (ctx : Nat) : Bool := (s.pocNat (s.raceCtl ctx) 8).testBit 0

/-- A record dropped and counted in LOST. -/
def State.raceLost (s : State) (ctx : Nat) : State :=
  let a := s.raceCtl ctx + 16
  let lost := s.pocNat (a + 4) 4
  if lost == 0xFFFFFFFF then s else s.sidePut (a + 4) 4 (lost + 1)

/-- Memory that no M-die serves. -/
def State.paLost (s : State) (pa : Nat) : Bool := (s.mdie (paMdie pa)).lost

/-- A record appended to the context's log ring. One that cannot be written counts as lost (R345). -/
def State.raceAppend (s : State) (ctx : Nat) (rec : W512) : State :=
  let a := s.raceCtl ctx
  let b := s.pocNat (a + 8) 8
  let logn := b % 32
  let head := s.pocNat (a + 16) 4
  let tail := s.pocNat (a + 24) 4
  if logn < 6 || 24 < logn || (head + 2 ^ 32 - tail) % 2 ^ 32 == 2 ^ logn then s.raceLost ctx
  else
    let va := b / 4096 * 4096 + head % 2 ^ logn * 64
    if !va.testBit 63 || inCtl (va % 2 ^ 53) then s.raceLost ctx
    else match s.walkAD ctx (va % 2 ^ 53) .write true with
      | (.leaf e level _, s1) =>
        if s.paLost (xlatePa e level (va % 2 ^ 53)) then s1.raceLost ctx
        else (s1.sidePut (xlatePa e level (va % 2 ^ 53)) 64 rec.toNat).sidePut (a + 16) 4 ((head + 1) % 2 ^ 32)
      | (.fault _, s1) => s1.raceLost ctx

/-- The place of a checked line's metadata in the shadow region (R386). DEDUCED (log 65): unsafe. -/
def State.metaPa (s : State) (pa : Nat) : Nat :=
  let d := s.mdie (paMdie pa)
  d.shbase.toNat + (pa / 64 * 64 - d.cklo.toNat) / 8

def State.metaAt (s : State) (pa : Nat) : W64 := BitVec.ofNat 64 (s.pocNat (s.metaPa pa) 8)

def metaSetUnk (m : W64) : W64 := m ||| BitVec.twoPow 64 54

/-- The key of a line's metadata among the stored errors. -/
def metaKey (pa : Nat) : Nat := 2 ^ 73 + pa / 64

/-- The metadata of a line set. Where the line of its shadow place cannot be read, its word is set and can be read again, and the seven other
words of that line stay lost (R342). DEDUCED (log 65): unsafe. -/
def State.putMeta (s : State) (pa : Nat) (m : W64) : State :=
  let line := s.metaPa pa / 64
  if !s.pocBad line then s.sidePut (s.metaPa pa) 8 m.toNat
  else
    let j := s.metaPa pa / 8 % 8
    let others := ((List.range 8).filter (· != j)).map fun i => (metaKey ((pa / 64 + i - j) * 64), true)
    let errs := (s.errs.filter fun e => e.1 / 64 * 64 != hbmKey (line * 64)) ++ others.filter fun e => !s.errs.contains e
    { s with errs := errs }.sidePut (s.metaPa pa) 8 m.toNat

/-- The metadata of a line cannot be read: its own copy, or the line of its shadow place (R337, R342). -/
def State.metaBad (s : State) (pa : Nat) : Bool :=
  errIn s.errs (metaKey pa) 1 1 true || s.pocBad (s.metaPa pa / 64) || s.paLost (s.metaPa pa)

/-! ## The sweep (R346) -/

/-- A leaf of a table that is race-checked and well formed: frame and size. -/
def State.rcLeaf (s : State) (at_ level : Nat) : List (Nat × Nat) :=
  let e : W64 := BitVec.ofNat 64 (s.pocNat at_ 8)
  if !e.getLsbD 0 || !e.getLsbD 1 || !e.getLsbD 48 then []
  else match s.leafCheck e level at_ with
    | .leaf _ _ _ => [(entryFrame e, 2 ^ pageBits level)]
    | .fault _ => []

/-- The race-checked leaves below a table at a level. -/
def State.rcLeaves (s : State) (t : Nat) : Nat → List (Nat × Nat)
  | 0 => (List.range 32).flatMap fun i => s.rcLeaf (t + 8 * i) 0
  | l + 1 => (List.range (if l == 2 then 2 ^ 17 else if l == 1 then 64 else 512)).flatMap fun i =>
      let e : W64 := BitVec.ofNat 64 (s.pocNat (t + 8 * i) 8)
      if e.getLsbD 0 && !e.getLsbD 1 then s.rcLeaves (fld e 8 32 * 256) l else s.rcLeaf (t + 8 * i) (l + 1)

/-- UNK is set in the metadata of every checked line of a context; BUSY is set until the sweep ends. A sweep that runs goes on. -/
def State.raceSweep (s : State) (ctx : Nat) : State :=
  let c := s.ctx ctx
  let at_ := s.raceCtl ctx
  if c.sweep || !c.valid then s
  else
    let s1 := s.sidePut at_ 8 (setFld (BitVec.ofNat 64 (s.pocNat at_ 8)) 1 1 1).toNat
    let s2 := (s1.rcLeaves (fld c.ptroot 20 20 * 2 ^ 20) 3).foldl (fun s p =>
      (List.range (p.2 / 64)).foldl (fun s i => s.putMeta (p.1 + 64 * i) (metaSetUnk (s.metaAt (p.1 + 64 * i)))) s) s1
    s2.setCtx ctx { c with sweep := true }

/-! ## The words as registers (R346) -/

/-- The context whose race control block lies in a line of physical memory. -/
def State.raceBlock (s : State) (line : Nat) : Option Nat :=
  let b := s.raceCtl 0 - 32
  let k := (line * 64 - b) / 128
  if b ≤ line * 64 && (line * 64 - b) % 128 == 0 && k < 64 && (s.ctx k).valid then some k else none

/-- A line just written, `old` being the state before: read-only and reserved bits of a race control block keep what they hold, and a
write of SWEEP = 1 starts a sweep unless one runs. DEDUCED (log 65): unsafe. -/
def State.raceWords (s old : State) (line : Nat) (mask : BitVec 64) : State :=
  match s.raceBlock line with
  | none => s
  | some k =>
    if fld mask 32 32 == 0 then s
    else
      let a := s.raceCtl k
      let x := s.pocNat a 8
      let busy := old.pocNat a 8 / 2 % 2
      let s1 := ((s.sidePut a 8 (x % 2 + 2 * busy)).sidePut (a + 8) 8 (s.pocNat (a + 8) 8 / 4096 * 4096 + s.pocNat (a + 8) 8 % 32)).sidePut
        (a + 16) 8 (old.pocNat (a + 16) 8)
      let s2 := s1.sidePut (a + 24) 8 (s.pocNat (a + 24) 4)
      if mask.getLsbD 32 && x.testBit 2 && busy == 0 then s2.raceSweep k else s2

/-- A load of bytes from a place has read LOST of a race control block, which the read clears. -/
def State.raceRead (s : State) (pa n : Nat) : State :=
  match s.raceBlock (pa / 64) with
  | none => s
  | some _ => if pa % 64 < 56 && 52 < pa % 64 + n then s.sidePut (pa / 64 * 64 + 52) 4 0 else s

end Sys2Proof.Machine
end

