-- ==== Sys2Proof/Machine/Access.lean ====
section
/-! DEFINITION. Accesses of a slot: requests, translation, the L1, the parts of an access, loads, stores, acquires and releases
(R134 to R148, R259, R260, R263 to R265, R319, R336, R475). -/
namespace Sys2Proof.Machine

/-! ## Requests -/

/-- A request added under a fresh number. -/
def State.addReq (s : State) (r : Req) : State :=
  { s with nextId := s.nextId + 1, reqs := s.reqs ++ [{ r with id := s.nextId }] }

def Stage.isRefused : Stage → Bool
  | .refused _ => true
  | _ => false

/-- A request has neither performed nor been refused. -/
def Req.open? (r : Req) : Bool := r.stage != .done && !r.stage.isRefused

def ReqOp.isProbe : ReqOp → Bool
  | .probe _ _ => true
  | _ => false

def State.reqAt (s : State) (id : Nat) : Option Req := s.reqs.find? (·.id == id)
def State.dropReq (s : State) (id : Nat) : State := { s with reqs := s.reqs.filter (·.id != id) }
def State.modReq (s : State) (id : Nat) (f : Req → Req) : State :=
  { s with reqs := s.reqs.map fun r => if r.id == id then f r else r }

/-- What every request of a slot carries: its issuer and the issuer's race-detection state. -/
def State.slotReq (s : State) (cid k : Nat) : Req :=
  let sl := s.slotAt cid k
  { cid := cid, slot := k, lid := s.lidOf cid, ctx := s.ctxOf cid, pc := sl.pc, did := sl.act.did, since := s.reft
    gen := sl.gen, hzn := sl.hzn, hznev := sl.hznev, logs := s.raceLogs (s.ctxOf cid) }

/-- LDPEND: the outstanding remote requests of a core, a multicast counted once (R139). -/
def State.ldpend (s : State) (cid : Nat) : Nat :=
  (s.reqs.filter fun r => r.org == 0x3FF && r.cid == cid && r.remote).length +
  (s.accs.filter fun a => a.cid == cid && !a.isLoad && !a.chk && !a.acq).length

/-! ## Posted page faults (R140, R380) -/

/-- The page-fault record of a slot's refused read. -/
def pageFaultPacket (s : State) (r : Req) (kind : BitVec 3) (write : Bool) (cause : BitVec 8) : BitVec 256 :=
  let tpkg := match placeOf r.ea with
    | .localMem (some p) _ _ _ _ => p
    | .virt (some p) _ => p
    | _ => s.pkg.toNat
  packFields 256 [(0, 64, r.ea.toNat), (64, 64, if isSvc r.cid then 0 else 2 ^ locX (coreNo (s.core r.cid).phys)), (184, 8, cause.toNat),
    (192, 4, 2 ^ r.slot), (196, 3, kind.toNat), (199, 1, b2n write), (200, 6, r.ctx), (208, 10, tpkg)]

/-- The KIND and the WRITE of a request's record. -/
def ReqOp.kind : ReqOp → BitVec 3 × Bool
  | .probe k n => (k, n.writes)
  | .fetch => (1, false)
  | .load => (0, false)
  | .fill => (0, false)
  | .store => (0, true)
  | .writeBack => (0, true)
  | .atomic _ _ _ _ => (0, true)
  | .mcast _ _ => (0, true)
  | .debugRead => (0, false)
  | .debugWrite => (0, true)
  | .windowRead => (0, false)
  | .windowWrite => (0, true)

/-- The record of a refused read goes toward the row collector; that of a service core to its own row's, with no core in its bitmap.
DEDUCED (log 24): unsafe. -/
def State.postPacket (s : State) (r : Req) (cause : BitVec 8) : State :=
  if 4 ≤ r.slot then s
  else
    let kind : BitVec 3 := if r.strm then 3 else if s.accs.any (fun a => a.gid == r.grp && a.pay) then 4 else r.op.kind.1
    { s with fpkts := s.fpkts ++ [(if isSvc r.cid then r.cid - svcBase else rowOf (coreNo (s.core r.cid).phys), pageFaultPacket s r kind r.op.kind.2 cause)] }

/-- A read refused where it issues: it is posted and its slot waits for PGREPLY. -/
def State.postProbe (s : State) (cid k : Nat) (kind : BitVec 3) (need : Need) (ea : W64) (cause : BitVec 8) : State :=
  let r : Req := { s.slotReq cid k with op := .probe kind need, ea := ea, n := 1, stage := .refused cause, remote := false }
  ((s.addReq r).postPacket r cause).modSlot cid k fun sl => { sl with run := .sleeping (.posted s.nextId) }

/-- A write of a stream that may be checked is still to be checked: the slot issues no later instruction until then (R336). -/
def strmHold (rs : List Req) (cid k : Nat) : Bool :=
  rs.any fun r => r.isOf cid k && r.strm && r.op.isStore && r.open? && !r.checked && r.ea.getLsbD 63 && (r.attr.rc || fld r.ea 53 10 != 0x3FF)

/-- A read of the slot stands refused: the slot issues nothing until PGREPLY (R140). -/
def postedBlock (rs : List Req) (cid k : Nat) : Bool :=
  rs.any fun r => r.isOf cid k && !r.op.isStore && !r.strm && (match r.stage with
    | .refused _ => true
    | _ => false)

/-! ## Translation of a slot's access -/

/-- What the TLBs, or a walk just made for the slot, answer. -/
inductive Xl where
  | ok (pa : Nat) (attr : Attr)
  | refuse (cause : BitVec 8)
  | miss
  deriving DecidableEq, Repr

/-- A walk made for a slot whose result is still to be used: of a migrating page (R378), or of a refused store. -/
def walkDone (rs : List Req) (cid k va : Nat) : Option Xl :=
  rs.findSome? fun r =>
    if !r.isOf cid k || r.ea.toNat % 2 ^ 53 / 2 ^ 16 != va / 2 ^ 16 then none
    else match r.op, r.stage with
      | .probe _ _, .done => some (.ok (r.pa / 2 ^ 16 * 2 ^ 16 + va % 2 ^ 16) r.attr)
      | .probe _ n, .refused c => if n.writes then some (.refuse c) else none
      | _, _ => none

/-- The translation of a virtual address of this package for a slot. A translation with D = 0 admits no write (R376); a TOUCH
never needs D. -/
def State.xlate (s : State) (cid k va : Nat) (need : Need) (dirty : Bool) : Xl :=
  match walkDone s.reqs cid k va with
  | some x => x
  | none =>
    match s.tlbFind cid (s.ctxOf cid) va with
    | none => .miss
    | some t =>
      if !permOk t.entry need then .refuse xPERM
      else if need.writes && dirty && !t.entry.getLsbD 52 then .miss
      else .ok (xlatePa t.entry t.level va) (attrOf t.entry)

/-- A translation used becomes the most recently used in the micro-TLB and the cluster's TLB. -/
def State.xlateUse (s : State) (cid va : Nat) : State :=
  match s.tlbFind cid (s.ctxOf cid) va with
  | none => s
  | some t => s.tlbInstall cid t

/-- A walk started for a slot, which sleeps until PAGE_WALK. -/
def State.startWalk (s : State) (cid k : Nat) (kind : BitVec 3) (need : Need) (ea : W64) : State :=
  (s.addReq { s.slotReq cid k with op := .probe kind need, ea := ea, n := 1, stage := .walk, remote := false }).modSlot cid k
    fun sl => { sl with run := .sleeping (.walk s.nextId) }

/-- The walks of a slot that its instruction has used. -/
def State.endWalks (s : State) (cid k : Nat) : State :=
  { s with reqs := s.reqs.filter fun r => !(r.isOf cid k && r.walked) }

/-! ## The checks of an address (R32, R134 to R136, R259, R260, R475) -/

/-- Capability, alignment (1 for none) and form of an access of `n` bytes; the addresses before and after rewriting. DEDUCED
(log 38): unsafe. -/
def accessCheck (own : BitVec 10) (cid : Nat) (sl : Slot) (r : RegNo) (off : W64) (n : Nat) (perm : BitVec 12) (align : Nat) :
    Except Trap (W64 × W64) :=
  let c := sl.readG r
  let (raw, ea) := eaOf own cid c.val off
  let last := ea + BitVec.ofNat 64 (n - 1)
  match capCheck c.val c.tag raw.toNat n (perm ||| extraPerm cid ea ||| extraPerm cid last) kindsMem with
  | some sub => .error (capTrap sub r raw)
  | none =>
    if raw.toNat % align != 0 then .error (capTrap 8 r raw)
    else if formBad ea || formBad last || (ea.getLsbD 63 != last.getLsbD 63) then .error (capTrap 9 r raw)
    else .ok (raw, ea)

/-- The own local memory offset that an address names, if it does. -/
def ownLocal (cid : Nat) (ea : W64) : Option Nat :=
  match placeOf ea with
  | .localMem none core self false off => if (if isSvc cid then self else core == coreNo cid) then some off else none
  | _ => none

/-- A byte of a range of local memory lies in the L1 range, which may be empty. -/
def Core.inL1 (c : Core) (off n : Nat) : Bool := c.lmb2.toNat < c.lmb3.toNat && c.lmb2.toNat < off + n && off < c.lmb3.toNat

/-- An access to the own L1 range, or a store outside the channel's bound region (R259, R260). DEDUCED (log 38): unsafe. -/
def localBad (c : Core) (sl : Slot) (off n : Nat) (store : Bool) : Bool :=
  c.inL1 off n ||
  (store && off < c.lmb1.toNat && (match sl.act.bound with
    | none => false
    | some (b, e) => !(b ≤ off && min (off + n) c.lmb1.toNat ≤ e)))

/-- The output set of a domain admits a write of `n` bytes. -/
def State.admits (s : State) (ctx : Nat) (did : BitVec 4) (ea : W64) (n : Nat) : Bool :=
  did == 0 || match s.domains.find? fun d => d.ctx == ctx && d.did == did with
    | none => true
    | some d => d.outs.any fun o =>
        let b := rewriteEa s.pkg 0 o.1
        b.toNat ≤ ea.toNat && ea.toNat + n ≤ b.toNat + o.2

/-- A write of a slot fails its confinement (R475). -/
def State.confined (s : State) (cid : Nat) (sl : Slot) (ea : W64) (n : Nat) : Bool :=
  ea.getLsbD 63 && !(s.admits (s.ctxOf cid) sl.act.did ea n && s.admits (s.ctxOf cid) sl.did ea n)

/-- The faults of a slot's own range and of confinement, after CapCheck. DESIGN CHOICE (log 60): unsafe. -/
def State.placeCheck (s : State) (cid : Nat) (sl : Slot) (r : RegNo) (raw ea : W64) (n : Nat) (store : Bool) : Option Trap :=
  match ownLocal cid ea with
  | some off => if localBad (s.core cid) sl off n store then some (capTrap 0x0B r raw) else none
  | none => if store && !inCtl (fld ea 0 53) && s.confined cid sl ea n then some (capTrap 0x0C r raw) else none

/-! ## Parts -/

/-- A part of an access that lies in one line. -/
structure Piece where
  ea   : W64
  off  : Nat
  len  : Nat
  pa   : Nat := 0
  attr : Attr := {}
  /-- A refusal known where the access issues, as a CAUSE of R380. -/
  bad  : Option (BitVec 8) := none
  /-- It is served at its home and never by the L1 (R336). -/
  home : Bool := false
  /-- It is a part of bytes that cross a line boundary, and so are not naturally aligned. -/
  cut  : Bool := false
  deriving DecidableEq, Repr

/-- An access cut at line boundaries (R144). -/
def splitLines (ea : W64) (off n : Nat) : List Piece :=
  let first := min n (64 - ea.toNat % 64)
  if n == 0 then []
  else if n ≤ first then [{ ea := ea, off := off, len := n }]
  else [{ ea := ea, off := off, len := first, cut := true }, { ea := ea + BitVec.ofNat 64 first, off := off + first, len := n - first, cut := true }]

/-- An aligned 64-byte part on a LOOSE page is four parts of 16 bytes (R325). -/
def Piece.quarters (p : Piece) : List Piece :=
  if p.len == 64 && p.attr.ord == 2 && p.bad.isNone then
    [0, 1, 2, 3].map fun j => { p with ea := p.ea + BitVec.ofNat 64 (16 * j), off := p.off + 16 * j, len := 16, pa := p.pa + 16 * j }
  else [p]

/-- The outcome of translating the parts of an access: all known, those known before one that is refused, or the state in which the
slot waits. -/
inductive Plan where
  | ready (ps : List Piece)
  | some_ (ps : List Piece)
  | wait (s : State)

/-- The page kind of another package's line, for access `n`: that of the copy held here, else the one that its home is to give. DESIGN CHOICE
(log 76): safe. -/
def State.farAttr (s : State) (ctx n h va : Nat) : Attr :=
  let page := h * 2 ^ 37 + va / 2 ^ 16
  match s.llcForeign h ctx (va / 64) with
  | some l => { ord := if l.ord == 3 then 1 else l.ord, cg := true }
  | none => { ord := if Config.farOrd n page == 3 then 1 else Config.farOrd n page, cg := Config.farCg n page }

/-- A part with what is known of its target: window accesses are ordered as STRONG. The kind of another package's page is foretold: the answer
agrees with it. DESIGN CHOICE (log 76): safe. -/
def State.planPiece (s : State) (cid k : Nat) (kind : BitVec 3) (need : Need) (dirty : Bool) (p : Piece) : Except State Piece :=
  match placeOf p.ea with
  | .localMem _ _ _ dbg _ => .ok (if dbg && p.cut then { p with bad := some xWINDOW } else p)
  | .virt (some h) va => .ok (if inCtl va then { p with bad := some xWINDOW } else { p with attr := s.farAttr (s.ctxOf cid) s.nextId h va })
  | .virt none va =>
    if inCtl va then .ok (if inWindow va p.len then { p with attr := { ord := 0 } } else { p with bad := some xWINDOW })
    else match s.xlate cid k va need dirty with
      | .ok pa attr => .ok { p with pa := pa, attr := attr }
      | .refuse c => .ok { p with bad := some c }
      | .miss => .error (s.startWalk cid k kind need p.ea)

/-- Every part planned in turn; a refused read is posted. The elements of a gather, of `w` bytes each, that come before a refused
one are done first (R151). -/
def State.planParts (s : State) (cid k : Nat) (kind : BitVec 3) (need : Need) (dirty : Bool) (w : Nat) : List Piece → List Piece → Plan
  | done, [] => .ready done
  | done, p :: ps =>
    match s.planPiece cid k kind need dirty p with
    | .error s' => .wait s'
    | .ok q =>
      match q.bad with
      | some c =>
        let before := done.filter fun x => x.off / w != q.off / w
        if need.writes then s.planParts cid k kind need dirty w (done ++ [q]) ps
        else if w != 0 && !before.isEmpty then .some_ before
        else .wait (s.postProbe cid k kind need q.ea c)
      | none => s.planParts cid k kind need dirty w (done ++ [q]) ps

/-- An acquiring load or atomic of the slot that has retired has not returned: no later access of the slot performs (R147). -/
def acqOut (as : List Access) (cid k : Nat) : Bool := as.any fun a => a.cid == cid && a.slot == k && a.acq && !a.chk

/-- The parts of an access of a slot, once the slot's earlier acquires have returned. -/
def State.plan (s : State) (cid k : Nat) (kind : BitVec 3) (need : Need) (dirty : Bool) (w : Nat) (ps : List Piece) : Plan :=
  if acqOut s.accs cid k then .wait (s.stall cid k .stall) else s.planParts cid k kind need dirty w [] ps

/-- The translations of the parts used. -/
def State.usePieces (s : State) (cid : Nat) (ps : List Piece) : State :=
  ps.foldl (fun s p => match placeOf p.ea with
    | .virt none va => if inCtl va then s else s.xlateUse cid va
    | _ => s) s

/-! ## Scopes and order of an access (R81, R87, R137) -/

/-- The widest scope of a part. -/
def Piece.widest (p : Piece) : Nat :=
  match placeOf p.ea with
  | .localMem none _ _ _ _ => scPACKAGE
  | .localMem (some _) _ _ _ _ => scFABRIC
  | .virt (some _) _ => scFABRIC
  | .virt none va => if !inCtl va && p.attr.cg then scFABRIC else scPACKAGE

def Piece.loose (p : Piece) : Bool := p.attr.ord == 2

/-- The ordering of an access: acquire, release, and its written scope. -/
structure Order where
  acq   : Bool := false
  rel   : Bool := false
  scope : Option Nat := none
  deriving DecidableEq, Repr

/-- The scope of a part: the written scope narrowed, or the page's default. -/
def Order.scopeAt (o : Order) (p : Piece) : Nat :=
  match o.scope with
  | none => p.widest
  | some x => min x p.widest

/-- The scope of the whole access: the widest of its parts'. -/
def Order.scopeOf (o : Order) (ps : List Piece) : Nat := ps.foldl (fun m p => max m (o.scopeAt p)) 0

/-- The order that a part carries: none on a LOOSE page (R87). -/
def Order.at_ (o : Order) (p : Piece) : Order := if p.loose then { o with acq := false, rel := false } else o

/-- The warnings decided at access (R87). -/
def Order.warn (o : Order) (ps : List Piece) : BitVec 10 :=
  (if (o.acq || o.rel) && ps.any Piece.loose then wORDFIX else 0) |||
  (match o.scope with
    | none => 0
    | some x => if ps.any fun p => p.widest < x then wSCOPE else 0)

/-- The order that holds: a LOOSE page carries none. -/
def Order.eff (o : Order) (ps : List Piece) : Order :=
  if ps.all Piece.loose && !ps.isEmpty then { o with acq := false, rel := false } else o

/-- Warnings of the encoding of a memory instruction (R87, R133). -/
def warnMem (i : Ins) : BitVec 10 := if i.sub.getLsbD 7 then wMODIGN else 0

/-- The order of a load: any ORD is an acquire. A written scope that is ignored is not narrowed, and sets MODIGN alone. DESIGN CHOICE (log
69): unsafe. -/
def loadOrder (i : Ins) : Order × BitVec 10 :=
  let o := mOrd i.mod
  ({ acq := o != 0, scope := if mSce i.mod && o != 0 then some (mScope i.mod) else none },
   warnMem i ||| (if o == 2 || o == 3 then wORDFIX else 0) ||| (if mSce i.mod && o == 0 then wMODIGN else 0))

/-- The order of a store: any ORD is a release. -/
def storeOrder (i : Ins) : Order × BitVec 10 :=
  let o := mOrd i.mod
  ({ rel := o != 0, scope := if mSce i.mod then some (mScope i.mod) else none },
   warnMem i ||| (if o == 1 || o == 3 then wORDFIX else 0))

/-- The order of an atomic. -/
def atomicOrder (i : Ins) : Order × BitVec 10 :=
  let o := mOrd i.mod
  ({ acq := o.testBit 0, rel := o.testBit 1, scope := if mSce i.mod then some (mScope i.mod) else none }, warnMem i)

/-! ## The L1 (R143, R263 to R265) -/

def lineOf (ea : W64) : Nat := ea.toNat / 64

/-- The core whose partition holds a line. -/
def State.l1Core (s : State) (cid line : Nat) : Nat :=
  if (s.core cid).fused then
    let b := coreNo cid
    s.memberCid (s.lidOf cid) (b / 4096 * 4096 + (locY b / 2 * 2 + line % 8 / 4) * 64 + locX b / 4 * 4 + line % 4)
  else cid

def l1Sets (c : Core) : Nat := if c.noL1 then 0 else (c.lmb3.toNat - c.lmb2.toNat) / 256
def l1Set (c : Core) (line : Nat) : Nat := (if c.fused then line / 8 else line) % l1Sets c
def l1Is (ctx line : Nat) (l : L1Line) : Bool := l.ctx == ctx && l.line == line

def State.l1Get (s : State) (cid line : Nat) : Option L1Line :=
  (s.core (s.l1Core cid line)).l1.find? (l1Is (s.ctxOf cid) line)

/-- The cores whose partitions make up a core's L1: itself, or its cluster's under a fused L1. -/
def State.l1Cores (s : State) (cid : Nat) : List Nat :=
  if (s.core cid).fused then (List.range 8).map (s.l1Core cid) else [cid]

/-- Fills of a line that are under way are not to be installed, nor the bytes of stores to it kept. -/
def State.noInstall (s : State) (hc line : Nat) : State :=
  { s with reqs := s.reqs.map fun r =>
      if r.org == 0x3FF && (r.op == .fill || r.op == .store) && lineOf r.ea == line && s.l1Core r.cid line == hc then { r with keep := false }
      else r }

/-- A store whose bytes the L1 keeps once it has performed: to a checked line or to another package (R336). -/
def Req.kept (r : Req) : Bool := r.op == .store && !r.mc && r.ea.getLsbD 63 && (r.attr.rc || fld r.ea 53 10 != 0x3FF)

/-- Such a store of the L1's cores to a line, with a number below `n`, is outstanding. -/
def State.keptOut (s : State) (hc line n : Nat) : Bool :=
  s.reqs.any fun r => r.id < n && r.org == 0x3FF && r.kept && lineOf r.ea == line && s.l1Core r.cid line == hc

/-- A line dropped from its partition. -/
def State.l1Forget (s : State) (hc ctx line : Nat) : State :=
  s.modCore hc fun c => { c with l1 := c.l1.filter fun l => !l1Is ctx line l }

/-- A write-back of a line's dirty bytes, as a store of a slot (R143, R264). One that finds LDPEND at its bound waits uncounted (R139).
DEDUCED (log 13): unsafe. -/
def State.writeBack (s : State) (cid k : Nat) (l : L1Line) : State :=
  if l.dirty == 0 then s
  else ((s.noInstall (s.l1Core cid l.line) l.line).addReq
    { s.slotReq cid k with
      op := .writeBack, ctx := l.ctx, ea := BitVec.ofNat 64 (l.line * 64), n := 64, data := l.data, mask := l.dirty
      tags := l.tags, attr := l.attr, stage := .walk, by_ := l.by_, retired := 1, remote := s.ldpend cid < 64 })

/-- A line put into its partition as the most recently used; a full set's last line leaves. -/
def State.l1Put (s : State) (cid : Nat) (l : L1Line) : State :=
  let hc := s.l1Core cid l.line
  let c := s.core hc
  let others := c.l1.filter fun x => !l1Is l.ctx l.line x
  let inSet := others.filter fun x => l1Set c x.line == l1Set c l.line
  match (if inSet.length < 4 then none else inSet.getLast?) with
  | none => s.setCore hc { c with l1 := l :: others }
  | some v => (s.setCore hc { c with l1 := l :: others.filter (· != v) }).writeBack v.cid v.slot v

def State.l1Drop (s : State) (cid line : Nat) : State :=
  s.modCore (s.l1Core cid line) fun c => { c with l1 := c.l1.filter fun l => !l1Is (s.ctxOf cid) line l }

/-- The lines of a core's L1 that satisfy a test are written back, as stores of a slot or of the slots that dirtied them, and
then kept clean or dropped. -/
def State.l1Sweep (s : State) (cid : Nat) (own : Option Nat) (test : L1Line → Bool) (drop : Bool) : State :=
  (s.l1Cores cid).foldl (fun s hc =>
    let ls := (s.core hc).l1
    let s1 := (ls.filter test).foldl (fun s l => match own with
      | some k => s.writeBack cid k l
      | none => s.writeBack l.cid l.slot l) s
    let kept := ls.filterMap fun l => if test l then (if drop then none else some { l with dirty := 0, by_ := [] }) else some l
    s1.modCore hc fun c => { c with l1 := kept }) s

/-- Fills that an acquire passes are not installed, and stores that it passes leave nothing in the L1 (R329). -/
def State.acqFills (s : State) (cid : Nat) (full : Bool) : State :=
  { s with reqs := s.reqs.map fun r =>
      if r.org == 0x3FF && (r.op == .fill || r.op == .store) && (s.l1Cores cid).contains (s.l1Core r.cid (lineOf r.ea)) && (full || r.attr.ord != 2)
      then { r with keep := false } else r }

/-- What an acquire at a scope does to the L1 (R319); FENCE.full drops LOOSE lines too. -/
def State.acqL1 (s : State) (cid scope : Nat) (full : Bool) : State :=
  if scope ≤ scCORE || ((s.core cid).fused && scope == scCLUSTER) then s
  else (s.acqFills cid full).l1Sweep cid none (fun l => full || !l.loose) true

/-! ## Waits (R148, R155, R156) -/

/-- A line that a release of a slot writes back: any dirty one; in a fused L1 those recorded for the releasing core, and those that
hold bytes of the slot (R148, R319). -/
def relLine (fused : Bool) (cid k : Nat) (l : L1Line) : Bool := l.dirty != 0 && (!fused || l.cid == cid || l.by_.contains (cid, k))

def State.anyDirty (s : State) (cid : Nat) (test : L1Line → Bool) : Bool :=
  (s.l1Cores cid).any fun hc => (s.core hc).l1.any test

/-- A store of the slot is outstanding, or a write-back that carries bytes of it; without `loose` those to LOOSE pages do not count
(R148, R319). -/
def storesOut (rs : List Req) (cid k : Nat) (loose : Bool) : Bool :=
  rs.any fun r => (r.isOf cid k || r.by_.contains (cid, k)) && r.op.isStore && (loose || r.attr.ord != 2)

/-- A load of the slot is outstanding, a stream's fetch among them (R197). -/
def loadsOut (as : List Access) (cid k : Nat) : Bool :=
  as.any fun a => a.cid == cid && a.slot == k && a.isLoad && a.left != 0 && !a.pay

/-- A multicast of the slot is outstanding. -/
def mcastOut (as : List Access) (cid k : Nat) : Bool := as.any fun a => a.cid == cid && a.slot == k && !a.isLoad && !a.chk && !a.acq

/-- Long-accumulator operations of the slot in progress, or pushed entries not yet written (R192, R198). -/
def Core.slotBusy (c : Core) (k : Nat) : Bool :=
  c.lacc.any (fun x => x.slot == k) ||
  [0, 1, 2, 3].any (fun i => let x := vget (c.slot k).st i {}; x.state == 2 && !x.queue.isEmpty)

/-- Entries fetched and not popped are fetched again after an acquire (R198). -/
def Slot.refetch (sl : Slot) : Slot :=
  { sl with st := sl.st.map fun x => if x.state == 1 then { x with queue := [], next := x.moved } else x }

/-- An acquire of a slot at a scope (R147). -/
def State.acquire (s : State) (cid k scope : Nat) (full : Bool) : State := (s.acqL1 cid scope full).modSlot cid k Slot.refetch

/-- A release may perform: none where it may, else the state in which its slot waits, dirty lines written back as stores of the slots
that they record (R148, R264). -/
def State.relWait (s : State) (cid k : Nat) (full : Bool) : Option State :=
  let t := relLine (s.core cid).fused cid k
  if s.anyDirty cid t then some ((s.l1Sweep cid none t false).stall cid k .stall)
  else if storesOut s.reqs cid k full || mcastOut s.accs cid k || loadsOut s.accs cid k || (s.core cid).slotBusy k then
    some (s.stall cid k .stall)
  else none

/-! ## Gathering a load's bytes -/

/-- The value that a load gives a g register (R149). -/
def loadValue (ty : BitVec 5) (n : Nat) (x : Nat) : W128 :=
  if ty.toNat == 9 then BitVec.ofNat 128 x
  else if ty.toNat ≤ 4 then BitVec.ofNat 128 (truncI 64 (sextN (8 * n) x))
  else BitVec.ofNat 128 x

/-- The low `n` bytes of a line's data. -/
def lowBytes (d : W512) (n : Nat) : W512 := BitVec.ofNat 512 (d.toNat % 2 ^ (8 * n))

/-- Elements of a stream entry filled from a block or an element just read (R197), with the marks of expired bytes. -/
def streamFill (x : Stream) (a : Access) (e : StreamEnt) (j sub cnt : Nat) : StreamEnt :=
  let t := x.ifmt.toNat
  let w := tyBytes x.fmt
  let val (q : Nat) : Nat :=
    if isBlock t then chainBlock x.desc t x.luts (bytesOf a.raw (blockBytes t)) (sub + q)
    else chainElem x.desc t (sdChain x.desc) x.luts (a.raw.toNat % 2 ^ (8 * tyBytes t))
  let marks := if a.exp == 0 then e.expired else e.expired ||| byteMask (j * w) (cnt * w)
  { e with data := (List.range cnt).foldl (fun d q => vSetElem d w (j + q) (val q)) e.data, expired := marks, left := e.left - 1 }

/-- A slot with an access's data in its destination. -/
def Slot.deliver (sl : Slot) (a : Access) : Slot :=
  match a.dest with
  | .nowhere => sl
  | .g r => sl.writeG r { val := loadValue a.ty a.n (a.raw.toNat % 2 ^ (8 * a.n)), tag := a.keepTag && a.tag
                          expired := a.exp &&& a.want != 0 }
  | .v r => sl.copyV r a.want a.raw a.exp
  | .stream st ent j sub cnt =>
    let x := vget sl.st st {}
    let q := x.queue.map fun e => if e.gid == ent then streamFill x a e j sub cnt else e
    { sl with st := vset sl.st st { x with queue := q } }

/-- A part of an access has performed: its bytes are gathered, and the last one delivers. An acquiring access that has retired then
acts (R147). -/
def State.partDone (s : State) (gid off len : Nat) (d : W512) (marks : BitVec 64) (tag : Bool) : State :=
  match s.accs.find? (·.gid == gid) with
  | none => s
  | some a =>
    let a1 := { a with
      raw := a.raw ||| (lowBytes d len <<< (8 * off))
      exp := a.exp ||| ((marks &&& byteMask 0 len) <<< off)
      tag := tag
      left := a.left - 1 }
    if a1.left == 0 then
      let s1 := s.modSlot a.cid a.slot fun sl => if a.isLoad then sl.deliver a1 else sl
      let s1 := if a1.trap.isSome || 4 ≤ a.slot then s1 else s1.modSlot a.cid a.slot fun sl => sl.takeNotes a1.notes
      let s2 := { s1 with accs := if a1.chk || a1.pay then replaceFirst (·.gid == gid) (fun _ => a1) s.accs else removeFirst (·.gid == gid) s.accs }
      if a.acq && !a.chk && a.slot < 4 then s2.acquire a.cid a.slot a.scope.toNat false else s2
    else { s with accs := replaceFirst (·.gid == gid) (fun _ => a1) s.accs }

/-! ## Loads -/

/-- What a load is to do. -/
structure LoadDesc where
  dest : Dest
  ty   : BitVec 5 := 0
  n    : Nat
  want : BitVec 64
  keepTag : Bool := false
  kind : BitVec 3 := 0
  /-- The element width of a gather, else 0 (R151). -/
  elemW : Nat := 0
  deriving DecidableEq, Repr

/-- The acquire reads at the point of coherence (R318). -/
def wideAcq (fused : Bool) (acq : Bool) (scope : Nat) : Bool := acq && (if fused then scDIE ≤ scope else scCLUSTER ≤ scope)

/-- A load of the core to the line is outstanding, so that the L1 may not answer before it (R138, R316). -/
def loadAhead (rs : List Req) (cid line : Nat) : Bool :=
  rs.any fun r => r.org == 0x3FF && r.cid == cid && !r.op.isStore && lineOf r.ea == line && (match r.op with
    | .load => true
    | .fill => true
    | _ => false)

/-- The line that answers a part from the L1; none while a store whose bytes the L1 is to keep is under way to it (R138). -/
def State.l1Hit (s : State) (cid : Nat) (bypass : Bool) (p : Piece) : Option L1Line :=
  if p.home || !p.ea.getLsbD 63 || inCtl (fld p.ea 0 53) || p.attr.ord == 0 || (bypass && !p.loose) || loadAhead s.reqs cid (lineOf p.ea) ||
      s.keptOut (s.l1Core cid (lineOf p.ea)) (lineOf p.ea) s.nextId then none
  else match s.l1Get cid (lineOf p.ea) with
    | none => none
    | some l =>
      let m := byteMask (p.ea.toNat % 64) p.len
      if l.valid &&& m == m then some l else none

/-- A part's request. -/
def State.pieceReq (s : State) (cid k : Nat) (p : Piece) (op : ReqOp) (gid scope : Nat) : Req :=
  { s.slotReq cid k with
    op := op, ea := p.ea, n := p.len, off := p.off, grp := gid, scope := BitVec.ofNat 3 scope, pa := p.pa, attr := p.attr
    stage := match placeOf p.ea with
      | .localMem none _ _ _ _ => .core
      | .virt none _ => .home
      | _ => .fabric }

/-- An earlier request of the core to bytes of its own local memory is still to perform, so that an access to them goes behind it
(R138, R316). -/
def State.ownAhead (s : State) (cid off len : Nat) : Bool :=
  s.reqs.any fun r => r.org == 0x3FF && r.cid == cid && r.open? && !r.op.isProbe && (match ownLocal cid (match r.op with
      | .mcast d _ => if d.getLsbD s.pkg.toNat then setFld r.ea 53 10 0x3FF else r.ea
      | _ => r.ea) with
    | some o => o < off + len && off < o + r.n
    | none => false)

/-- A part of a load leaves the core as a request. -/
def State.loadAsks (s : State) (cid : Nat) (bypass : Bool) (p : Piece) : Bool :=
  (ownLocal cid p.ea).isNone && (s.l1Hit cid bypass p).isNone

/-- One part of a load performed, or its request sent. DESIGN CHOICE (log 8): unsafe. -/
def State.loadPiece (s : State) (cid k gid : Nat) (o0 : Order) (bypass0 : Bool) (p : Piece) : State :=
  let o := o0.at_ p
  let bypass := p.home || (bypass0 && !p.loose)
  let req (op : ReqOp) : Req := { s.pieceReq cid k p op gid (o.scopeAt p) with acq := o.acq }
  match ownLocal cid p.ea with
  | some off =>
    if s.ownAhead cid off p.len then s.addReq { req .load with remote := false }
    else s.partDone gid p.off p.len (ofBytes 512 (s.lmRead cid off p.len)) (s.lmMarks cid off p.len) (s.tagAt (lmKey cid off))
  | none =>
    match placeOf p.ea with
    | .localMem _ _ _ dbg _ => s.addReq (req (if dbg then .debugRead else .load))
    | .virt _ va =>
      if inCtl va then s.addReq (req .windowRead)
      else if p.attr.ord == 0 then s.addReq (req .load)
      else
        match s.l1Hit cid bypass p with
        | some l =>
          (s.l1Put cid l).partDone gid p.off p.len (l.data >>> (8 * (p.ea.toNat % 64))) 0 (l.tags.getLsbD (p.ea.toNat % 64 / 16))
        | none =>
          let line := lineOf p.ea
          let s1 := if bypass then
              match s.l1Get cid line with
              | some l => (s.writeBack l.cid l.slot l).l1Put cid { l with dirty := 0 }
              | none => s
            else s
          if bypass || l1Sets (s.core (s.l1Core cid line)) == 0 then s1.addReq (req .load)
          else match s.l1Get cid line with
            | some l => s1.addReq { req .fill with mine := l.data, mineMask := l.dirty, mineTags := l.tags }
            | none => s1.addReq (req .fill)

/-- A STRONG access of the slot is outstanding (R142). -/
def strongOut (rs : List Req) (cid k : Nat) : Bool :=
  rs.any fun r => r.isOf cid k && r.attr.ord == 0 && (match r.op with
    | .probe _ _ => false
    | _ => true)

/-- An uncorrectable error in what own parts of an access read (R250). -/
def State.ownErr (s : State) (cid : Nat) (ps : List Piece) : Bool :=
  ps.any fun p => match ownLocal cid p.ea with
    | some off => errIn s.errs (lmKey cid off) p.len 8 true
    | none => false

/-- The corrected errors of own parts of an access counted (R250). -/
def State.countOwn (s : State) (cid : Nat) (ps : List Piece) : State :=
  ps.foldl (fun s p => match ownLocal cid p.ea with
    | some off => s.countCorr cid off p.len
    | none => s) s

/-- The fault of an uncorrected error in own parts of an access: the address of its first such word. -/
def State.ownErrTrap (s : State) (cid : Nat) (ps : List Piece) : Trap :=
  let at_ : Option W64 := ps.findSome? fun p => match ownLocal cid p.ea with
    | some off => if errIn s.errs (lmKey cid off) p.len 8 true then some (errEa s.errs (lmKey cid off) p.len 8 p.ea) else none
    | none => none
  { cause := cUNCORR, addr := at_.getD 0 }

/-! ## Checks that the L1 makes (R336) -/

/-- What the L1's checks of an access found: what the slot is to take, and the state with the records logged; or the first race, with the
parts that come before it. -/
inductive L1Found where
  | pass (notes : List Note) (s : State)
  | race (t : Trap) (before : List Piece)

/-- The checks of the parts that the L1 answers (R336), in increasing order of address (R334). A race of another package's line is marked
at its home too (R345). DEDUCED (log 65): unsafe. -/
def State.l1Checks (s : State) (cid k : Nat) (o : Order) (bypass : Bool) : List Note → List Piece → List Piece → L1Found
  | ns, _, [] => .pass ns s
  | ns, done, p :: ps =>
    match s.l1Hit cid bypass p with
    | none => s.l1Checks cid k o bypass ns (done ++ [p]) ps
    | some l =>
      if !l.rc then s.l1Checks cid k o bypass ns (done ++ [p]) ps
      else
        let sl := s.slotAt cid k
        let r := ordered sl.gen sl.hzn (identOf cid k) l.meta_
        let n : Note := { used := r.2.map fun _ => metaWriter l.meta_
                          learnt := if (o.at_ p).acq then some (l.meta_, BitVec.ofNat 3 (o.scopeAt p)) else none }
        if r.1 then s.l1Checks cid k o bypass (ns ++ [n]) (done ++ [p]) ps
        else
          let rcd := raceRecord sl.gen sl.hzn sl.hznev (identOf cid k) s.pkg (s.lidOf cid) 0 s.reft sl.pc p.ea l.meta_
          if s.raceLogs (s.ctxOf cid) then
            let s1 := ((s.raceAppend (s.ctxOf cid) rcd).l1Put cid { l with meta_ := metaSetUnk l.meta_ })
            let s2 := if fld p.ea 53 10 == 0x3FF then s1.putMeta p.pa (metaSetUnk (s1.metaAt p.pa))
              else { s1 with out := s1.out ++ [.request { s1.slotReq cid k with op := .probe 7 .read, ea := p.ea, n := 1, stage := .fabric }] }
            s2.l1Checks cid k o bypass (ns ++ [n]) (done ++ [p]) ps
          else .race { cause := cRACE, addr := p.ea, race := some rcd } done

/-- An access by a slot that its own instruction waits for: a check, or an acquire (R147, R336). -/
def Piece.checked (p : Piece) : Bool :=
  match placeOf p.ea with
  | .virt (some _) _ => true
  | .virt none va => !inCtl va && p.attr.rc
  | .localMem _ _ _ _ _ => false

/-- The bytes of an access that parts make up. -/
def pieceBytes (ps : List Piece) : BitVec 64 := ps.foldl (fun m p => m ||| byteMask p.off p.len) 0

/-- Parts in increasing order of address (R334). -/
def sortPieces (ps : List Piece) : List Piece :=
  let ins (p : Piece) (l : List Piece) : List Piece := l.takeWhile (fun q => q.ea < p.ea) ++ p :: l.dropWhile (fun q => q.ea < p.ea)
  ps.foldr ins []

/-- The elements of a gather that parts make up. -/
def pieceElems (w : Nat) (ps : List Piece) : Nat := (ps.map fun p => p.off / w).eraseDups.length

/-- The stores of a slot that it issued and whose completion or report has not reached it (R349). -/
def storeDue (rs : List Req) (cid k : Nat) : Bool := rs.any fun r => r.isOf cid k && r.op.isStore

/-- The dirty lines that parts of a load which pass the L1 write back first (R318). -/
def State.loadBacks (s : State) (cid : Nat) (bypass : Bool) (ps : List Piece) : Nat :=
  (ps.filter fun p => bypass && !p.loose && p.ea.getLsbD 63 && !inCtl (fld p.ea 0 53) && (s.l1Get cid (lineOf p.ea)).any (·.dirty != 0)).length

/-- A load over parts that are translated: `i` is the instruction, `sl` the slot as its own effect begins. A race that the L1 finds waits for the
slot's earlier stores (R349), and for the checks of the lines before it (R334). With `part` they are the elements of a gather before one that
is refused, and the instruction goes on after them. -/
def State.loadParts (s : State) (cid k : Nat) (i : Ins) (sl : Slot) (ld : LoadDesc) (o : Order) (ps0 : List Piece) (part : Bool) : State :=
  let ps := ps0.flatMap Piece.quarters
  let o1 := o.eff ps
  let scope := o1.scopeOf ps
  let bypass := wideAcq (s.core cid).fused o1.acq scope
  let asks := (ps.filter (s.loadAsks cid bypass)).length
  let held (s : State) (w : BitVec 10) (acc : Access) (qs : List Piece) : State :=
    let s3 := (s.usePieces cid qs).modSlot cid k fun x =>
      { x with run := .sleeping (.check i.len acc.gid (sl.mbp ^^^ x.mbp) (sl.warn ||| w) false) }
    qs.foldl (fun s p => s.loadPiece cid k acc.gid o1 bypass p) ({ s3 with nextId := acc.gid + 1, accs := s3.accs ++ [acc] }.endWalks cid k)
  if (ps.any fun p => p.attr.ord == 0) && strongOut s.reqs cid k then s.stall cid k .stall
  else if asks != 0 && 64 < s.ldpend cid + asks + s.loadBacks cid bypass ps then s.stall cid k .stall
  else if s.ownErr cid ps then s.freeze cid k (s.ownErrTrap cid ps)
  else match s.l1Checks cid k o1 bypass [] [] (if ld.elemW == 0 then ps else sortPieces ps) with
    | .race t before =>
      let qs := before.filter fun p => p.checked && (s.l1Hit cid bypass p).isNone
      if !qs.isEmpty then
        held s 0 { gid := s.nextId, cid := cid, slot := k, n := ld.n, want := 0, left := qs.length, parts := qs.length, chk := true, trap := some t } qs
      else if storeDue s.reqs cid k then s.stall cid k .stall
      else s.preciseFault cid k t
    | .pass ns s1 =>
      let w := o.warn ps
      let hold := part || ps.any fun p => p.checked && (s1.l1Hit cid bypass p).isNone
      let gid := s1.nextId
      let acq := o1.acq || sl.vgAcq.isSome
      let wide := max (if o1.acq then scope else 0) (sl.vgAcq.getD 0)
      let acc : Access := { gid := gid, cid := cid, slot := k, dest := ld.dest, ty := ld.ty, n := ld.n
                            want := if part then ld.want &&& pieceBytes ps else ld.want
                            keepTag := ld.keepTag, left := ps.length, parts := ps.length, chk := hold
                            acq := if part then o1.acq else acq, scope := BitVec.ofNat 3 (if part then scope else wide)
                            part := if part then sl.vgDone + pieceElems ld.elemW ps else 0, notes := if hold then ns else [] }
      let s2 := s1.countOwn cid ps
      let sl1 := ((sl.addWarn (w ||| sl.vgWarn)).takeNotes ns).endGather
      let pend (x : Slot) : Slot := match ld.dest with
        | .g r => x.pendG r
        | .v r => x.pendV r
        | _ => x
      if hold then held s2 w acc ps
      else if ps.isEmpty then
        let s3 := s2.setSlot cid k sl1
        let s4 := if acq then s3.acquire cid k wide false else s3
        s4.retire cid k (s4.slotAt cid k) i.len none
      else
        let s3 := (s2.usePieces cid ps).setSlot cid k (pend sl1)
        let s4 := ps.foldl (fun s p => s.loadPiece cid k gid o1 bypass p)
          ({ s3 with nextId := gid + 1, accs := s3.accs ++ [acc] }.endWalks cid k)
        s4.retire cid k (s4.slotAt cid k) i.len none

/-- A load performed by a slot. -/
def State.doLoad (s : State) (cid k : Nat) (i : Ins) (sl : Slot) (ld : LoadDesc) (o : Order) (ps0 : List Piece) : State :=
  match s.plan cid k ld.kind .read false ld.elemW ps0 with
  | .wait s' => s'
  | .some_ ps => s.loadParts cid k i sl ld o ps true
  | .ready ps => s.loadParts cid k i sl ld o ps false

/-! ## Stores -/

/-- What a store writes: data by offset, a granule tag, and the release's stamp. -/
structure StoreDesc where
  data : W512
  tag  : Option Bool := none
  deriving DecidableEq, Repr

/-- The tags of a line's granules after a store of a part. -/
def pieceTags (p : Piece) (tag : Option Bool) : BitVec 4 :=
  if tag == some true then BitVec.twoPow 4 (p.ea.toNat % 64 / 16) else 0

/-- A store must go to the point of coherence at once rather than stay dirty in the L1 (R148, R336). -/
def Piece.through (p : Piece) (o : Order) (fused : Bool) (sets : Nat) : Bool :=
  p.attr.ord == 0 || p.attr.rc || sets == 0 || (fld p.ea 53 10 != 0x3FF) ||
  (o.rel && !p.loose && (if fused then scDIE ≤ o.scopeAt p else scCLUSTER ≤ o.scopeAt p))

/-- A part of a store leaves the core as a request. -/
def State.storeAsks (s : State) (cid : Nat) (o : Order) (p : Piece) : Bool :=
  (ownLocal cid p.ea).isNone && (p.bad.isSome || !p.ea.getLsbD 63 || inCtl (fld p.ea 0 53) ||
    p.through (o.at_ p) (s.core cid).fused (l1Sets (s.core (s.l1Core cid (lineOf p.ea)))))

/-- The bytes of a part in place within its line, and their mask. -/
def Piece.inLine (p : Piece) (d : W512) : W512 × BitVec 64 :=
  (lowBytes (d >>> (8 * p.off)) p.len <<< (8 * (p.ea.toNat % 64)), byteMask (p.ea.toNat % 64) p.len)

/-- One part of a store performed, or its request sent. A line that keeps the bytes of a store once it has performed keeps them of one
at a time. DESIGN CHOICE (log 8): unsafe. -/
def State.storePiece (s : State) (cid k gid : Nat) (o0 : Order) (stamp : BitVec 32) (sd : StoreDesc) (p : Piece) : State :=
  let o := o0.at_ p
  let x := p.inLine sd.data
  let req (op : ReqOp) : Req := { s.pieceReq cid k p op gid (o.scopeAt p) with
    data := x.1, mask := x.2, tags := pieceTags p sd.tag, rel := o.rel, stamp := stamp }
  match ownLocal cid p.ea with
  | some off =>
    if s.ownAhead cid off p.len then s.addReq { req .store with remote := false }
    else
      let s1 := s.lmWrite cid off (bytesOf (sd.data >>> (8 * p.off)) p.len)
      (if sd.tag == some true then s1.putTag (lmKey cid off) true else s1).partDone gid p.off p.len 0 0 false
  | none =>
    match p.bad with
    | some c => s.addReq { req .store with stage := .refused (storeCause c) }
    | none =>
      match placeOf p.ea with
      | .localMem _ _ _ dbg _ => s.addReq (req (if dbg then .debugWrite else .store))
      | .virt _ va =>
        if inCtl va then s.addReq (req .windowWrite)
        else
          let line := lineOf p.ea
          let hc := s.l1Core cid line
          let old := s.l1Get cid line
          if p.through o (s.core cid).fused (l1Sets (s.core hc)) then
            let s1 := s.noInstall hc line
            let s2 := match old with
              | none => s1
              | some l => if p.attr.rc || fld p.ea 53 10 != 0x3FF then (if s.keptOut hc line s.nextId then s1.l1Drop cid line else s1)
                          else s1.l1Put cid { l with data := mergeBytes l.data x.1 x.2, valid := l.valid ||| x.2
                                                     tags := mergeTags l.tags (pieceTags p sd.tag) x.2 }
            s2.addReq (req .store)
          else
            let l := old.getD { ctx := s.ctxOf cid, line := line, loose := p.loose, attr := p.attr }
            let s1 := s.l1Put cid { l with
              data := mergeBytes l.data x.1 x.2, valid := l.valid ||| x.2, dirty := l.dirty ||| x.2
              tags := mergeTags l.tags (pieceTags p sd.tag) x.2, cid := cid, slot := k, attr := p.attr
              by_ := if l.by_.contains (cid, k) then l.by_ else l.by_ ++ [(cid, k)] }
            s1.partDone gid p.off p.len 0 0 false

/-- A store over parts that are translated. A checked L1 line never holds dirty bytes, so that dropping it loses none. -/
def State.storeParts (s : State) (cid k : Nat) (i : Ins) (sl : Slot) (sd : StoreDesc) (o : Order) (ps0 : List Piece) : State :=
  let ps := ps0.flatMap Piece.quarters
  let o1 := o.eff ps
  let asks := (ps.filter (s.storeAsks cid o1)).length
  if (ps.any fun p => p.attr.ord == 0) && strongOut s.reqs cid k then s.stall cid k .stall
  else if asks != 0 && 64 < s.ldpend cid + asks then s.stall cid k .stall
  else match (if o1.rel then s.relWait cid k false else none) with
    | some s' => s'
    | none =>
      let hold := ps.any fun p => p.checked && p.bad.isNone
      let gid := s.nextId
      let sl0 := sl.addWarn (o.warn ps)
      let sl1 := if o1.rel then sl0.incClk else sl0
      let stamp := stampOf sl1.clk o1.rel
      let s1 := ({ s with nextId := gid + 1 }.usePieces cid ps).endWalks cid k
      if hold then
        let s2 := s1.modSlot cid k fun x =>
          { x with run := .sleeping (.check i.len gid (sl.mbp ^^^ x.mbp) sl0.warn o1.rel) }
        let acc : Access := { gid := gid, cid := cid, slot := k, isLoad := false, left := ps.length, parts := ps.length, wr := true, chk := true }
        ps.foldl (fun s p => s.storePiece cid k gid o1 stamp sd p) { s2 with accs := s2.accs ++ [acc] }
      else
        let s2 := (s1.setSlot cid k sl1)
        let s3 := ps.foldl (fun s p => s.storePiece cid k gid o1 stamp sd p) s2
        s3.retire cid k (s3.slotAt cid k) i.len none

/-- A store performed by a slot. -/
def State.doStore (s : State) (cid k : Nat) (i : Ins) (sl : Slot) (sd : StoreDesc) (o : Order) (ps0 : List Piece) : State :=
  match s.plan cid k 0 .write true 0 ps0 with
  | .wait s' => s'
  | .some_ ps => s.storeParts cid k i sl sd o ps
  | .ready ps => s.storeParts cid k i sl sd o ps

/-! ## The end of a held access -/

/-- The presence bit of a mailbox register that an access has delivered to, which its instruction's own read leaves set (R138). -/
def Access.present (a : Access) : BitVec 8 :=
  match a.dest with
  | .g r => (match mbox? r with
    | some n => BitVec.twoPow 8 n
    | none => 0)
  | _ => 0

/-- A slot in `check` whose access is complete retires its instruction: the acquire acts, and later accesses may issue. Where the
access was the first elements of a gather, the instruction goes on. A race of the L1's lines that waited for the checks before them is
raised. A BARRIER whose episode completed, or a TLBINV whose last acknowledgement came, while its slot could not retire, retires. DESIGN CHOICE (log 8): unsafe. -/
def State.endCheck (s : State) (cid k : Nat) : Option State :=
  match (s.slotAt cid k).run with
  | .sleeping (.check len gid clr warn inc) =>
    match s.accs.find? (·.gid == gid) with
    | none => none
    | some a =>
      if a.left != 0 then none
      else
        let s1 := { s with accs := removeFirst (·.gid == gid) s.accs }
        match a.trap with
        | some t =>
          if storeDue s.reqs cid k then none
          else some ((s1.modSlot cid k fun sl => { sl with run := .running }).preciseFault cid k t)
        | none =>
          if a.part != 0 then
            some (s1.modSlot cid k fun sl => { sl with
              run := .running, vgDone := a.part, vgWarn := sl.vgWarn ||| warn
              vgAcq := if a.acq then some (max (sl.vgAcq.getD 0) a.scope.toNat) else sl.vgAcq })
          else
            let s2 := if a.acq then s1.acquire cid k a.scope.toNat false else s1
            let sl := s2.slotAt cid k
            let sl1 := { sl.endGather with mbp := sl.mbp &&& ~~~(clr &&& ~~~a.present), warn := sl.warn ||| warn ||| sl.vgWarn, run := .running }
            some (s2.retire cid k (if inc then sl1.incClk else sl1) len none)
  | .sleeping (.tlbinv d j) =>
    match s.invs.find? fun x => x.k == j && x.wait_.isEmpty with
    | none => none
    | some x =>
      let s1 := { s with invs := s.invs.filter (fun (y : Inv) => y.k != j) }
      some (s1.retire cid k ((s1.slotAt cid k).putG d x.acks) 8 none)
  | .sleeping (.barred scope) =>
    let s1 := s.acquire cid k scope false
    some (s1.retire cid k (s1.slotAt cid k) 8 none)
  | _ => none

end Sys2Proof.Machine
end

