-- ==== Sys2Proof/Machine/Buffers.lean ====
section
/-! DEFINITION. Handler-table entries, channel input buffers as rings of records, and the channels that are ready (R208, R228 to
R233, R242). -/
namespace Sys2Proof.Machine

/-! ## Handler-table entries (R208) -/

def heRidx (e : W128) : Nat := fld e 89 5
def heRbv (e : W128) : Bool := e.getLsbD 88
def heSize (e : W128) : Nat := fld e 78 10 * 512
def heBase (e : W128) : Nat := fld e 68 10 * 512
def heMask (e : W128) : Bool := e.getLsbD 66
def hePrio (e : W128) : BitVec 2 := e.extractLsb' 64 2
def heEntry (e : W128) : W64 := e.extractLsb' 0 64

def Core.handler (c : Core) (chan : Nat) : W128 := vget c.handlers chan 0
def Core.buf (c : Core) (chan : Nat) : Buf := vget c.bufs chan {}
def Core.setBuf (c : Core) (chan : Nat) (b : Buf) : Core := { c with bufs := vset c.bufs chan b }

/-- The bytes of a region descriptor (R256): base and size. -/
def rgnBase (r : W128) : Nat := fld r 0 16 * 512
def rgnSize (r : W128) : Nat := fld r 16 16 * 512
def rgnFmt (r : W128) : Nat := fld r 32 5
def rgnKind (r : W128) : Nat := fld r 40 8

/-- The status of a handler-table entry for a core (R209): 0 where statuses 2 to 4 do not apply; the slices of other channels
are those of `others`, of which one of size 0 overlaps none. -/
def heStatus (e : W128) (lmb3 nrgn : Nat) (others : List W128) : Nat :=
  if fld e 94 34 != 0 || e.getLsbD 67 || (heRbv e && nrgn ≤ heRidx e) then 4
  else if heEntry e &&& 31 != 0 then 3
  else if heBase e < lmb3 || 0x80000 < heBase e + heSize e ||
      others.any (fun o => heSize e != 0 && heSize o != 0 && heBase o < heBase e + heSize e && heBase e < heBase o + heSize o) then 2
  else 0

/-! ## Records (R228, R229) -/

/-- The size of a message's record. -/
def recSize (len : Nat) : Nat := (32 + len + 31) / 32 * 32

/-- Bytes that the records of a ring occupy. -/
def Buf.used (b : Buf) : Nat := b.recs.foldl (fun n r => n + r.size) 0

/-- Freed space returns from the head (R230). -/
def dropFreed : List Rec → List Rec
  | [] => []
  | r :: rs => if r.freed then dropFreed rs else r :: rs

def Buf.reclaim (b : Buf) : Buf := { b with recs := dropFreed b.recs }

/-- A record's position with the ring after its allocation in a slice of `size` bytes, or none where it does not fit (R229). A PAD of an
empty ring is free at once, so that a record that the slice can hold is in the end accepted (R245). DEDUCED (log 31): unsafe. -/
def Buf.alloc (b : Buf) (size : Nat) (r : Rec) : Option (Buf × Nat) :=
  let free := size - b.used
  if b.tail + r.size ≤ size then
    if r.size ≤ free then some ({ recs := b.recs ++ [{ r with pos := b.tail }], tail := b.tail + r.size }, b.tail) else none
  else
    let pad := size - b.tail
    if pad + r.size ≤ free || (b.recs.isEmpty && r.size ≤ size) then
      let b1 : Buf := { recs := b.recs ++ (if pad == 0 then [] else [{ pos := b.tail, size := pad, pad := true, freed := true }]), tail := 0 }
      let b2 := b1.reclaim
      some ({ recs := b2.recs ++ [{ r with pos := 0 }], tail := r.size }, 0)
    else none

/-- The header of a record (R228). -/
def recHeader (m : Msg) (chan : Nat) (complete taken : Bool) (arrived : W64) : BitVec 256 :=
  packFields 256 [(0, 16, m.payload.length), (16, 5, chan), (24, 1, b2n complete), (25, 1, b2n taken), (27, 3, m.scope.toNat),
    (30, 2, m.origin.toNat), (32, 16, m.score.toNat), (48, 10, m.spkg.toNat), (64, 32, m.sclk.toNat), (96, 4, m.did.toNat),
    (104, 8, m.retry.toNat), (112, 2, m.sslot.toNat), (128, 64, m.sent.toNat), (192, 64, arrived.toNat)]

/-- The local offset of a record. -/
def recOff (c : Core) (chan : Nat) (r : Rec) : Nat := heBase (c.handler chan) + r.pos

/-- A record's header written into local memory. -/
def State.putHeader (s : State) (cid chan : Nat) (r : Rec) : State :=
  s.lmWrite cid (recOff (s.core cid) chan r) (bytesOf (recHeader r.msg chan r.complete r.taken r.arrived) 32)

/-- The FLAGS byte of a record's header written again: COMPLETE, and later TAKEN. -/
def State.putFlags (s : State) (cid chan : Nat) (r : Rec) : State :=
  s.lmWrite cid (recOff (s.core cid) chan r + 3) [(recHeader r.msg chan r.complete r.taken r.arrived).extractLsb' 24 8]

/-- The oldest record of a channel that is not taken. -/
def Buf.oldest (b : Buf) : Option Rec := b.recs.find? fun r => !r.pad && !r.taken

/-- A channel is runnable (R230). -/
def Core.ready (c : Core) (chan : Nat) : Bool :=
  !heMask (c.handler chan) && (match (c.buf chan).oldest with
    | some r => r.complete
    | none => false)

/-- AGE and EP of every channel after `n` cycles without a selection (R232). -/
def Core.ageBy (c : Core) (n : Nat) : Core :=
  (List.range 32).foldl (fun c ch =>
    if heMask (c.handler ch) then c
    else if c.ready ch then { c with age := vset c.age ch (vget c.age ch 0 + n) }
    else { c with age := vset c.age ch 0, ep := vset c.ep ch (hePrio (c.handler ch)) }) c

end Sys2Proof.Machine
end

