-- ==== Sys2Proof/Machine/ExecMem.lean ====
section
/-! DEFINITION. Loads, stores, capability loads and stores, prefetch, touch, fences, drains and L1 maintenance, opcodes 0x40 to
0x4B, 0x51 and 0x52 (R132 to R156). -/
namespace Sys2Proof.Machine

/-- The access size of a TYPE (R134). -/
def memSize (ty : Nat) : Nat := if ty == 0 then 8 else tyBytes ty

/-- The offset source: g[b], or the immediate by sign. -/
def memOff (i : Ins) (sl : Slot) : W64 := if i.hasImm then i.immS else sl.g64 i.b

/-- The checks of one contiguous access (R134 to R136, R259, R260, R475). -/
def memCheck (s : State) (cid : Nat) (sl : Slot) (r : RegNo) (off : W64) (n : Nat) (perm : BitVec 12) (align : Nat)
    (store : Bool) : Except Trap (W64 × W64) :=
  match accessCheck s.pkg cid sl r off n perm align with
  | .error t => .error t
  | .ok x =>
    match s.placeCheck cid sl r x.1 x.2 n store with
    | some t => .error t
    | none => .ok x

/-- A load of one contiguous access. -/
def loadOp (i : Ins) (u : Uses) (n : Nat) (perm : BitVec 12) (align : Nat) (ld : Slot → LoadDesc) (s : State) : Res :=
  let o := loadOrder i
  execState i u false o.2 (fun cid k sl =>
    match memCheck s cid sl i.a (memOff i sl) n perm align false with
    | .error t => .next (s.preciseFault cid k t)
    | .ok x => .next (s.doLoad cid k i sl (ld sl) o.1 (splitLines x.2 0 n))) s

/-- A g destination; one of g0 discards the data. -/
def gDest (d : RegNo) : Dest := if d == 0 then .nowhere else .g d

def ldOp (i : Ins) (s : State) : Res :=
  let n := memSize i.ty
  loadOp i { g := usesAB i, dg := [i.d] } n pLD 1
    (fun _ => { dest := gDest i.d, ty := BitVec.ofNat 5 i.ty, n := n, want := byteMask 0 n }) s

def ldcOp (i : Ins) (s : State) : Res :=
  loadOp i { g := usesAB i, dg := [i.d] } 16 pLD 16
    (fun sl => { dest := gDest i.d, ty := 9, n := 16, want := byteMask 0 16, keepTag := hasPerm (sl.readG i.a).val pLDCAP }) s

def ldvOp (i : Ins) (s : State) : Res :=
  loadOp i { g := usesAB i, dv := [i.d] } 64 pLD 1 (fun _ => { dest := .v i.d, n := 64, want := BitVec.allOnes 64 }) s

/-- A store of one contiguous access. DESIGN CHOICE (log 60): unsafe. -/
def storeOp (i : Ins) (u : Uses) (n : Nat) (perm : BitVec 12) (align : Nat) (more : Slot → W64 → W64 → Option Trap)
    (sd : Slot → Except Trap StoreDesc) (s : State) : Res :=
  let o := storeOrder i
  execState i u false o.2 (fun cid k sl =>
    match memCheck s cid sl i.a (memOff i sl) n perm align true with
    | .error t => .next (s.preciseFault cid k t)
    | .ok x =>
      match more sl x.1 x.2, sd sl with
      | some t, _ => .next (s.preciseFault cid k t)
      | none, .error t => .next (s.preciseFault cid k t)
      | none, .ok d => .next (s.doStore cid k i sl d o.1 (splitLines x.2 0 n))) s

def stOp (i : Ins) (s : State) : Res :=
  let n := memSize i.ty
  storeOp i { g := i.d :: usesAB i } n pST 1 (fun _ _ _ => none)
    (fun sl => .ok { data := (sl.readG i.d).val.zeroExtend 512 }) s

/-- STC of a tagged value requires STCAP, and GLOBAL beyond the own local memory (R149). DESIGN CHOICE (log 60): unsafe. -/
def stcOp (i : Ins) (s : State) : Res :=
  storeOp i { g := i.d :: usesAB i } 16 pST 16
    (fun sl raw ea =>
      let x := sl.readG i.d
      if !x.tag then none
      else if !hasPerm (sl.readG i.a).val pSTCAP then some (capTrap 3 i.a raw)
      else if !hasPerm x.val pGLOBAL && (ownLocal s.turn.1 ea).isNone then some (capTrap 6 i.a raw)
      else none)
    (fun sl => .ok { data := (sl.readG i.d).val.zeroExtend 512, tag := some (sl.readG i.d).tag }) s

/-- The job-queue window that an address names: a cluster's below 8,192, else S-die s's as 8,192 + s (R268, R305, R369). -/
def submitWin (ea : W64) : Option Nat :=
  match placeOf ea with
  | .virt none va =>
    if !inCtl va then none
    else
      let o := va - ctlBase
      if o < 128 * 8192 then some (o / 128)
      else if 0x1000000 ≤ o && o < 0x1000000 + 256 then some (8192 + (o - 0x1000000) / 128)
      else none
  | _ => none

/-- `n` bytes of a command from byte `i`. -/
def cmdB (c : W512) (i n : Nat) : Nat := fld c (8 * i) (8 * n)
def cmdOp (c : W512) : Nat := cmdB c 0 1

/-- The vector registers that a command reads at acceptance. -/
def cmdVecs (c : W512) : List RegNo :=
  if cmdOp c != 1 then []
  else
    (if fld c 36 1 == 1 then (List.range 16).map fun r => BitVec.ofNat 6 (cmdB c 14 1 % 32 + r) else []) ++
    (if fld c 37 1 == 1 then (List.range 16).map fun r => BitVec.ofNat 6 (cmdB c 15 1 % 32 + r) else [])

/-- STV; one to SUBMIT waits for the vector registers that its command names, so that it is accepted by the memory pipeline in their order, and for a queue entry and JOB_ACCEPT (R150, R268, R269). -/
def stvOp (i : Ins) (s : State) : Res :=
  let o := storeOrder i
  execState i { g := usesAB i, v := [i.d] } false o.2 (fun cid k sl =>
    match memCheck s cid sl i.a (memOff i sl) 64 pST 1 true, sl.useV i.d (BitVec.allOnes 64) with
    | .error t, _ => .next (s.preciseFault cid k t)
    | .ok _, .error t => .next (s.preciseFault cid k t)
    | .ok x, .ok d =>
      match (submitWin x.2).map fun w => if w < 8192 then s.clusterFor cid w else w with
      | none => .next (s.doStore cid k i sl { data := d } o.1 (splitLines x.2 0 64))
      | some win =>
        if x.1.toNat % 64 != 0 then .next (s.preciseFault cid k (capTrap 8 i.a x.1))
        else if x.2.toNat % 128 == 64 then .next (s.doStore cid k i sl { data := d } o.1 (splitLines x.2 0 64))
        else if acqOut s.accs cid k then .next (s.stall cid k .stall)
        else if strongOut s.reqs cid k || (cmdVecs d).any (fun r => (sl.readV r).pending) then .next (s.stall cid k .stall)
        else match (if o.1.rel then s.relWait cid k false else none) with
          | some s' => .next s'
          | none =>
            let w := match o.1.scope with
              | some x => if scPACKAGE < x then wSCOPE else 0
              | none => 0
            .next ({ s with nextId := s.nextId + 1 }.modSlot cid k fun x =>
              { x with seq := s.nextId, run := .sleeping (.submit win i.d i.len (sl.mbp ^^^ x.mbp) (sl.warn ||| w) o.1.rel) })) s

/-! ## Gathers and scatters (R151) -/

/-- The active elements with their checked addresses. -/
def vgChecks (s : State) (cid : Nat) (sl : Slot) (i : Ins) (w : Nat) (idx : W512) (perm : BitVec 12) (store : Bool) :
    List Nat → Except Trap (List Piece)
  | [] => .ok []
  | j :: js =>
    match memCheck s cid sl i.a (BitVec.ofInt 64 (sextN (8 * w) (vElem idx w j))) w perm 1 store with
    | .error t => .error t
    | .ok x =>
      match vgChecks s cid sl i w idx perm store js with
      | .error t => .error t
      | .ok ps => .ok (splitLines x.2 (j * w) w ++ ps)

/-- The elements that p[c] activates. -/
def vgElems (sl : Slot) (i : Ins) (w : Nat) : List Nat := (List.range (64 / w)).filter (laneOn (sl.readP (i.c.toNat % 8)) w)

def ldvgOp (i : Ins) (s : State) : Res :=
  let o := loadOrder i
  execState i { g := [i.a], v := [i.b], dv := [i.d] } false o.2 (fun cid k sl =>
    let w := tyBytes i.ty
    let es := (vgElems sl i w).drop sl.vgDone
    let ab := es.foldl (fun m j => m ||| byteMask (j * w) w) 0
    match sl.useV i.b ab with
    | .error t => .next (s.preciseFault cid k t)
    | .ok idx =>
      match vgChecks s cid sl i w idx pLD false es with
      | .error t => .next (s.preciseFault cid k t)
      | .ok ps => .next (s.doLoad cid k i sl { dest := .v i.d, n := 64, want := ab, elemW := w } o.1 ps)) s

def stvsOp (i : Ins) (s : State) : Res :=
  let o := storeOrder i
  execState i { g := [i.a], v := [i.b, i.d] } false o.2 (fun cid k sl =>
    let w := tyBytes i.ty
    let ab := activeBytes (sl.readP (i.c.toNat % 8)) w
    match sl.useV i.b ab, sl.useV i.d ab with
    | .error t, _ => .next (s.preciseFault cid k t)
    | .ok _, .error t => .next (s.preciseFault cid k t)
    | .ok idx, .ok d =>
      match vgChecks s cid sl i w idx pST true (vgElems sl i w) with
      | .error t => .next (s.preciseFault cid k t)
      | .ok ps => .next (s.doStore cid k i sl { data := d } o.1 ps)) s

/-! ## Prefetch and touch (R152, R153) -/

/-- The warnings of ORD and SCOPE on PREF and TOUCH (R87). -/
def warnPref (i : Ins) : BitVec 10 :=
  warnMem i ||| (if mOrd i.mod != 0 then wMODIGN else 0) ||| (if mSce i.mod && mOrd i.mod == 0 then wMODIGN else 0)

/-- PREF: a fill that no register waits for, or nothing. Under LVL the L1 does not keep it. -/
def prefOp (i : Ins) (s : State) : Res :=
  execState i { g := usesAB i, moves := false } false (warnPref i) (fun cid k sl =>
    let s0 := s.setSlot cid k sl
    let quit : Res := .next (s.retire cid k sl i.len none)
    match accessCheck s.pkg cid sl i.a (memOff i sl) 8 pLD 1 with
    | .error _ => quit
    | .ok x =>
      let line := BitVec.ofNat 64 (x.2.toNat / 64 * 64)
      let p : Piece := { ea := line, off := 0, len := 64 }
      let base : Req := { s0.pieceReq cid k p .fill 0 0 with keep := !i.sub.getLsbD 0 }
      let go (r : Req) : Res := .next ((s0.addReq r).retire cid k sl i.len none)
      if 64 ≤ s.ldpend cid then quit
      else match placeOf x.2 with
        | .localMem _ _ _ _ _ => quit
        | .virt (some _) va => if inCtl va then quit else go base
        | .virt none va =>
          if inCtl va then quit
          else match s.xlate cid k (va / 64 * 64) .read false with
            | .refuse _ => quit
            | .miss => go { base with stage := .walk }
            | .ok pa attr =>
              if (s.l1Get cid (lineOf line)).isSome && !i.sub.getLsbD 0 then quit
              else go { base with pa := pa, attr := attr, keep := base.keep && attr.ord != 0 }) s

def touchOp (i : Ins) (s : State) : Res :=
  let w := i.sub.getLsbD 0
  let need : Need := if w then .write else .read
  execState i { g := usesAB i } false (warnPref i) (fun cid k sl =>
    match accessCheck s.pkg cid sl i.a (memOff i sl) 1 (if w then pST else pLD) 1 with
    | .error t => .next (s.preciseFault cid k t)
    | .ok x =>
      let done (s : State) : Res := .next (s.retire cid k sl i.len none)
      match placeOf x.2 with
      | .localMem _ _ _ _ _ => done s
      | .virt (some _) va =>
        if inCtl va then .next (s.postProbe cid k 2 need x.2 xWINDOW)
        else if 64 ≤ s.ldpend cid then .next (s.stall cid k .stall)
        else done (s.addReq { s.pieceReq cid k { ea := x.2, off := 0, len := 1 } (.probe 2 need) 0 0 with stage := .fabric })
      | .virt none va =>
        if inCtl va then (if inWindow va 1 then done s else .next (s.postProbe cid k 2 need x.2 xWINDOW))
        else match s.xlate cid k va need false with
          | .ok _ _ => done ((s.xlateUse cid va).endWalks cid k)
          | .refuse c => .next ((s.endWalks cid k).postProbe cid k 2 need x.2 c)
          | .miss => .next (s.startWalk cid k 2 need x.2)) s

/-! ## Fences, drains and L1 maintenance (R154 to R156) -/

/-- FENCE at a scope: the release's wait, then the acquire's drops; ORD 00 is performed as `.full`. -/
def fenceOp (i : Ins) (s : State) : Res :=
  let o := mOrd i.mod
  let full := o == 0 || o == 3
  let scope := if mSce i.mod then mScope i.mod else scFABRIC
  execState i {} false (warnMem i ||| (if o == 0 then wORDFIX else 0)) (fun cid k sl =>
    match (if o == 1 then (if loadsOut s.accs cid k || acqOut s.accs cid k then some (s.stall cid k .stall) else none) else s.relWait cid k full) with
    | some s' => .next s'
    | none =>
      let s1 := if o == 2 then s else s.acqL1 cid scope full
      let sl1 := if o == 2 then sl else sl.refetch
      .next (s1.retire cid k (if o == 1 then sl1 else sl1.incClk) i.len none)) s

/-- Stores that DRAIN waits for: the slot's own, with the dirty lines that hold bytes of it. -/
def State.drainWait (s : State) (cid k : Nat) : Option State :=
  let t (l : L1Line) : Bool := l.dirty != 0 && l.by_.contains (cid, k)
  if s.anyDirty cid t then some ((s.l1Sweep cid none t false).stall cid k .stall)
  else if storesOut s.reqs cid k true || mcastOut s.accs cid k || (s.core cid).slotBusy k then some (s.stall cid k .stall)
  else none

def drainOp (i : Ins) (s : State) : Res :=
  execState i {} false (warnMem i) (fun cid k sl =>
    match s.drainWait cid k with
    | some s' => .next s'
    | none => .next (s.retire cid k sl i.len none)) s

/-- L1WB and L1INV: every line when a and b name g0, else the lines that g[a] to g[a] + g[b] overlaps. -/
def l1Op (i : Ins) (inv : Bool) (s : State) : Res :=
  execState i { g := [i.a, i.b] } false (warnMem i) (fun cid k sl =>
    let go (test : L1Line → Bool) : Res := .next ((s.l1Sweep cid (some k) test inv).retire cid k sl i.len none)
    if i.a == 0 && i.b == 0 then go fun _ => true
    else
      let x := sl.readG i.a
      let a := x.val.extractLsb' 0 64
      let n := (sl.g64 i.b).toNat
      match capCheck x.val x.tag a.toNat n 0 [0] with
      | some sub => .next (s.preciseFault cid k (capTrap sub i.a a))
      | none =>
        let b := (rewriteEa s.pkg cid a).toNat
        go fun l => n != 0 && l.ctx == s.ctxOf cid && b < (l.line + 1) * 64 && l.line * 64 < b + n) s

def execLd (f : FR) (s : State) : Res := ldOp (insR f) s
def execLdF96 (f : FX) (s : State) : Res := ldOp (insX f) s
def execSt (f : FR) (s : State) : Res := stOp (insR f) s
def execStF96 (f : FX) (s : State) : Res := stOp (insX f) s
def execLdv (f : FR) (s : State) : Res := ldvOp (insR f) s
def execLdvF96 (f : FX) (s : State) : Res := ldvOp (insX f) s
def execStv (f : FR) (s : State) : Res := stvOp (insR f) s
def execStvF96 (f : FX) (s : State) : Res := stvOp (insX f) s
def execLdvg (f : FR) (s : State) : Res := ldvgOp (insR f) s
def execStvs (f : FR) (s : State) : Res := stvsOp (insR f) s
def execLdc (f : FR) (s : State) : Res := ldcOp (insR f) s
def execLdcF96 (f : FX) (s : State) : Res := ldcOp (insX f) s
def execStc (f : FR) (s : State) : Res := stcOp (insR f) s
def execStcF96 (f : FX) (s : State) : Res := stcOp (insX f) s
def execPref (f : FR) (s : State) : Res := prefOp (insR f) s
def execPrefF96 (f : FX) (s : State) : Res := prefOp (insX f) s
def execTouch (f : FR) (s : State) : Res := touchOp (insR f) s
def execTouchF96 (f : FX) (s : State) : Res := touchOp (insX f) s
def execFence (f : FR) (s : State) : Res := fenceOp (insR f) s
def execDrain (f : FR) (s : State) : Res := drainOp (insR f) s
def execL1inv (f : FR) (s : State) : Res := l1Op (insR f) true s
def execL1wb (f : FR) (s : State) : Res := l1Op (insR f) false s

end Sys2Proof.Machine
end

