-- ==== Sys2Proof/Machine/Payload.lean ====
section
/-! DEFINITION. The memory that an instruction reads for itself, as loads of its slot: payloads of SEND and LAUNCH, descriptors
and lists (R140, R204, R212, R218). -/
namespace Sys2Proof.Machine

/-- A range cut at line boundaries. -/
def lineParts (ea : W64) (n : Nat) : List Piece :=
  let first := ea.toNat % 64
  (List.range ((first + n + 63) / 64)).filterMap fun j =>
    let lo := max (64 * j) first - first
    let hi := min (64 * (j + 1) - first) n
    if lo < hi then some { ea := ea + BitVec.ofNat 64 lo, off := lo, len := hi - lo } else none

/-- What reading a part yields: its bytes, a wait for them, or the state in which the slot waits or has faulted. -/
inductive PayRes where
  | got (bs : List Byte) (s : State)
  | later (s : State)
  | stop (s : State)

/-- The read of a slot for an address. -/
def payAcc (as : List Access) (cid k : Nat) (ea : W64) : Option Access :=
  as.find? fun a => a.pay && a.cid == cid && a.slot == k && a.ea == ea

/-- A part read or asked for. A race of a line that the L1 holds waits for the parts before it (R334), as `ok` tells, and for the slot's
stores (R349). -/
def State.payPiece (s : State) (cid k : Nat) (ok : Bool) (p : Piece) : PayRes :=
  let fromAcc (s : State) (a : Access) : PayRes :=
    if a.left != 0 then .later s
    else if a.exp != 0 then .stop (s.preciseFault cid k { cause := cEXPIRED })
    else .got (bytesOf a.raw p.len) s
  match ownLocal cid p.ea with
  | some off =>
    if errIn s.errs (lmKey cid off) p.len 8 true then .stop (s.freeze cid k { cause := cUNCORR, addr := errEa s.errs (lmKey cid off) p.len 8 p.ea })
    else if s.lmMarks cid off p.len != 0 then .stop (s.preciseFault cid k { cause := cEXPIRED })
    else .got (s.lmRead cid off p.len) s
  | none =>
    match payAcc s.accs cid k p.ea with
    | some a => fromAcc s a
    | none =>
      match s.plan cid k 4 .read false 0 [{ p with off := 0 }] with
      | .wait s' => .stop s'
      | .some_ _ => .stop s
      | .ready ps =>
        if 64 ≤ s.ldpend cid then .later s
        else match s.l1Checks cid k {} false [] [] ps with
          | .race t _ => if !ok || storeDue s.reqs cid k then .later s else .stop (s.preciseFault cid k t)
          | .pass ns s1 =>
            let gid := s1.nextId
            let acc : Access := { gid := gid, cid := cid, slot := k, n := p.len, want := byteMask 0 p.len, left := ps.length, parts := ps.length
                                  pay := true, ea := p.ea, notes := ns }
            let s2 := ps.foldl (fun s p => s.loadPiece cid k gid {} false p)
              ({ s1.usePieces cid ps with nextId := gid + 1, accs := s1.accs ++ [acc] }.endWalks cid k)
            match payAcc s2.accs cid k p.ea with
            | some a => fromAcc s2 a
            | none => .later s2

/-- Every part read: the bytes, or the state in which the slot waits or has faulted. `ok` is cleared once a part is awaited. -/
def State.payAll (s : State) (cid k : Nat) (ok : Bool) (acc : List Byte) : List Piece → Except State (List Byte × State)
  | [] => if ok then .ok (acc, s) else .error (s.stall cid k .stall)
  | p :: ps =>
    match s.payPiece cid k ok p with
    | .got bs s1 => s1.payAll cid k ok (acc ++ bs) ps
    | .later s1 => s1.payAll cid k false acc ps
    | .stop s1 => .error s1

/-- The reads that a slot's instruction has used are over. -/
def State.endPay (s : State) (cid k : Nat) : State :=
  { s with accs := s.accs.filter fun a => !(a.pay && a.cid == cid && a.slot == k) }

/-- A range read through a capability: the checks of R134 to R136 and R260, then its bytes. `off` is from the capability's
address. -/
def State.payRead (s : State) (cid k : Nat) (sl : Slot) (r : RegNo) (off : W64) (n : Nat) : Except State (List Byte × State) :=
  match memCheck s cid sl r off n pLD 1 false with
  | .error t => .error (s.preciseFault cid k t)
  | .ok x =>
    match s.payAll cid k true [] (lineParts x.2 n) with
    | .ok (bs, s1) => .ok (bs, s1.countOwn cid (lineParts x.2 n))
    | e => e

end Sys2Proof.Machine
end

