-- ==== Sys2Proof/Machine/Ends.lean ====
section
/-! DEFINITION. The end of an activation: a slot that becomes dormant, the freeing of its message's record, and what KILLG and an
abort do to slots, messages and jobs (R131, R224, R230, R449, R453, R482). -/
namespace Sys2Proof.Machine

/-- Requests of a slot that outlive its activation belong to no slot any more: their store faults are discarded. Walks, posted
reads and fetched blocks of the slot end with it. -/
def orphanReqs (rs : List Req) (cid k : Nat) : List Req :=
  (rs.filter fun r => !(r.isOf cid k && (match r.op, r.stage with
    | .probe _ _, _ => true
    | .fetch, _ => true
    | _, .refused _ => true
    | _, _ => false))).map fun r => if r.isOf cid k then { r with slot := r.slot + 4 } else r

/-- A slot without an activation; the state that R18 gives a launch stays. No load is waited for any more. -/
def Slot.toDormant (sl : Slot) : Slot :=
  { sl with run := .dormant, loop := { sl.loop with lact := false }, st := Vector.replicate 4 {}, act := {}, did := 0, wdog := 0
            taken := false, vgDone := 0, vgWarn := 0, vgAcq := none, g := sl.g.map fun x => { x with pending := false } }

/-- The record of an activation is freed, and space returns from the head of its ring. -/
def Core.freeRec (c : Core) (rid : Nat) : Core :=
  let f (r : Rec) : Rec := if r.rid == rid && !r.pad then { r with freed := true } else r
  { c with bufs := c.bufs.map fun b => ({ b with recs := b.recs.map f } : Buf).reclaim }

/-- An activation ended from outside: nothing of ACTEND happens (R224). -/
def State.endSlot (s : State) (cid k : Nat) : State :=
  let s1 := s.modCore cid fun c =>
    let sl := c.slot k
    { (c.setSlot k sl.toDormant).freeRec sl.act.rid with
      sfq := c.sfq.filter (·.slot.toNat != k)
      sfqOvf := c.sfqOvf && !(c.sfq.filter fun r => r.v && r.slot.toNat != k).isEmpty
      frz := { c.frz with nested := false }
      lacc := c.lacc.map fun x => if x.slot == k then { x with rd := none } else x
      sendq := c.sendq.map fun (m : Msg) => if m.sslot.toNat == k && m.actRid == sl.act.rid then { m with quiet := true } else m }
  { s1 with
    reqs := orphanReqs s1.reqs cid k
    accs := s1.accs.filter fun a => !(a.cid == cid && a.slot == k && (a.isLoad || a.chk)) }

/-- A slot holds an activation. -/
def Slot.live (sl : Slot) : Bool := sl.run != .dormant

/-- A core whose residents hold no activation leaves the frozen state (R453). -/
def State.thaw (s : State) (cid : Nat) : State :=
  let rs := s.residents cid
  if rs.any fun c => [0, 1, 2, 3].any fun k => (s.slotAt c k).live then s
  else rs.foldl (fun s c => s.modCore c fun x => { x with frz := { x.frz with frozen := false } }) s

/-- The slots of the listed cores that satisfy a test end; the number of activations ended. -/
def State.endSlots (s : State) (cids : List Nat) (test : Slot → Bool) : Nat × State :=
  let r := cids.foldl (fun (a : Nat × State) cid =>
    [0, 1, 2, 3].foldl (fun (a : Nat × State) k =>
      let sl := a.2.slotAt cid k
      if sl.live && test sl then (a.1 + 1, a.2.endSlot cid k) else a) a) (0, s)
  (r.1, cids.foldl (fun (s1 : State) cid =>
    if (s.residents cid).any (fun c => [0, 1, 2, 3].any fun k => (s.slotAt c k).live && test (s.slotAt c k)) then s1.thaw cid else s1) r.2)

/-- Records that have started no activation and satisfy a test are discarded. -/
def Core.dropRecs (c : Core) (test : Msg → Bool) : Core :=
  let f (r : Rec) : Rec := if !r.pad && !r.taken && test r.msg then { r with freed := true, taken := true } else r
  { c with bufs := c.bufs.map fun b => ({ b with recs := b.recs.map f } : Buf).reclaim }

/-- A job that is to complete KILLED (R290, R313). -/
def Job.kill (j : Job) : Job := if j.ended.isSome then j else { j with ended := some 4 }

/-- Jobs and collective commands that satisfy a test are to complete KILLED. -/
def State.killJobs (s : State) (test : Job → Bool) : State :=
  { s with
    clusters := s.clusters.map fun p => (p.1, { p.2 with queue := p.2.queue.map fun j => if test j then j.kill else j })
    colls := s.colls.map fun l => l.map fun j => if test j then j.kill else j }

/-! ## Messages refused for good (R206, R289) -/

/-- A message of this package's senders, its loader or its host. -/
def State.ownMsg (s : State) (m : Msg) : Bool := m.origin == 2 || m.spkg == s.pkg

/-- A message leaves the network and what holds it: a send queue, or an engine. -/
def State.unhold (s : State) (m : Msg) : State :=
  let keep (l : List Msg) : List Msg := l.filter (·.mid != m.mid)
  let s1 := { s with msgs := keep s.msgs }
  if !s.ownMsg m then s1
  else
    let s2 := s1.modCore m.cid fun c => { c with sendq := keep c.sendq }
    let cl := s2.clusterId m.cid
    if m.origin == 3 then s2.setCluster cl { s2.cluster cl with held := keep (s2.cluster cl).held } else s2

/-- A message refused for good with a cause: its sender here gets a record, or freezes for an engine's message; a sender in
another package is told. DEDUCED (log 31): unsafe. -/
def State.sendLost (s : State) (m : Msg) (cause : BitVec 8) : State :=
  let s1 := s.unhold m
  if !s.ownMsg m then { s1 with out := s1.out ++ [.verdict m.spkg.toNat m.rmid false cause] }
  else if m.origin == 2 || m.quiet then s1
  else if m.origin == 3 then
    (s1.modCore m.cid fun c => { c with engineLost := ofBytes 768 m.payload }).freeze m.cid m.sslot.toNat { cause := cENGINE_LOST }
  else s1.storeFault m.cid m.sslot.toNat m.addr m.pc cause

/-- The messages in spill queues that satisfy a test are refused for good (R241). -/
def State.spillsLost (s : State) (test : Msg → Bool) : State :=
  let gone := s.spills.flatMap fun x => x.2.filter test
  gone.foldl (fun s m => s.sendLost m sfSENDREFUSED) { s with spills := s.spills.map fun x => (x.1, x.2.filter fun m => !test m) }

/-- The identifiers of the cores that hold members of a launch. -/
def State.members (s : State) (lid : BitVec 16) : List Nat := (s.cores.filter fun p => p.2.lid == some lid).map (·.1)

end Sys2Proof.Machine
end

