-- ==== Sys2Proof/Machine/Domains.lean ====
section
/-! DEFINITION. Containment domains: the table, tasks, the preserve area, the root log, aborts and restores (R217 to R219, R472
to R484, R341). -/
namespace Sys2Proof.Machine

/-! ## Memory that the Beavers read and write by translation -/

/-- The physical address of a virtual address of this package, with its leaf. -/
def State.vaLeaf (s : State) (ctx : Nat) (ea : W64) : Option (Nat × W64) :=
  match placeOf (rewriteEa s.pkg 0 ea) with
  | .virt none va =>
    if inCtl va then none
    else match s.walk ctx va with
      | .leaf e level _ => some (xlatePa e level va, e)
      | .fault _ => none
  | _ => none

/-- The walk of a Beaver's access keeps A, and D for a write (R376). -/
def State.vaTouch (s : State) (ctx : Nat) (ea : W64) (write : Bool) : State :=
  match placeOf (rewriteEa s.pkg 0 ea) with
  | .virt none va => if inCtl va then s else (s.walkAD ctx va (if write then .write else .read) true).2
  | _ => s

/-- The walks of a read of a range. -/
def State.vaTouches (s : State) (ctx : Nat) (ea : W64) (n : Nat) : State :=
  (lineParts ea n).foldl (fun s p => s.vaTouch ctx p.ea false) s

/-- Bytes of a range in a context; zeros where it has no translation. DEDUCED (log 37): unsafe. -/
def State.vaRead (s : State) (ctx : Nat) (ea : W64) (n : Nat) : List Byte :=
  (lineParts ea n).flatMap fun p => match s.vaLeaf ctx p.ea with
    | some (pa, _) => s.pocBytes pa p.len
    | none => List.replicate p.len 0

/-- Bytes written to a range in a context, granules untagged. DEDUCED (log 37): unsafe. -/
def State.vaWrite (s : State) (ctx : Nat) (ea : W64) (bs : List Byte) : State :=
  (lineParts ea bs.length).foldl (fun s p => match s.vaLeaf ctx p.ea with
    | some (pa, _) =>
      let sh := pa % 64
      (s.vaTouch ctx p.ea true).pocWrite (pa / 64) (ofBytes 512 (List.replicate sh 0 ++ (bs.drop p.off).take p.len)) (byteMask sh p.len) 0 none none
    | none => s) s

/-! ## The table (R472) -/

def State.dom (s : State) (ctx : Nat) (did : BitVec 4) : Option Domain := s.domains.find? fun d => d.ctx == ctx && d.did == did

def State.modDom (s : State) (ctx : Nat) (did : BitVec 4) (f : Domain → Domain) : State :=
  { s with domains := replaceFirst (fun d => d.ctx == ctx && d.did == did) f s.domains }

def State.domState (s : State) (ctx : Nat) (did : BitVec 4) : Nat :=
  match s.dom ctx did with
  | some d => d.state
  | none => 0

/-- Open, also while it recovers to that state (R219). DEDUCED (log 20): unsafe. -/
def Domain.isOpen (d : Domain) : Bool := d.state == 1 || (d.state == 4 && d.back == 1)

/-- A domain and its descendants, the domain first. -/
def State.domTree (s : State) (ctx : Nat) (did : BitVec 4) : List (BitVec 4) :=
  let kids (ds : List (BitVec 4)) : List (BitVec 4) :=
    (s.domains.filter fun d => d.ctx == ctx && d.state != 0 && d.state != 3 && ds.contains d.parent).map (·.did)
  let l1 := kids [did]
  let l2 := kids l1
  did :: (l1 ++ l2 ++ kids l2)

/-! ## Tasks (R473, R524) -/

/-- A message of the package. -/
def State.anyMsg (s : State) (p : Msg → Bool) : Bool :=
  s.msgs.any p || s.spills.any (fun x => x.2.any p) || s.clusters.any (fun x => x.2.held.any p) ||
  s.cores.any fun x => x.2.sendq.any p || x.2.bufs.toList.any fun b => b.recs.any fun r => !r.pad && !r.taken && p r.msg

/-- A job or collective command of the package. -/
def State.anyJob (s : State) (p : Job → Bool) : Bool :=
  s.clusters.any (fun x => x.2.queue.any p) || s.colls.toList.any fun l => l.any p

/-- A task of a domain lives, in this package or in another. -/
def State.anyTask (s : State) (ctx : Nat) (did : BitVec 4) : Bool :=
  s.anyMsg (fun m => m.ctx == ctx && m.did == did) || s.anyJob (fun j => j.ctx == ctx && j.did == did) ||
  s.cores.any (fun x => s.ctxOf x.1 == ctx && [0, 1, 2, 3].any fun k => let sl := x.2.slot k; sl.live && sl.act.did == did) ||
  (match s.dom ctx did with
    | some d => d.remote.any (fun x => x.2 != 0) || (d.state == 4 && !d.roots.isEmpty)
    | none => false)

/-! ## Protection (R476) -/

/-- The offset of the first byte of the line that holds an address, and the lines that a range overlaps. -/
def rangeLines (ea : W64) (n : Nat) : List W64 :=
  if n == 0 then []
  else (List.range ((ea.toNat + n - 1) / 64 - ea.toNat / 64 + 1)).map fun j => BitVec.ofNat 64 ((ea.toNat / 64 + j) * 64)

/-- The pages of 64 KiB that a range overlaps. -/
def rangePages (ea : W64) (n : Nat) : List W64 :=
  if n == 0 then []
  else (List.range ((ea.toNat + n - 1) / 65536 - ea.toNat / 65536 + 1)).map fun j => BitVec.ofNat 64 ((ea.toNat / 65536 + j) * 65536)

/-- Protections of a domain are in force. DEDUCED (log 19): unsafe. -/
def Domain.guards (d : Domain) : Bool := d.state == 1 || d.state == 2 || d.state == 4

/-- A range of a context overlaps a physical line. DEDUCED (log 19): unsafe. -/
def State.overlapsLine (s : State) (ctx : Nat) (ea : W64) (n line : Nat) : Bool :=
  (rangePages ea n).any fun pg => match s.vaLeaf ctx pg with
    | some (pa, _) =>
      pa / 65536 == line / 1024 &&
      (let l := pg.toNat / 64 + line % 1024
       ea.toNat / 64 ≤ l && l ≤ (ea.toNat + n - 1) / 64)
    | none => false

/-- A physical line is write-protected by some domain. -/
def State.protLine (s : State) (line : Nat) : Bool :=
  s.domains.any fun d => d.guards && d.pres.any fun p => p.2.2 && s.overlapsLine d.ctx p.1 p.2.1 line

/-! ## The preserve area (R478, R479) -/

/-- Bytes of a snapshot of `n` lines. -/
def snapSize (n : Nat) : Nat := 64 * n + 64 * ((n + 7) / 8)

/-- The snapshot ranges of a preserve list with their offsets in the area. -/
def snapPlan (pres : List (W64 × Nat × Bool)) : List (W64 × Nat × Nat) :=
  (pres.foldl (fun (a : List (W64 × Nat × Nat) × Nat) p =>
    if p.2.2 then a else (a.1 ++ [(p.1, p.2.1, a.2)], a.2 + snapSize (rangeLines p.1 p.2.1).length)) ([], 64)).1

def snapTotal (pres : List (W64 × Nat × Bool)) : Nat :=
  pres.foldl (fun n p => if p.2.2 then n else n + snapSize (rangeLines p.1 p.2.1).length) 64

/-- The bytes of the area from its address to its top. DEDUCED (log 19): unsafe. -/
def areaSize (c : W128) : Nat :=
  match capDecode c with
  | none => 0
  | some (_, t) => t - capAddr c

/-- DEDUCED (log 19): unsafe. -/
def areaEa (c : W128) (off : Nat) : W64 := c.extractLsb' 0 64 + BitVec.ofNat 64 off

/-- Snapshots taken: lines with their granule tags, then metadata, then zeros. DEDUCED (log 19): unsafe. -/
def State.snapshot (s : State) (ctx : Nat) (area : W128) (pres : List (W64 × Nat × Bool)) : State :=
  (snapPlan pres).foldl (fun s r =>
    let ls := rangeLines r.1 r.2.1
    let s1 := (ls.zip (List.range ls.length)).foldl (fun s x =>
      match s.vaLeaf ctx x.1, s.vaLeaf ctx (areaEa area (r.2.2 + 64 * x.2)) with
      | some (pa, _), some (qa, _) =>
        ((s.vaTouch ctx x.1 false).vaTouch ctx (areaEa area (r.2.2 + 64 * x.2)) true).pocWrite (qa / 64) (s.pocLine (pa / 64)) (BitVec.allOnes 64)
          (s.pocTags (pa / 64)) none none
      | _, _ => s) s
    let metas := ls.flatMap fun l => match s1.vaLeaf ctx l with
      | some (pa, e) => if e.getLsbD 48 then bytesOf (s1.metaAt pa) 8 else List.replicate 8 0
      | none => List.replicate 8 0
    let pad := (64 - metas.length % 64) % 64
    s1.vaWrite ctx (areaEa area (r.2.2 + 64 * ls.length)) (metas ++ List.replicate pad 0)) s

/-- The header of the area written. -/
def State.areaHeader (s : State) (d : Domain) : State :=
  s.vaWrite d.ctx (areaEa d.area 0)
    (bytesOf (packFields 512 [(0, 64, d.desc.toNat), (64, 8, d.roots.length), (128, 64, d.off)]) 64)

/-- A root record appended: in the log where it fits, else the domain is not re-executable. -/
def State.addRoot (s : State) (ctx : Nat) (did : BitVec 4) (r : Root) (kind sub : Nat) (addr : W64) (body : List Byte) : State :=
  match s.dom ctx did with
  | none => s
  | some d =>
    let len := 16 + (body.length + 15) / 16 * 16
    if areaSize d.area < d.off + len then s.modDom ctx did fun d => { d with noReexec := true }
    else
      let hdr := bytesOf (packFields 128 [(0, 16, len), (16, 8, kind), (24, 8, sub), (64, 64, addr.toNat)]) 16
      let s1 := s.vaWrite ctx (areaEa d.area d.off) (hdr ++ body ++ List.replicate ((16 - body.length % 16) % 16) 0)
      let d1 := { d with roots := d.roots ++ [r], off := d.off + len }
      (s1.modDom ctx did fun _ => d1).areaHeader d1

/-- A slot's task is a root task of its current domain (R479). -/
def Slot.isRoot (sl : Slot) : Bool := sl.did != 0 && sl.act.did != sl.did

/-- Ranges of a domain that name other packages, with their places in the preserve area: the Beavers of those packages are asked (R478, R482,
R488) to copy them (0), protect them (1), write them back (2), set UNK there (3), make their parity clean (4), or end their protection
(5). DEDUCED (log 19): unsafe. -/
def State.domFar (s : State) (d : Domain) (kind : Nat) (rs : List (W64 × Nat × Nat)) : State :=
  { s with out := s.out ++ rs.filterMap fun r => match placeOf (rewriteEa s.pkg 0 r.1) with
    | .virt (some p) _ => some (.domain p kind d.ctx d.did.toNat r.1 r.2.1 (areaEa d.area r.2.2))
    | _ => none }

/-- The write-protected ranges of a domain. -/
def Domain.protRanges (d : Domain) : List (W64 × Nat × Nat) := (d.pres.filter (·.2.2)).map fun p => (p.1, p.2.1, 0)

/-! ## Abort (R482) -/

/-- Every activation that a frozen core's fault record and store-fault records name is a task of a set of domains (R481). DEDUCED
(log 50): unsafe. -/
def Core.faultsWithin (c : Core) (ds : List (BitVec 4)) : Bool :=
  c.frz.frozen && (fld c.faultRec 224 2 :: (c.sfq.filter (·.v)).map (·.slot.toNat)).all fun k => (c.slot k).live && ds.contains (c.slot k).act.did

/-- Step 1: the tasks of a set of domains end, and a core whose faulting activations have all ended leaves the frozen state. -/
def State.killTasks (s : State) (ctx : Nat) (ds : List (BitVec 4)) : State :=
  let mine (m : Msg) : Bool := m.ctx == ctx && ds.contains m.did
  let cids := (s.cores.filter fun p => s.ctxOf p.1 == ctx).map (·.1)
  let s0 := (s.endSlots cids fun sl => ds.contains sl.act.did).2
  let s1 := (cids.filter fun cid => (s.core cid).faultsWithin ds).foldl
    (fun s cid => s.modCore cid fun c => { c with frz := { c.frz with frozen := false } }) s0
  let s2 := s1.killJobs fun j => j.ctx == ctx && ds.contains j.did
  { s2 with
    msgs := s2.msgs.filter fun m => !mine m
    spills := s2.spills.map fun x => (x.1, x.2.filter fun m => !mine m)
    clusters := s2.clusters.map fun (x : Nat × Cluster) => (x.1, { x.2 with held := x.2.held.filter fun m => !mine m })
    cores := s2.cores.map fun p => (p.1, { p.2.dropRecs mine with sendq := p.2.sendq.filter fun m => !mine m }) }

/-- An abort begins, or begins again: descendants go to state 0, the domain to state 4. DEDUCED (log 67): unsafe. -/
def State.abortDom (s : State) (ctx : Nat) (did : BitVec 4) (failure reexec : Bool) : State :=
  let tree := s.domTree ctx did
  let s1 := s.killTasks ctx tree
  let gone (d : Domain) : Domain :=
    if d.ctx == ctx && tree.contains d.did && d.did != did then { d with state := 0, phase := 0, roots := [] } else d
  let s2 := { s1 with domains := s1.domains.map gone }
  s2.modDom ctx did fun d =>
    let fails := if failure then min 255 (d.fails + 1) else d.fails
    { d with
      state := 4
      back := if d.state == 4 then d.back else d.state
      fails := fails
      phase := 1
      since := s.reft
      byError := failure
      reexec := reexec
      escalate := reexec && (d.noReexec || d.esc ≤ fails)
      reissued := 0 }

/-- The bytes of a line that lie in a range, as a mask. -/
def rangeMask (ea : W64) (n : Nat) (line : W64) : BitVec 64 :=
  let lo := ea.toNat - line.toNat
  let hi := min 64 (ea.toNat + n - line.toNat)
  byteMask lo (hi - lo)

/-- Step 3: snapshots written back with tags and metadata, and UNK set on the checked lines of the output set. -/
def State.restoreDom (s : State) (d : Domain) : State :=
  let s1 := (snapPlan d.pres).foldl (fun s r =>
    let ls := rangeLines r.1 r.2.1
    (ls.zip (List.range ls.length)).foldl (fun s x =>
      match s.vaLeaf d.ctx x.1, s.vaLeaf d.ctx (areaEa d.area (r.2.2 + 64 * x.2)) with
      | some (pa, e), some (qa, _) =>
        let m := rangeMask r.1 r.2.1 x.1
        let snap := s.pocTags (qa / 64)
        let cur := s.pocTags (pa / 64)
        let tags : BitVec 4 := BitVec.ofNat 4 ((List.range 4).foldl (fun acc g =>
          let whole := fld m (16 * g) 16 == 0xFFFF
          acc + (if snap.getLsbD g && (whole || cur.getLsbD g) then 2 ^ g else 0)) 0)
        let s2 := ((s.vaTouch d.ctx (areaEa d.area (r.2.2 + 64 * x.2)) false).vaTouch d.ctx x.1 true).pocWrite (pa / 64) (s.pocLine (qa / 64)) m tags
          none none
        if e.getLsbD 48 then
          match s2.vaLeaf d.ctx (areaEa d.area (r.2.2 + 64 * ls.length + 8 * x.2)) with
          | some (ma, _) => s2.putMeta pa (BitVec.ofNat 64 (s2.pocNat ma 8))
          | none => s2
        else s2
      | _, _ => s) s) s
  let s2 := d.outs.foldl (fun s o => (rangeLines o.1 o.2).foldl (fun s l => match s.vaLeaf d.ctx l with
    | some (pa, e) => if e.getLsbD 48 then s.putMeta pa (metaSetUnk (s.metaAt pa)) else s
    | none => s) s) s1
  (s2.domFar d 2 (snapPlan d.pres)).domFar d 3 (d.outs.map fun o => (o.1, o.2, 0))

/-- Stores of the killed activations are outstanding (step 2). -/
def State.killedOut (s : State) (ctx : Nat) (ds : List (BitVec 4)) : Bool :=
  s.reqs.any fun r => r.org == 0x3FF && 4 ≤ r.slot && r.ctx == ctx && ds.contains r.did && r.op.isStore

/-! ## Closing (R219, R474) -/

/-- The children of a domain that are still open. -/
def State.openKids (s : State) (ctx : Nat) (did : BitVec 4) : List (BitVec 4) :=
  (s.domains.filter fun d => d.ctx == ctx && d.parent == did && d.isOpen).map (·.did)

/-- DCLOSE's effect on an open domain. -/
def State.closeDom (s : State) (ctx : Nat) (did : BitVec 4) : State :=
  s.modDom ctx did fun d => if d.state == 4 then { d with back := 2 } else { d with state := 2 }

/-- A closing by R474, children first. -/
def State.closeTree (s : State) (ctx : Nat) (did : BitVec 4) : State :=
  ((s.domTree ctx did).reverse).foldl (fun s d => match s.dom ctx d with
    | some x => if x.isOpen then s.closeDom ctx d else s
    | none => s) s

end Sys2Proof.Machine
end

