-- ==== Sys2Proof/Machine/Topology.lean ====
section
/-! DEFINITION. The packages as points of the projective plane over GF(31): links, ports, minimal paths (R454 to R457). -/
namespace Sys2Proof.Machine

/-- The normal form of a package's point. -/
def point (p : Nat) : Nat × Nat × Nat :=
  if p < 961 then (p / 31, p % 31, 1) else if p < 992 then (p - 961, 1, 0) else (1, 0, 0)

def dot31 (a b : Nat × Nat × Nat) : Nat := (a.1 * b.1 + a.2.1 * b.2.1 + a.2.2 * b.2.2) % 31

/-- Two packages are orthogonal. -/
def orthogonal (p q : Nat) : Bool := dot31 (point p) (point q) == 0

/-- Two packages are joined by a link. -/
def joined (p q : Nat) : Bool := p != q && orthogonal p q

/-- The inverse of a non-zero element: its 29th power. -/
def inv31 (a : Nat) : Nat := a ^ 29 % 31

/-- The package of a non-zero vector. -/
def pkgOfVec (v : Nat × Nat × Nat) : Nat :=
  let (x, y, z) := v
  if z % 31 != 0 then 31 * (x * inv31 (z % 31) % 31) + y * inv31 (z % 31) % 31
  else if y % 31 != 0 then 961 + x * inv31 (y % 31) % 31
  else 992

/-- The common neighbour of two packages: the cross product of their points. -/
def middle (p q : Nat) : Nat :=
  let (a, b, c) := point p
  let (d, e, f) := point q
  let sub (x y : Nat) : Nat := (x + 31 * 31 - y) % 31
  pkgOfVec (sub (b * f) (c * e), sub (c * d) (a * f), sub (a * e) (b * d))

/-- The points orthogonal to a package, by port. -/
def portList (p : Nat) : List Nat := (List.range 993).filter (orthogonal p)

/-- The package at the other end of a port; none for the unused port of an absolute point. -/
def portPeer (p port : Nat) : Option Nat :=
  match (portList p)[port]? with
  | some q => if q == p then none else some q
  | none => none

/-- The port that leads to a joined package. -/
def portTo (p q : Nat) : Option Nat := indexOf? (· == q) (portList p)

/-- Hops of the minimal path while every link is live. -/
def hops (p q : Nat) : Nat := if p == q then 0 else if joined p q then 1 else 2

/-- The first of a list with the least cost. -/
def argMin {α : Type} (cost : α → Nat) : List α → Option α
  | [] => none
  | a :: t => match argMin cost t with
    | none => some a
    | some b => if cost a ≤ cost b then some a else some b

/-- The nearest of some packages, ties to the lower number (R416). -/
def nearest (r : Nat) (ps : List Nat) : Option Nat := argMin (fun q => hops r q * 1000 + q) ps

end Sys2Proof.Machine
end

