-- ==== Sys2Proof/Machine/Directory.lean ====
section
/-! DEFINITION. The directory of the switch dies: entries, transactions, the table of requests, and what local accesses ask of it
(R412 to R422). Messages that leave are `Out.directory` with a kind: 0 to 3 PutM, PutO, PutE, PutS; 4, 5 forward of a GetS, of a
GetM (the requester in the data); 6 invalidate; 7, 8, 9 grant of S, E, M with the line; 10 grant of M without data; 11
acknowledgement of a Put; 12, 13 acknowledgement of an invalidation, without and with the line; 14 the line written for a reader
that is not granted it; 15 write back and keep S; 16, 17 a holder's line for a requester, kept shared or given up; 32 more, a
poisoned line. -/
namespace Sys2Proof.Machine

def stI : BitVec 3 := 0
def stS : BitVec 3 := 1
def stE : BitVec 3 := 2
def stO : BitVec 3 := 3
def stM : BitVec 3 := 4

/-! ## Entries -/

def State.dirGet (s : State) (pl : Nat) : Option DirEnt := s.dir.ents.find? (·.pline == pl)
def State.dirState (s : State) (pl : Nat) : BitVec 3 := ((s.dirGet pl).map (·.state)).getD stI
def State.transAt (s : State) (pl : Nat) : Option Trans := s.dir.trans.find? (·.pline == pl)

/-- The primary S-die of a line (R412), or the one that is left. -/
def State.primary (s : State) (pl : Nat) : Nat :=
  let d := pl / 64 % 2
  if vget s.dir.live d true then d else 1 - d

/-- A directory counter raised. -/
def State.countD (s : State) (pl i n : Nat) : State :=
  let k := 16 * s.primary pl + i
  { s with dir := { s.dir with count := tblSet k (tblGetD s.dir.count k 0 + BitVec.ofNat 64 n) s.dir.count } }

/-- A directory message that leaves, with a line and its granule tags (R146), or without them. -/
def State.outLine (s : State) (kind p pl : Nat) (d : W512) (t : BitVec 4) : State := { s with out := s.out ++ [.directory kind p pl d t] }
def State.outDir (s : State) (kind p pl : Nat) (d : W512) : State := s.outLine kind p pl d 0

/-- The export count of a 64 KiB page: its lines whose state is not I (R417). -/
def State.exportCount (s : State) (page : Nat) : Nat := (s.dir.ents.filter fun e => e.pline / 1024 == page && e.state != stI).length

/-- The EXP bit of a home line set or cleared. -/
def State.setExp (s : State) (pl : Nat) (b : Bool) : State :=
  match s.llcHome pl with
  | none => s
  | some l =>
    let m := l.pos.1
    s.setMdie m { s.mdie m with llc := replaceFirst (fun x => !x.frn && x.line == pl) (fun x => { x with exp := b }) (s.mdie m).llc }

/-- An entry put first, as the most recently used; one in state I leaves. -/
def State.dirPut (s : State) (e : DirEnt) : State :=
  let rest := s.dir.ents.filter (·.pline != e.pline)
  let s1 := { s with dir := { s.dir with ents := if e.state == stI then rest else e :: rest } }
  s1.setExp e.pline (e.state != stI)

/-- The packages that an entry's sharers may be. -/
def DirEnt.sharers (e : DirEnt) : List Nat :=
  if e.crs then e.shr.flatMap fun j => (List.range 16).map (· + 16 * j) else e.shr

/-- A package added to the sharers; a fifth pointer makes the vector coarse. -/
def DirEnt.addSharer (e : DirEnt) (r : Nat) : DirEnt :=
  if e.crs then { e with shr := insNat (r / 16) e.shr }
  else if e.shr.contains r then e
  else if e.shr.length < 4 then { e with shr := e.shr ++ [r] }
  else { e with crs := true, shr := (e.shr ++ [r]).foldl (fun l p => insNat (p / 16) l) [] }

/-- Every package other than this one that an invalidation of an entry addresses, but for `r`. -/
def State.addressed (s : State) (e : DirEnt) (r : Nat) : List Nat :=
  (e.sharers ++ (if e.state == stE || e.state == stO || e.state == stM then [e.owner] else [])).eraseDups.filter fun p =>
    p != r && p != s.pkg.toNat && p < 993 && !s.fab.lost.contains (.package p)

/-! ## Transactions -/

/-- A transaction begun, with invalidations to the packages it waits for. -/
def State.beginTrans (s : State) (t : Trans) (kind : Nat) : State :=
  let s1 := t.wait_.foldl (fun s p => s.outDir kind p t.pline 0) s
  let s2 := if kind == 6 then s1.countD t.pline 5 t.wait_.length else s1
  { s2 with dir := { s2.dir with trans := s2.dir.trans ++ [{ t with since := s.reft }] } }

/-- The grant of a request whose invalidations are complete: from the home, or by a forward to the owner. -/
def State.grantM (s : State) (t : Trans) : State :=
  match s.dirGet t.pline with
  | none => s
  | some e =>
    let s1 :=
      if e.state == stO && e.owner != t.req then (s.countD t.pline 3 1).outDir 5 e.owner t.pline (BitVec.ofNat 512 t.req)
      else if t.home then (s.countD t.pline 4 1).outLine 9 t.req t.pline (s.pocLine t.pline) (s.pocTags t.pline)
      else s.outDir 10 t.req t.pline 0
    s1.dirPut { e with state := stM, owner := t.req, shr := [], crs := false }

/-- A transaction whose acknowledgements are in ends (R416 to R418). -/
def State.endTrans (s : State) (t : Trans) : State :=
  let s1 := { s with dir := { s.dir with trans := s.dir.trans.filter (·.pline != t.pline) } }
  match s1.dirGet t.pline with
  | none => s1
  | some e =>
    if t.local_.isSome && !t.getM then
      s1.dirPut { e with state := stS, shr := (e.addSharer e.owner).shr, crs := (e.addSharer e.owner).crs }
    else if t.local_.isSome || t.recalled then s1.dirPut { e with state := stI }
    else s1.grantM t

/-- A transaction that waits for nobody ends at once. -/
def State.settle (s : State) (pl : Nat) : State :=
  match s.transAt pl with
  | some t => if t.wait_.isEmpty then s.endTrans t else s
  | none => s

/-- Every copy of a line is called in: sharers invalidated, the owner's line written back (R418). -/
def State.recallLine (s : State) (pl : Nat) (lost : Bool) : State :=
  match s.dirGet pl, s.transAt pl with
  | some e, none =>
    if 4096 ≤ s.dir.trans.length then s
    else (s.beginTrans { pline := pl, recalled := true, lost := lost, wait_ := s.addressed e 0x3FF } 6).settle pl
  | _, _ => s

/-- An entry whose copies are both unreadable: every package that may hold the line is asked, as under CRS = 1 (R421). -/
def State.bothLost (s : State) (pl : Nat) : State :=
  match s.dirGet pl with
  | none => s
  | some e => (s.dirPut { e with state := if e.state == stI then stS else e.state, crs := true, shr := List.range 63 }).recallLine pl true

/-- The entries of a line's set. -/
def State.dirSet (s : State) (pl : Nat) : List DirEnt := s.dir.ents.filter fun e => e.pline % 65536 == pl % 65536

/-- A line that a handler run holds at its home (R295). DEDUCED (log 13): unsafe. -/
def State.lineHeld (s : State) (pl : Nat) : Bool := s.reqs.any fun q => q.stage == .handler && q.ea.getLsbD 63 && q.pa / 64 == pl

/-- Room for a request's entry and record: none where it must wait, the least recently used entry of a full set being recalled, one at a time
(R414, R418). -/
def State.dirRoom (s : State) (pl : Nat) : Except State State :=
  if (s.transAt pl).isSome || s.lineHeld pl || 4096 ≤ s.dir.trans.length then .error s
  else if (s.dirGet pl).isSome || (s.dirSet pl).length < 16 then .ok s
  else if (s.dirSet pl).any fun e => (s.transAt e.pline).any (·.recalled) then .error s
  else match ((s.dirSet pl).filter fun e => (s.transAt e.pline).isNone).getLast? with
    | none => .error s
    | some e =>
      let s1 := (s.countD e.pline 6 1).recallLine e.pline false
      if (s1.dirSet pl).length < 16 then .ok s1 else .error s1

/-- A Put from package `r`: the data of a PutM or PutO written at the home, and the acknowledgement (R416, R419). A sharer's data are
those of a line that it wrote while the directory had it in state E; they are written as an owner's. DEDUCED (log 75): unsafe. -/
def State.putFrom (s : State) (r pl : Nat) (data : Option (W512 × BitVec 4)) : State :=
  if (s.transAt pl).isSome then s
  else
    let ack (s : State) : State := s.outDir 11 r pl 0
    match s.dirGet pl with
    | none => ack s
    | some e =>
      let s1 := match data with
        | some d => s.pocWrite pl d.1 (BitVec.allOnes 64) d.2 none none
        | none => s
      if e.state == stS && data.isSome && e.sharers.contains r then
        let l := if e.crs then e.shr else e.shr.filter (· != r)
        ack (s1.dirPut { e with shr := l, state := if l.isEmpty then stI else stS })
      else if !((e.state == stE || e.state == stO || e.state == stM) && e.owner == r) then ack s
      else
        if e.state == stO && data.isSome then ack (s1.dirPut { e with state := if e.shr.isEmpty then stI else stS })
        else if data.isSome || e.state == stE then ack (s1.dirPut { e with state := stI })
        else ack s

/-- PutS from package `r`. -/
def State.putShared (s : State) (r pl : Nat) : State :=
  if (s.transAt pl).isSome then s
  else
    let s1 := s.outDir 11 r pl 0
    match s.dirGet pl with
    | none => s1
    | some e =>
      if e.state != stS || e.crs then s1
      else
        let l := e.shr.filter (· != r)
        s1.dirPut { e with shr := l, state := if l.isEmpty then stI else stS }

/-- An acknowledgement from package `p`, with the line when it was dirty. -/
def State.invAck (s : State) (p pl : Nat) (dirty : Option (W512 × BitVec 4)) : State :=
  match s.transAt pl with
  | none => s
  | some t =>
    if !t.wait_.contains p then s
    else
      let s1 := match dirty with
        | some d => s.pocWrite pl d.1 (BitVec.allOnes 64) d.2 none none
        | none => s
      let t1 := { t with wait_ := t.wait_.filter (· != p) }
      { s1 with dir := { s1.dir with trans := replaceFirst (·.pline == pl) (fun _ => t1) s1.dir.trans } }.settle pl

/-- The line of a request that waits. -/
def DirReq.line : DirReq → Nat
  | .gets _ pl _ _ => pl
  | .getm _ pl _ _ => pl
  | .put _ pl _ => pl
  | .puts _ pl => pl
  | .both pl => pl

/-! ## Local accesses (R417) -/

/-- A local access of a coherent-global line may be performed: none where it may, else the state in which the directory calls
the copies in. -/
def State.consult (s : State) (id pl : Nat) (write : Bool) : Option State :=
  let asks := match s.llcHome pl with
    | some l => l.exp
    | none => s.exportCount (pl / 1024) != 0
  if !asks then none
  else if (s.transAt pl).isSome || s.dir.queue.any (·.line == pl) then some s
  else match s.dirGet pl with
    | none => none
    | some e =>
      if e.state == stI then none
      else if write then
        let t : Trans := { pline := pl, getM := true, wait_ := s.addressed e 0x3FF, local_ := some id }
        if t.wait_.isEmpty then (if 4096 ≤ s.dir.trans.length then some s else some ((s.beginTrans t 6).settle pl))
        else if 4096 ≤ s.dir.trans.length then some s else some (s.beginTrans t 6)
      else if e.state == stS then none
      else if 4096 ≤ s.dir.trans.length then some s
      else some ((s.beginTrans { pline := pl, wait_ := [e.owner], local_ := some id } 15).settle pl)

/-! ## Requests (R413, R416) -/

/-- The entry of a request's line, made anew for the first one; none where the line is mapped otherwise (R413). -/
def State.dirEntry (s : State) (pl ctx vpn : Nat) : Option DirEnt :=
  match s.dirGet pl with
  | none => some { ctx := ctx, vpn := vpn, pline := pl }
  | some e => if e.ctx == ctx && e.vpn == vpn then some e else none

/-- A request for a line that is mapped otherwise, served as a plain remote request at the home: an owner's data are written back as for a
local read, and the line is answered without a right to keep it; a write then comes to the home as an ordinary one (R413). Whether it is
done, and the state. DEDUCED (log 75): unsafe. -/
def State.plainServe (s : State) (r pl : Nat) : Bool × State :=
  let answer (s : State) : State := (s.countD pl 4 1).outLine 14 r pl (s.pocLine pl) (s.pocTags pl)
  match s.consult 0 pl false with
  | some s' => if (s'.transAt pl).isSome then (false, s') else (true, answer s')
  | none => (true, answer s)

/-- GetS from package `r`: whether it is done, and the state. -/
def State.getS (s0 : State) (r pl ctx vpn : Nat) : Bool × State :=
  match s0.dirRoom pl with
  | .error s' => (false, s')
  | .ok s =>
    match s.dirEntry pl ctx vpn with
    | none => s.plainServe r pl
    | some e =>
      let req : W512 := BitVec.ofNat 512 r
      let owns := (e.state == stE || e.state == stO || e.state == stM) && e.owner == r
      if !owns && !e.crs && e.state == stO && e.shr.contains r then
        (true, (((s.countD pl 8 1).countD pl 2 1).outDir 4 e.owner pl req).dirPut e)
      else if owns || (!e.crs && e.state == stS && e.shr.contains r) then
        let right := if !owns then 7 else if e.state == stE then 8 else if e.state == stM then 9 else 14
        (true, (((s.countD pl 8 1).countD pl 4 1).outLine right r pl (s.pocLine pl) (s.pocTags pl)).dirPut e)
      else if e.state == stI then
        (true, (((s.countD pl 4 1).outLine 8 r pl (s.pocLine pl) (s.pocTags pl))).dirPut { e with state := stE, owner := r, shr := [], crs := false })
      else if e.state == stS then
        if e.crs then (true, ((s.countD pl 4 1).outLine 7 r pl (s.pocLine pl) (s.pocTags pl)).dirPut (e.addSharer r))
        else
          let h := (nearest r e.shr).getD 0
          (true, ((s.countD pl 2 1).outDir 4 h pl req).dirPut (e.addSharer r))
      else
        let s1 := (s.countD pl 2 1).outDir 4 e.owner pl req
        (true,
          if e.state == stE then s1.dirPut { (({ e with shr := [], crs := false } : DirEnt).addSharer e.owner).addSharer r with state := stS }
          else if e.state == stO then s1.dirPut (e.addSharer r)
          else s1.dirPut { ({ e with shr := [], crs := false } : DirEnt).addSharer r with state := stO })

/-- GetM from package `r`: whether it is done, and the state. A line that a domain write-protects is not granted for writing; its write comes
to the home and is refused there (R476). DEDUCED (log 19): unsafe. -/
def State.getM (s0 : State) (r pl ctx vpn : Nat) : Bool × State :=
  if s0.protLine pl then s0.plainServe r pl
  else match s0.dirRoom pl with
  | .error s' => (false, s')
  | .ok s =>
    match s.dirEntry pl ctx vpn with
    | none => s.plainServe r pl
    | some e =>
      if (e.state == stM || e.state == stE) && e.owner == r then
        (true, (((s.countD pl 8 1).countD pl 4 1).outLine 9 r pl (s.pocLine pl) (s.pocTags pl)).dirPut e)
      else if e.state == stI then
        (true, ((s.countD pl 4 1).outLine 9 r pl (s.pocLine pl) (s.pocTags pl)).dirPut { e with state := stM, owner := r, shr := [], crs := false })
      else if e.state == stE || e.state == stM then
        (true, ((s.countD pl 3 1).outDir 5 e.owner pl (BitVec.ofNat 512 r)).dirPut { e with state := stM, owner := r, shr := [], crs := false })
      else
        let shr := e.sharers.filter fun p => p != r && p != s.pkg.toNat && p < 993 && !s.fab.lost.contains (.package p) && !(e.state == stO && p == e.owner)
        let home := !(if e.state == stO then e.owner == r else !e.crs && e.shr.contains r)
        (true, ((s.dirPut e).beginTrans { pline := pl, req := r, getM := true, wait_ := shr, home := home } 6).settle pl)

/-! ## The order of requests on a line (R415) -/

/-- A request served, if its turn has come: whether it is done, and the state. -/
def State.dirServe (s : State) (q : DirReq) : Bool × State :=
  match q with
  | .gets r pl ctx vpn => s.getS r pl ctx vpn
  | .getm r pl ctx vpn => s.getM r pl ctx vpn
  | .put r pl d => if (s.transAt pl).isSome then (false, s) else (true, s.putFrom r pl d)
  | .puts r pl => if (s.transAt pl).isSome then (false, s) else (true, s.putShared r pl)
  | .both pl => if (s.transAt pl).isSome || 4096 ≤ s.dir.trans.length then (false, s) else (true, s.bothLost pl)

/-- The requests that wait are served, each where no earlier one of its line waits still. -/
def State.dirDrain (s : State) : State :=
  s.dir.queue.foldl (fun s q =>
    if (s.dir.queue.find? fun x => x.line == q.line) != some q then s
    else
      let s1 := { s with dir := { s.dir with queue := removeFirst (· == q) s.dir.queue } }
      let x := s1.dirServe q
      if x.1 then x.2 else { x.2 with dir := { x.2.dir with queue := s.dir.queue } }) s

/-- A request reaches the directory: it is served, or waits behind what its line has in progress and in its queue. -/
def State.dirOffer (s : State) (q : DirReq) : State :=
  let wait (s : State) : State := { s with dir := { s.dir with queue := s.dir.queue ++ [q] } }
  if s.dir.queue.any fun x => x.line == q.line then wait s
  else
    let x := s.dirServe q
    if x.1 then x.2 else wait x.2

/-! ## Foreign lines held here (R416, R419) -/

def cstS : BitVec 2 := 0
def cstE : BitVec 2 := 1
def cstO : BitVec 2 := 2
def cstM : BitVec 2 := 3

def isForeign (h ctx vline : Nat) (l : LlcLine) : Bool := l.frn && l.pkg == h && l.ctx == ctx && l.line == vline

/-- A foreign line dropped. -/
def State.foreignDrop (s : State) (h ctx vline : Nat) : State :=
  let m := (vline % 8 + h) % 6
  s.setMdie m { s.mdie m with llc := (s.mdie m).llc.filter fun l => !isForeign h ctx vline l }

/-- A foreign line's state changed. -/
def State.foreignState (s : State) (h ctx vline : Nat) (c : BitVec 2) : State :=
  let m := (vline % 8 + h) % 6
  s.setMdie m { s.mdie m with llc := replaceFirst (isForeign h ctx vline) (fun l => { l with cst := c }) (s.mdie m).llc }

/-- The buffered line of a Put in flight. -/
def State.wbLine (s : State) (h ctx vline : Nat) : Option WbEnt := s.dir.wbBuf.find? fun x => x.pkg == h && x.ctx == ctx && x.line == vline

/-- The kind of a message with a buffered line. -/
def WbEnt.outKind (w : WbEnt) (k : Nat) : Nat := if w.bad then 32 + k else k

/-- A forward of the home's directory answered by the holder. With the home itself as requester the line is written back and
kept shared. -/
def State.forwardLine (s : State) (h ctx vline r : Nat) (excl : Bool) : State :=
  match s.llcForeign h ctx vline with
  | some l =>
    let s1 := { s.outLine (l.outKind (if excl then 17 else 16)) r l.hline (s.lineOut l) l.tags with fresh := s.fresh + 1 }
    if excl then s1.foreignDrop h ctx vline
    else s1.foreignState h ctx vline (if r == h || l.cst == cstE || l.cst == cstS then cstS else cstO)
  | none =>
    match s.wbLine h ctx vline with
    | some w => s.outLine (w.outKind (if excl then 17 else 16)) r w.hline w.data w.tags
    | none => s

/-- An invalidation from a home: the line is dropped, a fill of it in flight is not installed, and the home is answered: with the line
where it is dirty here or in a Put in flight. The answer for a line that is not here names it as the message did. DEDUCED (log 75):
unsafe. -/
def State.invalidateLine (s : State) (h ctx vline : Nat) : State :=
  let mark (r : Req) : Req :=
    if r.org == 0x3FF && r.stage == .fabric && fld r.ea 53 10 == h && r.ctx == ctx && fld r.ea 6 47 == vline then
      { r with keep := r.keep && r.op != .load && r.op != .fill, llcKeep := false }
    else r
  let s0 := { s with reqs := s.reqs.map mark }
  match s0.llcForeign h ctx vline with
  | some l =>
    let dirty := l.cst == cstM || l.cst == cstO
    { (s0.foreignDrop h ctx vline).outLine (if dirty then l.outKind 13 else 12) h l.hline (if dirty then s.lineOut l else 0) (if dirty then l.tags else 0) with
      fresh := s.fresh + 1 }
  | none =>
    match s0.wbLine h ctx vline with
    | some w => s0.outLine (if w.dirty then w.outKind 13 else 12) h w.hline (if w.dirty then w.data else 0) (if w.dirty then w.tags else 0)
    | none => s0.outDir 12 h vline 0

end Sys2Proof.Machine
end

