-- ==== Sys2Proof/Machine/ExecCtl.lean ====
section
/-! DEFINITION. The control instructions, opcodes 0x30 to 0x38 (R121 to R130), ACTEND apart. -/
namespace Sys2Proof.Machine

/-- The target of a word offset (R93, R121). -/
def branchTo (i : Ins) (sl : Slot) : W64 := sl.pc + i.immS * 4

/-- NOP (R130). -/
def nopOp (i : Ins) (s : State) : Res := execReg i {} false 0 (fun sl => .ok sl) s

def bOp (i : Ins) (s : State) : Res := execSlot i {} false 0 (fun sl => .ok (sl, some (branchTo i sl))) s

/-- BP tests a presence bit without reading the register (R124). -/
def bpOp (i : Ins) (s : State) : Res :=
  execSlot i {} false 0 (fun sl =>
    if sl.mbp.getLsbD (i.a.toNat - 56) != i.mod.getLsbD 0 then .ok (sl, some (branchTo i sl)) else .ok (sl, none)) s

/-- The capability of the next instruction (R124, R125): tagged unless its bounds changed. -/
def linkCap (sl : Slot) (len : Nat) : GReg × BitVec 10 :=
  let n := capWithAddr sl.pcc (sl.pc + BitVec.ofNat 64 len)
  let keep := capSame sl.pcc n
  ({ val := n, tag := keep }, if keep then 0 else wCAPCLR)

def callOp (i : Ins) (s : State) : Res :=
  execSlot i { dg := [1] } false 0 (fun sl =>
    let l := linkCap sl i.len
    .ok ((sl.addWarn l.2).writeG 1 l.1, some (branchTo i sl))) s

/-- The check of a jump's target capability (R125). DEDUCED (log 53): unsafe. -/
def jumpCheck (x : GReg) (r : RegNo) : Option Trap :=
  let a := x.val.extractLsb' 0 64
  if !x.tag then some (capTrap 1 r a)
  else if fld x.val 124 4 != 0 || capKind x.val != 0 then some (capTrap 2 r a)
  else if !hasPerm x.val pEXEC then some (capTrap 3 r a)
  else if fld a 0 2 != 0 then some { cause := cSTRADDLE, addr := a }
  else none

/-- JMP; RET has the same effect with d = 0. -/
def jmpOp (i : Ins) (d : RegNo) (s : State) : Res :=
  execSlot i { g := [i.a], dg := [d] } false 0 (fun sl =>
    let x := sl.readG i.a
    match jumpCheck x i.a with
    | some t => .error t
    | none =>
      let l := linkCap sl i.len
      let sl1 := { (sl.addWarn l.2).writeG d l.1 with pcc := x.val, pccTag := true }
      .ok (sl1, some (x.val.extractLsb' 0 64))) s

/-- LOOP (R126): a zero count passes the body, which is a taken transfer; else the body starts next. -/
def loopOp (i : Ins) (s : State) : Res :=
  execSlot i { g := [i.a] } false 0 (fun sl =>
    let cnt := sl.g64 i.a
    if cnt == 0 then .ok ({ sl with loop := { sl.loop with lact := false } }, some (branchTo i sl))
    else .ok ({ sl with loop := { lact := true, lstart := sl.pc + BitVec.ofNat 64 i.len, lend := branchTo i sl, lcnt := cnt } }, none)) s

/-- The conditions of WAIT that hold (R128). -/
def waitFired (reft : W64) (sl : Slot) (conds : BitVec 4) (deadline : W64) : Nat :=
  let hold := b2n sl.msgl + 2 * b2n sl.jobl + 4 * b2n (deadline ≤ reft) + 8 * b2n (sl.mbp != 0)
  hold &&& conds.toNat

/-- WAIT ends: the latches that fired are cleared and the set is written. -/
def waitDone (sl : Slot) (d : RegNo) (fired : Nat) : Slot :=
  { sl with msgl := sl.msgl && !fired.testBit 0, jobl := sl.jobl && !fired.testBit 1 }.putG d fired

def execNop (f : FR) (s : State) : Res := nopOp (insR f) s
def execNopF96 (f : FX) (s : State) : Res := nopOp (insX f) s
def execNopF128 (f : FL) (s : State) : Res := nopOp (insL f) s
def execB (f : FI) (s : State) : Res := bOp (insI f) s
def execBF96 (f : FX) (s : State) : Res := bOp (insX f) s
def execBp (f : FI) (s : State) : Res := bpOp (insI f) s
def execBpF96 (f : FX) (s : State) : Res := bpOp (insX f) s
def execCall (f : FI) (s : State) : Res := callOp (insI f) s
def execCallF96 (f : FX) (s : State) : Res := callOp (insX f) s
def execJmp (f : FR) (s : State) : Res := jmpOp (insR f) f.d s
def execRet (f : FR) (s : State) : Res := jmpOp (insR f) 0 s
def execLoop (f : FI) (s : State) : Res := loopOp (insI f) s
def execLoopF96 (f : FX) (s : State) : Res := loopOp (insX f) s

/-- WAIT ends at once when a condition holds; else the slot sleeps until WAIT_WAKE (R128). With `.mbox` and a deadline in a mailbox
register, the presence bits are tested after the deadline's read has cleared its own. DESIGN CHOICE (log 69): unsafe. -/
def execWait (f : FR) (s : State) : Res :=
  let i := insR f
  execState i { g := if f.sub.getLsbD 2 then [i.a] else [], dg := [i.d] } false 0 (fun cid k sl =>
    let conds := f.sub.extractLsb' 0 4
    let fired := waitFired s.reft sl conds (sl.g64 i.a)
    if fired == 0 then .next (s.sleepSlot cid k { sl with run := .sleeping (.wait i.d conds (sl.g64 i.a)) })
    else .next (s.retire cid k (waitDone sl i.d fired) i.len none)) s

/-- YIELD: the slot issues nothing until 16 cycles have passed, or until no other slot of the core can issue (R129). -/
def execYield (f : FR) (s : State) : Res :=
  execState (insR f) {} false 0 (fun cid k sl =>
    let s1 := s.retire cid k sl 8 none
    .next (s1.modSlot cid k fun x => { x with run := .sleeping (.yield (s.cycOf cid + 16)) })) s

end Sys2Proof.Machine
end

