-- ==== Sys2Proof/Machine/ExecStream.lean ====
section
/-! DEFINITION. Streams: SBIND, SFREE, SSTAT, the pop and the push of VMOV, and the fetches and writes that streams make (R35,
R193 to R200, R258). -/
namespace Sys2Proof.Machine

def illegalField : Trap := { cause := cILLEGAL_FIELD }

def Slot.stream (sl : Slot) (k : Nat) : Stream := vget sl.st k {}
def Slot.setStream (sl : Slot) (k : Nat) (x : Stream) : Slot := { sl with st := vset sl.st k x }
/-- SFREE. -/
def Slot.freeStream (sl : Slot) (k : Nat) : Slot := sl.setStream k {}

/-- The number of the stream that a register field names. -/
def streamNo (r : RegNo) : Nat := r.toNat % 4

/-! ## Binding (R193 to R196) -/

/-- The format of the named region that holds a local offset (R258). -/
def Core.regionFmt (c : Core) (off : Nat) : Option Nat :=
  ((c.regions.toList.take c.nrgn).find? fun r => rgnKind r ≤ 1 && rgnBase r ≤ off && off < rgnBase r + rgnSize r).map rgnFmt

/-- The input format of a descriptor over a capability: with REGFMT, that of the named region of the core that holds the base, whatever
the code in IFMT. DESIGN CHOICE (log 70): unsafe. -/
def State.inputFmt (s : State) (cid : Nat) (c : W128) (d : W512) : Option Nat :=
  if sdRegfmt d then
    match placeOf (eaOf s.pkg cid c 0).2 with
    | .localMem none core self false off =>
      (s.core (if self || (ownLocal cid (eaOf s.pkg cid c 0).2).isSome then cid else s.targetCid (s.lidOf cid) core)).regionFmt off
    | _ => none
  else some (sdIfmt d)

/-- The local offsets of the tables of a chain's LUT steps. -/
def lutOffs (d : W512) : List Nat := ((sdChain d).filter fun x => stOpc x == 5).map fun x => stParam x * 64

/-- The bytes that an item of a stream takes in memory: an input element or block, or a written element. -/
def itemBytes (ifmt fin : Nat) (wr : Bool) : Nat := if wr then tyBytes fin else inBytes ifmt

/-- The check of the lowest and the highest byte of a pattern. DEDUCED (log 15): unsafe. -/
def extentCheck (s : State) (cid : Nat) (sl : Slot) (r : RegNo) (d : W512) (w : Nat) (wr : Bool) : Option Trap :=
  if sdPositions d == 0 then none
  else
    let e := sdExtent d w
    match accessCheck s.pkg cid sl r (BitVec.ofInt 64 e.1) 1 (if wr then pST else pLD) 1 with
    | .error t => some t
    | .ok _ =>
      match accessCheck s.pkg cid sl r (BitVec.ofInt 64 e.2) 1 (if wr then pST else pLD) 1 with
      | .error t => some t
      | .ok _ => none

/-- SBIND with its descriptor: the stream stays unbound where a check of R196 fails. The tables of its LUT steps are reads of local memory,
which wait for the slot's earlier acquires and for earlier accesses to their bytes (R138, R321). DEDUCED (log 15): unsafe. -/
def sbindOp (i : Ins) (u : Uses) (desc : Slot → Except Trap W512) (s : State) : Res :=
  execState i u false 0 (fun cid k sl =>
    let n := streamNo i.d
    let wr := i.mod.getLsbD 0
    let fail (t : Trap) : Res := .next ((s.modSlot cid k fun x => x.freeStream n).preciseFault cid k t)
    match desc sl with
    | .error t => .next (s.preciseFault cid k t)
    | .ok d =>
      match s.inputFmt cid (sl.readG i.a).val d with
      | none => fail illegalField
      | some t =>
        if !sdLegal d t wr then fail illegalField
        else
          let fin := (chainFmt t (sdChain d)).getD 5
          match extentCheck s cid sl i.a d (itemBytes t fin wr) wr with
          | some tr => fail tr
          | none =>
            let bad := (lutOffs d).filter fun o => errIn s.errs (lmKey cid o) 64 8 true
            if !(lutOffs d).isEmpty && (acqOut s.accs cid k || (lutOffs d).any fun o => s.ownAhead cid o 64) then .next (s.stall cid k .stall)
            else if !bad.isEmpty then
              .next (s.freeze cid k { cause := cUNCORR, addr := errEa s.errs (lmKey cid (bad.headD 0)) 64 8 (coreAddr (coreNo cid) (bad.headD 0)) })
            else if (lutOffs d).any fun o => s.lmMarks cid o 64 != 0 then .next (s.preciseFault cid k { cause := cEXPIRED })
            else
              let luts := (lutOffs d).map fun o => ofBytes 512 (s.lmRead cid o 64)
              let x : Stream := { state := if wr then 2 else 1, desc := d, cap := (sl.readG i.a).val, ifmt := BitVec.ofNat 5 t, luts := luts }
              let s1 := (lutOffs d).foldl (fun s o => s.countCorr cid o 64) s
              .next (s1.retire cid k (sl.setStream n x) i.len none)) s

def execSbind (f : FR) (s : State) : Res :=
  let i := insR f
  sbindOp i { g := [i.a], v := [i.b] } (fun sl => sl.useV i.b (BitVec.allOnes 64)) s

/-- The descriptor of the F128 form: one dimension and no steps. -/
def execSbindF128 (f : FL) (s : State) : Res :=
  let i := insL f
  sbindOp i { g := [i.a] } (fun _ => .ok (packFields 512 [(0, 64, i.imm), (480, 5, i.sub.toNat)])) s

def execSfree (f : FR) (s : State) : Res := execReg (insR f) {} false 0 (fun sl => .ok (sl.freeStream (streamNo f.a))) s

/-- The word that SSTAT writes (R200); QCNT counts entries whose reads are still in flight. DESIGN CHOICE (log 70): unsafe. -/
def sstatVal (x : Stream) : Nat :=
  if x.state == 0 then 0
  else min (x.total - x.moved) 0xFFFFFFFF * 2 ^ 32 + b2n x.ovr * 128 + b2n x.fin * 64 + x.queue.length * 8 + x.state.toNat

def execSstat (f : FR) (s : State) : Res :=
  execReg (insR f) { dg := [f.d] } false 0 (fun sl => .ok (sl.putG f.d (sstatVal (sl.stream (streamNo f.a))))) s

/-! ## Pop and push (R199) -/

/-- Elements of the next entry. -/
def Stream.step (x : Stream) : Nat := min x.perEntry (x.total - x.moved)

/-- VMOV.pop. A wrong or absent binding faults also where no lane is active. While an acquire of the slot is still to act, it waits. DESIGN
CHOICE (log 70): unsafe. -/
def execVmovPop (f : FR) (s : State) : Res :=
  let i := insR f
  execState i { dv := [i.d] } true (warnA i.mod (if tInt i.ty then 0 else i.ty) false false false) (fun cid k sl =>
    let n := streamNo i.a
    let x := sl.stream n
    let bytes := activeBytes (sl.laneMask i.pred) (tyBytes i.ty)
    if x.state != 1 then .next (s.preciseFault cid k illegalField)
    else if bytes == 0 then .next (s.retire cid k sl i.len none)
    else if acqOut s.accs cid k then .next (s.stall cid k .stall)
    else if x.total ≤ x.moved then
      .next (s.retire cid k ((sl.putV i.d bytes 0).setStream n { x with fin := true }) i.len none)
    else match x.queue with
      | [] => .next (s.stall cid k (.block (.stream n)))
      | e :: rest =>
        match e.trap with
        | some t => .next (s.preciseFault cid k t)
        | none =>
          if e.left != 0 then .next (s.stall cid k (.block (.stream n)))
          else
            let sl1 := (sl.copyV i.d bytes e.data e.expired).setStream n { x with queue := rest, moved := x.moved + x.step }
            .next (s.retire cid k sl1 i.len none)) s

/-- A slot whose register `r` holds a stream's capability. -/
def Slot.withCap (sl : Slot) (r : RegNo) (c : W128) : Slot := { sl with g := vset sl.g r.toNat { val := c, tag := true } }

/-- The checked address of an item of a stream. -/
def streamItem (s : State) (cid : Nat) (sl : Slot) (x : Stream) (p n : Nat) (store : Bool) : Except Trap (W64 × W64) :=
  match memCheck s cid (sl.withCap 1 x.cap) 1 (BitVec.ofInt 64 (sdOffset x.desc p)) n (if store then pST else pLD) 1 store with
  | .error t => .error { t with reg := 0 }
  | .ok a => .ok a

/-- The first fault of the stores of a pushed entry, which the push itself meets. DESIGN CHOICE (log 70): unsafe. -/
def pushBad (s : State) (cid : Nat) (sl : Slot) (x : Stream) : List Nat → Option Trap
  | [] => none
  | p :: ps => match streamItem s cid sl x p (tyBytes x.fmt) true with
    | .error t => some t
    | .ok _ => pushBad s cid sl x ps

/-- VMOV.push. A wrong or absent binding faults also where no lane is active. DESIGN CHOICE (log 70): unsafe. -/
def execVmovPush (f : FR) (s : State) : Res :=
  let i := insR f
  execState i { v := [i.a] } true (warnA i.mod (if tInt i.ty then 0 else i.ty) false false false) (fun cid k sl =>
    let n := streamNo i.d
    let x := sl.stream n
    let bytes := activeBytes (sl.laneMask i.pred) (tyBytes i.ty)
    if x.state != 2 then .next (s.preciseFault cid k illegalField)
    else match sl.useV i.a bytes with
      | .error t => .next (s.preciseFault cid k t)
      | .ok d =>
        if bytes == 0 then .next (s.retire cid k sl i.len none)
        else if x.total ≤ x.moved then .next (s.retire cid k (sl.setStream n { x with ovr := true }) i.len none)
        else if 4 ≤ x.queue.length then .next (s.stall cid k (.block (.stream n)))
        else match pushBad s cid sl x ((List.range x.step).map (· + x.moved)) with
          | some t => .next (s.preciseFault cid k t)
          | none =>
            let e : StreamEnt := { data := d &&& maskBits bytes, pc := sl.pc }
            .next (s.retire cid k (sl.setStream n { x with queue := x.queue ++ [e], moved := x.moved + x.step }) i.len none)) s

/-! ## The accesses of streams (R197, R198) -/

/-- The translation of an address for a unit that walks for itself: the TLBs, else a walk whose result they keep. DEDUCED (log 15): unsafe. -/
def State.xlateNow (s : State) (cid k va : Nat) (need : Need) : Xl × State :=
  match s.xlate cid k va need true with
  | .miss =>
    let ctx := s.ctxOf cid
    match s.walkAD ctx va need true with
    | (.fault c, s1) => (.refuse c, s1)
    | (.leaf e level _, s1) =>
      (.ok (xlatePa e level va) (attrOf e),
        if e.getLsbD 53 then s1 else s1.tlbInstall cid { ctx := ctx, vpage := va / 2 ^ pageBits level, level := level, entry := e })
  | x => (x, s)

/-- Parts with their translations; a refused one carries its cause. -/
def State.planNow (s : State) (cid k : Nat) (need : Need) : List Piece → List Piece × State
  | [] => ([], s)
  | p :: ps =>
    let (q, s1) : Piece × State := match placeOf p.ea with
      | .localMem _ _ _ _ _ => (p, s)
      | .virt (some _) va => (if inCtl va then { p with bad := some xWINDOW } else p, s)
      | .virt none va =>
        if inCtl va then (if inWindow va p.len then { p with attr := { ord := 0 } } else { p with bad := some xWINDOW }, s)
        else match s.xlateNow cid k va need with
          | (.ok pa attr, s1) => ({ p with pa := pa, attr := attr }, s1)
          | (.refuse c, s1) => ({ p with bad := some c }, s1)
          | (.miss, s1) => ({ p with bad := some xNOTPRESENT }, s1)
    let (qs, s2) := s1.planNow cid k need ps
    (q :: qs, s2)

/-- What the entry of a read-bound stream from element `x0` reads: position, element of the entry, element of the item, and how many. -/
def Stream.readsAt (x : Stream) (x0 : Nat) : List (Nat × Nat × Nat × Nat) :=
  let n := min x.perEntry (x.total - x0)
  if isBlock x.ifmt.toNat then
    let first := x0 / 32
    let last := (x0 + n + 31) / 32
    (List.range (last - first)).map fun b =>
      let lo := max x0 ((first + b) * 32)
      let hi := min (x0 + n) ((first + b + 1) * 32)
      (first + b, lo - x0, lo - (first + b) * 32, hi - lo)
  else (List.range n).map fun q => (x0 + q, q, 0, 1)

/-- What the next entry reads. -/
def Stream.reads (x : Stream) : List (Nat × Nat × Nat × Nat) := x.readsAt x.next

/-- An entry of a slot's stream changed. -/
def State.modEntry (s : State) (cid k st ent : Nat) (f : StreamEnt → StreamEnt) : State :=
  s.modSlot cid k fun sl =>
    let y := sl.stream st
    sl.setStream st { y with queue := y.queue.map fun e => if e.gid == ent then f e else e }

/-- An entry's fault noted, or one of its reads issued; none while LDPEND leaves it no room. A fetch of a checked line goes to the line's
home (R336). -/
def State.streamRead (s : State) (cid k st ent : Nat) (r : Nat × Nat × Nat × Nat) : Option State :=
  let sl := s.slotAt cid k
  let x := sl.stream st
  let n := inBytes x.ifmt.toNat
  match streamItem s cid sl x r.1 n false with
  | .error t => some (s.modEntry cid k st ent fun e => if e.trap.isNone then { e with trap := some t } else e)
  | .ok a =>
    let (ps, s1) := s.planNow cid k .read (splitLines a.2 0 n)
    let ps := ps.map fun p => { p with home := p.attr.rc || (s1.l1Get cid (lineOf p.ea)).any (·.rc) }
    let asks := (ps.filter fun p => p.bad.isSome || s1.loadAsks cid false p).length
    if asks != 0 && 64 < s1.ldpend cid + asks then none
    else if s1.ownErr cid ps then some (s1.freeze cid k (s1.ownErrTrap cid ps))
    else
      let s2 := s1.countOwn cid (ps.filter (·.bad.isNone))
      let gid := s2.nextId
      let acc : Access := { gid := gid, cid := cid, slot := k, dest := .stream st ent r.2.1 r.2.2.1 r.2.2.2, n := n
                            want := byteMask 0 n, left := ps.length }
      let s3 := ps.foldl (fun s p => match p.bad with
          | none => s.loadPiece cid k gid {} false p
          | some c =>
            let q := { s.pieceReq cid k p .load gid (({} : Order).scopeAt p) with stage := .refused c, strm := true }
            (s.addReq q).postPacket q c)
        { s2 with nextId := gid + 1, accs := s2.accs ++ [acc] }
      some { s3 with reqs := s3.reqs.map fun r => if r.org == 0x3FF && r.grp == gid then { r with strm := true } else r }

/-- Reads of an entry issued one after the other, as far as there is room for them. -/
def State.streamReads (s : State) (cid k st ent : Nat) : List (Nat × Nat × Nat × Nat) → State
  | [] => s
  | r :: rs =>
    if s.frozen cid then s
    else match s.streamRead cid k st ent r with
      | none => s
      | some s1 => (s1.modEntry cid k st ent fun e => { e with todo := rs.length }).streamReads cid k st ent rs

/-- A slot's streams act while it holds an activation, its core is not frozen, and no acquire of it is still to act. -/
def State.streamsOn (s : State) (cid k : Nat) : Bool :=
  !s.frozen cid && s.dieRuns (dieOf (s.core cid).phys) && !acqOut s.accs cid k && (match (s.slotAt cid k).run with
    | .dormant => false
    | .suspended _ => false
    | _ => true)

/-- A read-bound stream issues what is left of its last entry's reads, or begins its next entry, at most four ahead. -/
def execStreamFetch (cid slot st : Nat) (s : State) : Res :=
  let x := (s.slotAt cid slot).stream st
  if !s.streamsOn cid slot || x.state != 1 then .next s
  else match x.queue.find? (·.todo != 0) with
    | some e =>
      let rs := x.readsAt ((x.next - 1) / x.perEntry * x.perEntry)
      .next (s.streamReads cid slot st e.gid (rs.drop (rs.length - e.todo)))
    | none =>
      if 4 ≤ x.queue.length || x.total ≤ x.next then .next s
      else
        let ent := s.nextId
        let rs := x.reads
        let y := { x with queue := x.queue ++ [{ left := rs.length, todo := rs.length, gid := ent }]
                          next := x.next + min x.perEntry (x.total - x.next) }
        .next (({ s with nextId := ent + 1 }.modSlot cid slot fun sl => sl.setStream st y).streamReads cid slot st ent rs)

/-- One element of a pushed entry stored, as a store of the instruction that pushed it; none while LDPEND leaves it no room. DESIGN
CHOICE (log 70): unsafe. -/
def State.streamStore (s : State) (cid k st : Nat) (e : StreamEnt) (j p : Nat) : Option State :=
  let sl := s.slotAt cid k
  let x := sl.stream st
  let v := chainElem x.desc x.ifmt.toNat (sdChain x.desc) x.luts (vElem e.data (tyBytes x.ifmt.toNat) j)
  let n := tyBytes x.fmt
  match streamItem s cid sl x p n true with
  | .error t => some (s.freeze cid k t)
  | .ok a =>
    let (ps, s1) := s.planNow cid k .write (splitLines a.2 0 n)
    let asks := (ps.filter (s1.storeAsks cid {})).length
    if asks != 0 && 64 < s1.ldpend cid + asks then none
    else
      let gid := s1.nextId
      let s2 := ps.foldl (fun s p => s.storePiece cid k gid {} (stampOf sl.clk false) { data := BitVec.ofNat 512 v } p) { s1 with nextId := gid + 1 }
      some { s2 with reqs := s2.reqs.map fun r => if r.org == 0x3FF && r.grp == gid then { r with strm := true, pc := e.pc, retired := 1 } else r }

/-- Elements of an entry stored one after the other, as far as there is room for them. -/
def State.streamStores (s : State) (cid k st : Nat) (e : StreamEnt) : List (Nat × Nat) → State
  | [] => s
  | (j, p) :: rs =>
    if s.frozen cid then s
    else match s.streamStore cid k st e j p with
      | none => s
      | some s1 => (s1.modSlot cid k fun sl => sl.setStream st { sl.stream st with next := p + 1 }).streamStores cid k st e rs

/-- The first pushed entry is written through the chain, element by element; it counts as written once its last store is issued. It waits
while an access of the slot's own is being checked. -/
def execStreamWrite (cid slot st : Nat) (s : State) : Res :=
  let x := (s.slotAt cid slot).stream st
  match x.queue with
  | [] => .next s
  | e :: rest =>
    if !s.streamsOn cid slot || x.state != 2 || (match (s.slotAt cid slot).run with
        | .sleeping (.check _ _ _ _ _) => true
        | _ => false) then .next s
    else
      let j0 := x.next % max 1 x.perEntry
      let n := min (x.perEntry - j0) (x.total - x.next)
      let s1 := s.streamStores cid slot st e ((List.range n).map fun j => (j0 + j, x.next + j))
      let y := (s1.slotAt cid slot).stream st
      .next (if y.next == x.next + n then s1.modSlot cid slot fun sl => sl.setStream st { y with queue := rest } else s1)

end Sys2Proof.Machine
end

