-- ==== Sys2Proof/Machine/Launches.lean ====
section
/-! DEFINITION. The event unit, launch descriptors and their validation, and the launch queue of a context (R209, R211 to R213,
R256, R257, R333, R354, R359). -/
namespace Sys2Proof.Machine

/-! ## Events (R213, R358) -/

/-- A launch's wait mask. -/
def Launch.wait (l : Launch) : BitVec 256 := l.desc.extractLsb' 0 256
def Launch.setMask (l : Launch) : BitVec 256 := l.desc.extractLsb' 256 256

/-- The event vector of a context as 256 bits. -/
def Ctx.events (c : Ctx) : BitVec 256 := packFields 256 ([0, 1, 2, 3].map fun w => (64 * w, 64, (vget c.ev w 0).toNat))

/-- A queued launch after an operation at the event unit: bits seen set stay seen, and a met mask makes it eligible. -/
def Launch.seeEvents (l : Launch) (ev : BitVec 256) (reft : W64) : Launch :=
  if l.state != .queued then l
  else
    let seen := l.seen ||| ev
    if l.wait &&& seen == l.wait then { l with seen := seen, state := .eligible, since := reft } else { l with seen := seen }

/-- The wait masks of a context evaluated again. -/
def State.seeEvents (s : State) (ctx : Nat) : State :=
  { s with launches := s.launches.map fun l => if l.ctx == ctx then l.seeEvents (s.ctx ctx).events s.reft else l }

/-- A word of an event vector written by an operation: the last slot that changed it is kept, or forgotten (R333). -/
def State.putEvent (s : State) (ctx word : Nat) (v : W64) (setter : Option (BitVec 18 × BitVec 32)) : State :=
  let c := s.ctx ctx
  let changed := vget c.ev word 0 != v
  (s.setCtx ctx { c with ev := vset c.ev word v, setter := if changed then vset c.setter word setter else c.setter }).seeEvents ctx

/-! ## The descriptor (R211) -/

def Launch.nmsg (l : Launch) : Nat := fld l.desc 640 16
def Launch.prio (l : Launch) : Nat := fld l.desc 688 2
def Launch.lmb (l : Launch) (n : Nat) : Nat := fld l.desc (672 + 32 * n) 32
def Launch.seed (l : Launch) : W64 := l.desc.extractLsb' 832 64
def Launch.nrgn (l : Launch) : Nat := fld l.desc 960 16
def descTable (d : BitVec 1024) : W64 := d.extractLsb' 512 64
def descMsgs (d : BitVec 1024) : W64 := d.extractLsb' 576 64
def descRgns (d : BitVec 1024) : W64 := d.extractLsb' 896 64
def Launch.w (l : Launch) : Nat := 2 ^ l.logw
def Launch.h (l : Launch) : Nat := 2 ^ l.logh

/-- An initial-message entry. -/
structure MsgEnt where
  x    : Nat
  y    : Nat
  chan : Nat
  zero : Nat
  len  : Nat
  off  : W64
  deriving DecidableEq, Repr

def msgEntry (bs : List Byte) : MsgEnt :=
  let at_ (i n : Nat) : Nat := leNat ((bs.drop i).take n)
  { x := at_ 0 1, y := at_ 1 1, chan := at_ 2 1, zero := at_ 3 1 + at_ 6 2, len := at_ 4 2, off := BitVec.ofNat 64 (at_ 8 8) }

/-- The boundaries satisfy R45. -/
def boundsOk (b1 b2 b3 : Nat) : Bool :=
  b1 ≤ b2 && b2 ≤ b3 && b3 ≤ 0x80000 && b1 % 512 == 0 && b2 % 512 == 0 && b3 % 512 == 0 &&
  (b3 - b2) % 16384 == 0 && b3 - b2 ≤ 0x40000

/-- A region descriptor satisfies R256 and lies where R257 wants it. -/
def regionOk (r : W128) (b1 b2 : Nat) : Bool :=
  let f := rgnFmt r
  fld r 37 3 == 0 && fld r 48 16 == 0 && rgnKind r ≤ 2 && 1 ≤ fld r 16 16 && fld r 16 16 ≤ 1024 &&
  (f == 0 || (1 ≤ f && f ≤ 8) || (0x0B ≤ f && f ≤ 0x0F) || f == 0x11 || f == 0x12) &&
  (if rgnKind r == 2 then b1 ≤ rgnBase r && rgnBase r + rgnSize r ≤ b2 else rgnBase r + rgnSize r ≤ b1)

/-- No two regions overlap. -/
def regionsApart : List W128 → Bool
  | [] => true
  | r :: rs => rs.all (fun q => rgnBase r + rgnSize r ≤ rgnBase q || rgnBase q + rgnSize q ≤ rgnBase r) && regionsApart rs

/-- The physical core that holds a logical core under a live group, by its origin and the logarithms of its size (R363). -/
def Launch.physIn (l : Launch) (g : Nat × Nat × Nat × Nat) (core : Nat) : Nat :=
  coreAt (l.ox + g.1 + (gblX core - l.ox) % 2 ^ g.2.2.1) (l.oy + g.2.1 + (gblY core - l.oy) % 2 ^ g.2.2.2)

/-- A logical core held by a physical core is being moved to another. -/
def Launch.moves (l : Launch) (core phys : Nat) : Bool :=
  match l.moving with
  | none => false
  | some g => l.physIn g core != phys

/-- What a submission brings: the descriptor, the handler-table image, the region list, the message entries with their
payloads, the code capability and the list of R350. -/
structure Submission where
  desc  : BitVec 1024
  table : List W128
  rgns  : List W128
  ents  : List (MsgEnt × List Byte)
  code  : W128
  caps  : List W128 := []
  /-- A capability of a host's packet that R355 refuses, or a range that it does not let the device read. -/
  bad   : Bool := false
  deriving DecidableEq, Repr

def Submission.launch (b : Submission) : Launch := { desc := b.desc, table := b.table, rgns := b.rgns, code := b.code, caps := b.caps }

/-- Bytes that the initial messages for a core and a channel take. -/
def Submission.load (b : Submission) (x y chan : Nat) : Nat :=
  b.ents.foldl (fun n e => if e.1.x == x && e.1.y == y && e.1.chan == chan then n + recSize e.1.len else n) 0

/-- Status 3: the origin or the size. -/
def Launch.rectBad (l : Launch) : Bool :=
  8 < l.logw || 8 < l.logh || l.ox % l.w != 0 || l.oy % l.h != 0 || 256 < l.ox + l.w || 256 < l.oy + l.h

/-- Status 5: reserved bytes, boundaries, counts, entries, regions, and messages that do not fit their slices. A message entry's layout
is broken also where its core lies beyond the rectangle or its channel above 31. DEDUCED (log 61): unsafe. -/
def Submission.fieldBad (b : Submission) : Bool :=
  let l := b.launch
  let d := b.desc
  b.bad || fld d 976 48 != 0 || fld d 696 8 != 0 || fld d 690 6 != 0 || fld d 687 1 != 0 || !boundsOk (l.lmb 1) (l.lmb 2) (l.lmb 3) ||
  4096 < l.nmsg || 32 < l.nrgn ||
  b.ents.any (fun e => e.1.zero != 0 || 4096 < e.1.len || 32 ≤ e.1.chan || l.w ≤ e.1.x || l.h ≤ e.1.y) ||
  !b.rgns.all (fun r => regionOk r (l.lmb 1) (l.lmb 2)) || !regionsApart b.rgns ||
  (l.fused && (l.w < 4 || l.h < 2)) ||
  b.ents.any (fun e => heSize (b.table.getD e.1.chan 0) < b.load e.1.x e.1.y e.1.chan)

/-- Status 6: an entry of the image fails statuses 2 to 4 of R209. -/
def Submission.imageBad (b : Submission) : Bool :=
  (List.range 32).any fun c =>
    let others := (b.table.take c) ++ (b.table.drop (c + 1))
    heStatus (b.table.getD c 0) (b.launch.lmb 3) b.launch.nrgn others != 0

/-- Bytes of the persist regions of a launch, in all its cores. -/
def Launch.persist (l : Launch) : Nat :=
  (l.rgns.foldl (fun n r => if rgnKind r == 1 then n + rgnSize r else n) 0) * (l.w * l.h)

/-- A launch would raise the package's total of persist regions above 128 MiB (R509). -/
def State.persistOver (s : State) (b : Submission) : Bool :=
  b.launch.persist != 0 && 2 ^ 27 < s.launches.foldl (fun n l => n + l.persist) b.launch.persist

/-- The launches that hold an entry of a context's queue. -/
def State.queueUse (s : State) (ctx : Nat) : Nat := (s.launches.filter fun l => l.ctx == ctx).length

/-- The status of checks of which several may fail: 0 for none, the one that fails, or one of them where no order is stated. -/
def pickStatus (l : List (Bool × Nat)) : Nat :=
  match (l.filter (·.1)).map (·.2) with
  | [] => 0
  | [x] => x
  | x :: xs => (x :: xs).getD (Config.openStatus (x :: xs) % (xs.length + 1)) x

/-- The status of a submission to a context (R212). The order of its checks is open. DESIGN CHOICE (log 59): safe. -/
def State.submitStatus (s : State) (ctx : Nat) (device : Bool) (b : Submission) : Nat :=
  let c := s.ctx ctx
  pickStatus [(device && !c.flags.getLsbD 1, 1), (c.qdepth.toNat ≤ s.queueUse ctx, 2), (b.launch.rectBad, 3), (b.launch.ctx != ctx, 4),
    (b.fieldBad || s.persistOver b, 5), (b.imageBad, 6)]

/-- The lowest launch identifier from 1 that no launch holds. DESIGN CHOICE (log 17): unsafe. -/
def State.freeLid (s : State) : Nat → Nat → Nat
  | n, 0 => n
  | n, fuel + 1 => if s.launches.any (fun l => l.lid.toNat == n) then s.freeLid (n + 1) fuel else n

/-- The messages of a submission. -/
def Submission.msgs (b : Submission) (lid : BitVec 16) (reft : W64) : List Msg :=
  let l := b.launch
  b.ents.map fun e =>
    { origin := 2, spkg := 0x3FF, lid := lid, ctx := l.ctx, addr := coreAddr (coreAt (l.ox + e.1.x) (l.oy + e.1.y)) e.1.chan
      payload := e.2.take e.1.len, sent := reft, scope := BitVec.ofNat 3 scPACKAGE }

/-- A submission: its status, the LID, and the state with the launch in its queue. -/
def State.submit (s : State) (ctx : Nat) (device : Bool) (b : Submission) : Nat × BitVec 16 × State :=
  let st := s.submitStatus ctx device b
  if st != 0 then (st, 0, s)
  else
    let lid := BitVec.ofNat 16 (s.freeLid 1 65535)
    let l := { b.launch with lid := lid, msgs := b.msgs lid s.reft, live := (0, 0, b.launch.logw, b.launch.logh) }
    (0, lid, { s with launches := s.launches ++ [l.seeEvents (s.ctx ctx).events s.reft] })

end Sys2Proof.Machine
end

