-- ==== Sys2Proof/Machine/ExecMsg.lean ====
section
/-! DEFINITION. SEND, SENDR, HSET, HMASK and LAUNCH, opcodes 0xC0 to 0xC4, and ACTEND (R131, R204 to R212, R474). -/
namespace Sys2Proof.Machine

/-! ## Messages (R204 to R206) -/

/-- The scope of a SEND's release (R205): the narrowest that holds both cores. -/
def sendScope (cid : Nat) (addr : W64) (hint : Bool) : Nat :=
  if fld addr 53 10 != 0x3FF then scFABRIC
  else if hint then scPACKAGE
  else if isSvc cid then (if dieOf cid == fld addr 37 16 / 4096 then scDIE else scPACKAGE)
  else scopeOf (coreNo cid) (fld addr 37 16)

/-- The channel address of a capability after R134. -/
def chanAddr (s : State) (cid : Nat) (c : W128) : W64 := rewriteEa s.pkg cid (c.extractLsb' 0 64)

/-- The check of a SEND's channel capability. -/
def chanCheck (s : State) (cid : Nat) (sl : Slot) (r : RegNo) : Option Trap :=
  let x := sl.readG r
  let a := x.val.extractLsb' 0 64
  let ea := chanAddr s cid x.val
  let own := fld ea 53 10 == 0x3FF && (if isSvc cid then ea.getLsbD 36 else fld ea 37 16 == coreNo cid)
  match capCheck x.val x.tag a.toNat 1 (if own then pST else pST ||| pREMOTE) kindsChan with
  | some sub => some (capTrap sub r a)
  | none => none

/-- The payload of a `.v` form: `len` bytes from v[a], or the fault of an expired byte. -/
def vPayload (sl : Slot) (a : RegNo) (len : Nat) : Nat → Except Trap (List Byte)
  | 0 => .ok []
  | n + 1 =>
    match vPayload sl a len n with
    | .error t => .error t
    | .ok bs =>
      let m := min 64 (len - 64 * n)
      match sl.useV (a + BitVec.ofNat 6 n) (byteMask 0 m) with
      | .error t => .error t
      | .ok v => .ok (bs ++ bytesOf v m)

def sendVcnt (i : Ins) : Nat := fld i.sub 1 2

/-- The length source of SEND. -/
def sendLen (i : Ins) (sl : Slot) : Nat := if i.hasImm then i.imm else (sl.g64 i.b).toNat

/-- The precise fault of a SEND before its release. DEDUCED (log 68): unsafe. -/
def sendBad (s : State) (cid : Nat) (i : Ins) (sl : Slot) : Option Trap :=
  let m := i.sub.getLsbD 0
  let len := sendLen i sl
  if !m && (31 < i.a.toNat + sendVcnt i || 64 * (sendVcnt i + 1) < len) then some illegalField
  else if m && (sendVcnt i != 0 || 4096 < len) then some illegalField
  else
    let src := if m then memCheck s cid sl i.a 0 len pLD 1 false else .ok (0, 0)
    match src with
    | .error t => some t
    | .ok _ => chanCheck s cid sl i.d

/-- The message of a SEND. -/
def State.sendMsg (s : State) (cid k : Nat) (i : Ins) (sl : Slot) (payload : List Byte) : Msg :=
  let addr := chanAddr s cid (sl.readG i.d).val
  { mid := s.nextId, cid := cid, origin := if isSvc cid then 1 else 0, spkg := s.pkg, score := BitVec.ofNat 16 (coreNo cid)
    sslot := if isSvc cid then 0 else BitVec.ofNat 2 k, lid := s.lidOf cid, ctx := s.ctxOf cid, pc := sl.pc, addr := addr
    payload := payload, sent := s.reft, sclk := sl.clk, scope := BitVec.ofNat 3 (sendScope cid addr (i.sub.getLsbD 6))
    did := sl.did, actRid := sl.act.rid, hint := if i.sub.getLsbD 6 then some (fld i.sub 3 3) else none }

def sendOp (i : Ins) (s : State) : Res :=
  let m := i.sub.getLsbD 0
  let vs := (List.range (sendVcnt i + 1)).map fun n => i.a + BitVec.ofNat 6 n
  let u : Uses := { g := (i.d :: if i.hasImm then [] else [i.b]) ++ (if m then [i.a] else []), v := if m then [] else vs }
  execState i u false 0 (fun cid k sl =>
    match sendBad s cid i sl with
    | some t => .next (s.preciseFault cid k t)
    | none =>
      match s.relWait cid k false with
      | some s' => .next s'
      | none =>
        let len := sendLen i sl
        let pay : Except State (List Byte × State) :=
          if m then s.payRead cid k sl i.a 0 len
          else match vPayload sl i.a len (sendVcnt i + 1) with
            | .error t => .error (s.preciseFault cid k t)
            | .ok bs => .ok (bs, s)
        match pay with
        | .error s' => .next s'
        | .ok (bs, s1) =>
          if 16 ≤ (s1.core cid).sendq.length then .next (s1.stall cid k (.block .sendq))
          else
            let sl1 := { sl with hzn := (s1.slotAt cid k).hzn, hznUse := (s1.slotAt cid k).hznUse, hznev := (s1.slotAt cid k).hznev }.incClk
            let msg := s1.sendMsg cid k i sl1 bs
            let s2 := (s1.endPay cid k).modCore cid fun c => { c with sendq := c.sendq ++ [msg] }
            let s3 := { s2 with nextId := s2.nextId + 1 }
            let s4 := if sl.isRoot then s3.addRoot (s.ctxOf cid) sl.did { msg := some msg } 0 i.sub.toNat msg.addr bs else s3
            .next (s4.retire cid k sl1 i.len none)) s

def execSend (f : FR) (s : State) : Res := sendOp (insR f) s
def execSendF96 (f : FX) (s : State) : Res := sendOp (insX f) s

/-! ## SENDR (R207) -/

/-- The logical neighbour of a core in a direction, within its launch's rectangle. -/
def State.neighbour (s : State) (cid dir : Nat) : Option Nat :=
  match (if isSvc cid then none else s.launchOf cid) with
  | none => none
  | some l =>
    let x := gblX (coreNo cid)
    let y := gblY (coreNo cid)
    let (nx, ny) : Int × Int := if dir == 0 then (x + 1, y) else if dir == 1 then (x - 1, y) else if dir == 2 then (x, y + 1) else (x, y - 1)
    if nx < l.ox || ny < l.oy || l.ox + l.w ≤ nx || l.oy + l.h ≤ ny then none
    else some (s.memberCid l.lid (coreAt nx.toNat ny.toNat))

/-- The link of the neighbour that a deposit in a direction enters: that of the opposite side. DEDUCED (log 26): unsafe. -/
def linkAt (dir : Nat) : Nat := dir ^^^ 1

def execSendr (f : FR) (s : State) : Res :=
  let i := insR f
  execState i { g := [i.a] } false 0 (fun cid k sl =>
    let dir := fld i.sub 0 2
    match s.neighbour cid dir with
    | none => .next (s.preciseFault cid k { cause := cCAP_FAULT, sub := 0x0A })
    | some n =>
      let l := linkAt dir
      if 4 ≤ (vget (s.core n).links l []).length then .next (s.stall cid k (.block (.link n l)))
      else
        let s1 := s.modCore n fun c =>
          { c with links := vset c.links l (vget c.links l [] ++ [{ slot := i.sub.extractLsb' 2 2, reg := i.d, val := (sl.readG i.a).val }]) }
        .next (s1.retire cid k sl i.len none)) s

/-! ## The handler table (R208 to R210, R233) -/

/-- The slice of a channel holds a message. -/
def Core.holdsMsg (c : Core) (chan : Nat) : Bool := (c.buf chan).recs.any fun r => !r.pad && !r.freed

/-- HSET of an entry: its status and the core. -/
def Core.hset (c : Core) (chan : Nat) (e : W128) : Nat × Core :=
  let others := ((List.range 32).filter (· != chan)).map c.handler
  let old := c.handler chan
  let st := heStatus e c.lmb3.toNat c.nrgn others
  if st != 0 then (st, c)
  else
    let moved := (heBase e != heBase old || heSize e != heSize old) && c.holdsMsg chan
    let e1 := if moved then setFld (setFld e 68 10 (fld old 68 10)) 78 10 (fld old 78 10) else e
    let c1 := { c with handlers := vset c.handlers chan e1, ep := vset c.ep chan (hePrio e1), age := vset c.age chan 0 }
    (b2n moved, if moved || !(heBase e != heBase old || heSize e != heSize old) then c1 else c1.setBuf chan {})

def execHset (f : FR) (s : State) : Res :=
  let i := insR f
  execState i { g := [i.a], dg := [i.d] } false 0 (fun cid k sl =>
    let r := (s.core cid).hset (fld i.sub 0 5) (sl.readG i.a).val
    .next ((s.setCore cid r.2).retire cid k (sl.putG i.d r.1) i.len none)) s

/-- The 32 MASK bits. -/
def Core.masks (c : Core) : BitVec 32 :=
  BitVec.ofNat 32 ((List.range 32).foldl (fun acc ch => acc + (if heMask (c.handler ch) then 2 ^ ch else 0)) 0)

def Core.setMasks (c : Core) (m : BitVec 32) : Core :=
  (List.range 32).foldl (fun c ch =>
    { c with handlers := vset c.handlers ch (setFld (c.handler ch) 66 1 (b2n (m.getLsbD ch))) }) c

def hmaskOp (i : Ins) (s : State) : Res :=
  execState i { g := usesAB i, dg := [i.d] } false 0 (fun cid k sl =>
    let c := s.core cid
    let sel := (sl.g64 i.a).extractLsb' 0 32
    let val := if i.hasImm then BitVec.ofNat 32 i.imm else (sl.g64 i.b).extractLsb' 0 32
    let old := c.masks
    .next ((s.setCore cid (c.setMasks ((old &&& ~~~sel) ||| (val &&& sel)))).retire cid k (sl.putG i.d old.toNat) i.len none)) s

def execHmask (f : FR) (s : State) : Res := hmaskOp (insR f) s
def execHmaskF96 (f : FX) (s : State) : Res := hmaskOp (insX f) s

/-! ## LAUNCH (R211, R212) -/

/-- Tag, kind and permission of a capability, without an access. -/
def capHas (sl : Slot) (r : RegNo) (perm : BitVec 12) (kinds : List Nat) : Option Trap :=
  let x := sl.readG r
  let a := x.val.extractLsb' 0 64
  if !x.tag then some (capTrap 1 r a)
  else if fld x.val 124 4 != 0 || !kinds.contains (capKind x.val) then some (capTrap 2 r a)
  else if !hasPerm x.val perm then some (capTrap 3 r a)
  else none

/-- Several ranges of one capability read, in order. -/
def State.payReads (s : State) (cid k : Nat) (sl : Slot) (r : RegNo) : List (W64 × Nat) → Except State (List (List Byte) × State)
  | [] => .ok ([], s)
  | (off, n) :: rest =>
    match s.payRead cid k sl r off n with
    | .error s' => .error s'
    | .ok (bs, s1) =>
      match s1.payReads cid k sl r rest with
      | .error s' => .error s'
      | .ok (l, s2) => .ok (bs :: l, s2)

/-- Bytes cut into 16-byte words. -/
def words16 (bs : List Byte) : List W128 := (List.range (bs.length / 16)).map fun i => ofBytes 128 ((bs.drop (16 * i)).take 16)

/-- The 1,024-bit descriptor of two v registers. -/
def launchDesc (sl : Slot) (a : RegNo) : BitVec 1024 := ((sl.readV (a + 1)).val.zeroExtend 1024 <<< 512) ||| (sl.readV a).val.zeroExtend 1024

/-- The image, the lists and the payloads of a launch read through a data capability. Counts that status FIELD refuses read
nothing. -/
def State.readLaunch (s : State) (cid k : Nat) (sl : Slot) (r : RegNo) (d : BitVec 1024) (code : W128) :
    Except State (Submission × State) :=
  let nr := fld d 960 16
  let nm := fld d 640 16
  match s.payReads cid k sl r [(descTable d, 512), (descRgns d, if nr ≤ 32 then 16 * nr else 0), (descMsgs d, if nm ≤ 4096 then 16 * nm else 0)] with
  | .error s' => .error s'
  | .ok (l, s1) =>
    let mb := l.getD 2 []
    let ents := (List.range (mb.length / 16)).map fun j => msgEntry ((mb.drop (16 * j)).take 16)
    match s1.payReads cid k sl r (ents.map fun e => (e.off, if e.len ≤ 4096 then e.len else 0)) with
    | .error s' => .error s'
    | .ok (ps, s2) =>
      .ok ({ desc := d, table := words16 (l.getD 0 []), rgns := words16 (l.getD 1 []), ents := ents.zip ps, code := code }, s2)

def execLaunch (f : FR) (s : State) : Res :=
  let i := insR f
  execState i { g := [i.b, i.c], v := [i.a, i.a + 1], dg := [i.d] } false 0 (fun cid k sl =>
    match capHas sl i.b pEXEC [0], capHas sl i.c pLD [0, 1], sl.useV i.a (BitVec.allOnes 64), sl.useV (i.a + 1) (BitVec.allOnes 64) with
    | some t, _, _, _ => .next (s.preciseFault cid k t)
    | none, some t, _, _ => .next (s.preciseFault cid k t)
    | none, none, .error t, _ => .next (s.preciseFault cid k t)
    | none, none, .ok _, .error t => .next (s.preciseFault cid k t)
    | none, none, .ok _, .ok _ =>
      match s.relWait cid k false with
      | some s' => .next s'
      | none =>
        match s.readLaunch cid k sl i.c (launchDesc sl i.a) (sl.readG i.b).val with
        | .error s' => .next s'
        | .ok (b, s1) =>
          let r := s1.submit (s.ctxOf cid) true b
          let cur := s1.slotAt cid k
          let sl1 := { sl with hzn := cur.hzn, hznUse := cur.hznUse, hznev := cur.hznev }.incClk
          .next ((r.2.2.endPay cid k).retire cid k (sl1.putG i.d (r.1 * 65536 + r.2.1.toNat)) i.len none)) s

/-! ## ACTEND (R131, R449, R474) -/

/-- RUN of the activation added to the entry that it latched in its physical core's table. -/
def Core.addRun (c : Core) (sl : Slot) (reft : W64) : Core :=
  if !sl.act.dlytOk then c
  else
    let start := vget sl.actts 2 0
    let e := vget c.dlyt sl.act.dlyt {}
    let sum := e.run.toNat + (reft.toNat - start.toNat)
    { c with dlyt := vset c.dlyt sl.act.dlyt { e with run := if 2 ^ 64 ≤ sum then BitVec.allOnes 64 else BitVec.ofNat 64 sum } }

/-- The completion notice of a task whose domain was opened in another package (R473). DEDUCED (log 25): unsafe. -/
def State.notifyTask (s : State) (ctx : Nat) (did : BitVec 4) (spkg : Nat) : State :=
  if did == 0 || (s.dom ctx did).isSome || spkg == s.pkg.toNat || 993 ≤ spkg then s
  else { s with out := s.out ++ [.notice spkg ctx did.toNat] }

/-- The package that sent a slot's message, from g4's layout as kept with the record. -/
def Core.senderPkg (c : Core) (rid : Nat) : Nat :=
  match c.bufs.toList.findSome? fun b => b.recs.find? fun r => r.rid == rid && !r.pad with
  | some r => r.msg.spkg.toNat
  | none => 0x3FF

/-- ACTEND: the domains left open are closed, the release waits, and the activation ends. Its earlier loads have then returned. -/
def execActend (f : FR) (s : State) : Res :=
  let i := insR f
  execState i {} false 0 (fun cid k sl =>
    match s.relWait cid k true with
    | some s' => .next s'
    | none =>
      let ctx := s.ctxOf cid
      let s1 := sl.act.opened.foldl (fun s d => s.closeTree ctx d) s
      let s2 := s1.notifyTask ctx sl.act.did ((s.core cid).senderPkg sl.act.rid)
      let ticks := (s.reft - vget sl.actts 2 0).toNat
      let s3 := s2.traceRec cid k ((s.core cid).trcc.getLsbD 1) 0x02 sl.pc.toNat ticks sl.act.retry.toNat
      let s4 := (s3.modCore (s.core cid).phys fun c => c.addRun sl s.reft).modCore cid fun c =>
        applyDeposits ((c.freeRec sl.act.rid).setSlot k (sl.incClk.toDormant))
      .next { s4 with
        reqs := orphanReqs s4.reqs cid k
        accs := s4.accs.filter fun a => !(a.cid == cid && a.slot == k && (a.isLoad || a.chk)) }) s

end Sys2Proof.Machine
end

