-- ==== Sys2Proof/Machine/ExecEvent.lean ====
section
/-! DEFINITION. The event instructions, groups, barriers, domains and job instructions, opcodes 0xC5 to 0xDA, and the wakes of
the slots that sleep in them (R128, R203, R213 to R220). -/
namespace Sys2Proof.Machine

/-- The acquire of an instruction at a scope: the L1 acts, and the slot fetches its streams again. -/
def State.acqBy (s : State) (cid : Nat) (sl : Slot) (scope : Nat) : State × Slot := (s.acqL1 cid scope false, sl.refetch)

/-! ## Events (R213) -/

def evWord (i : Ins) : Nat := fld i.sub 0 2
/-- The mask: g[b] or the immediate by zeros. -/
def evMask (i : Ins) (sl : Slot) : W64 := if i.hasImm then i.immZ else sl.g64 i.b
def evUses (i : Ins) : Uses := { g := if i.hasImm then [] else [i.b], dg := [i.d] }
def State.evGet (s : State) (ctx word : Nat) : W64 := vget (s.ctx ctx).ev word 0

/-- The slot learns the pair that the event unit keeps for a word (R333). -/
def State.evLearn (s : State) (ctx word : Nat) (sl : Slot) : Slot :=
  match vget (s.ctx ctx).setter word none with
  | none => sl
  | some (w, c) => sl.learn w c (BitVec.ofNat 3 scPACKAGE)

/-- EVSET and EVCLR. -/
def evWriteOp (i : Ins) (clear : Bool) (s : State) : Res :=
  execState i (evUses i) false 0 (fun cid k sl =>
    match s.relWait cid k false with
    | some s' => .next s'
    | none =>
      let ctx := s.ctxOf cid
      let old := s.evGet ctx (evWord i)
      let m := evMask i sl
      let sl1 := sl.incClk
      let setter := if isSvc cid then none else some (identOf cid k, sl1.clk)
      let s1 := s.putEvent ctx (evWord i) (if clear then old &&& ~~~m else old ||| m) setter
      .next (s1.retire cid k (sl1.putG i.d old.toNat) i.len none)) s

def evTestOp (i : Ins) (s : State) : Res :=
  execState i (evUses i) false 0 (fun cid k sl =>
    let ctx := s.ctxOf cid
    let r := s.evGet ctx (evWord i) &&& evMask i sl
    if r == 0 then .next (s.retire cid k (sl.putG i.d 0) i.len none)
    else
      let x := s.acqBy cid sl scPACKAGE
      .next (x.1.retire cid k ((s.evLearn ctx (evWord i) x.2).putG i.d r.toNat) i.len none)) s

/-- An EVWAIT's condition holds. -/
def evMet (any : Bool) (word m : W64) : Bool := m == 0 || (if any then word &&& m != 0 else word &&& m == m)

/-- EVWAIT ends with its acquire. -/
def State.evDone (s : State) (cid k : Nat) (sl : Slot) (word : Nat) (m : W64) (d : RegNo) (len : Nat) : State :=
  let ctx := s.ctxOf cid
  let x := s.acqBy cid sl scPACKAGE
  x.1.retire cid k ((s.evLearn ctx word x.2).putG d (s.evGet ctx word &&& m).toNat) len none

def evWaitOp (i : Ins) (s : State) : Res :=
  execState i (evUses i) false 0 (fun cid k sl =>
    let m := evMask i sl
    let any := i.sub.getLsbD 2
    if evMet any (s.evGet (s.ctxOf cid) (evWord i)) m then .next (s.evDone cid k sl (evWord i) m i.d i.len)
    else .next (s.sleepSlot cid k { sl with run := .sleeping (.evwait i.len i.d (BitVec.ofNat 2 (evWord i)) any m) })) s

def execEvset (f : FR) (s : State) : Res := evWriteOp (insR f) false s
def execEvsetF96 (f : FX) (s : State) : Res := evWriteOp (insX f) false s
def execEvclr (f : FR) (s : State) : Res := evWriteOp (insR f) true s
def execEvclrF96 (f : FX) (s : State) : Res := evWriteOp (insX f) true s
def execEvwait (f : FR) (s : State) : Res := evWaitOp (insR f) s
def execEvwaitF96 (f : FX) (s : State) : Res := evWaitOp (insX f) s
def execEvtest (f : FR) (s : State) : Res := evTestOp (insR f) s
def execEvtestF96 (f : FX) (s : State) : Res := evTestOp (insX f) s

/-- The conditions of a sleeping WAIT are looked at. -/
def execWaitWake (cid slot : Nat) (s : State) : Res :=
  match (s.slotAt cid slot).run with
  | .sleeping (.wait d conds deadline) =>
    let sl := s.slotAt cid slot
    let fired := waitFired s.reft sl conds deadline
    if fired == 0 || !s.canWake cid slot then .next s else .next (s.retire cid slot (waitDone sl d fired) 8 none)
  | _ => .next s

def execEvwaitWake (cid slot : Nat) (s : State) : Res :=
  match (s.slotAt cid slot).run with
  | .sleeping (.evwait len d word any m) =>
    if evMet any (s.evGet (s.ctxOf cid) word.toNat) m && s.canWake cid slot then
      .next (s.evDone cid slot (s.slotAt cid slot) word.toNat m d len)
    else .next s
  | _ => .next s

/-! ## Groups (R214 to R216) -/

/-- A group: its origin and the logarithms of its size; a shape wider or taller than the rectangle has none. -/
structure Group where
  gx   : Nat
  gy   : Nat
  logw : Nat
  logh : Nat
  deriving DecidableEq, Repr

def groupOf (l : Launch) (core : Nat) (shape : BitVec 8) : Option Group :=
  if shape == 0xFF then some { gx := l.ox, gy := l.oy, logw := l.logw, logh := l.logh }
  else
    let lw := fld shape 0 4
    let lh := fld shape 4 4
    if l.logw < lw || l.logh < lh then none
    else some { gx := l.ox + (gblX core - l.ox) / 2 ^ lw * 2 ^ lw, gy := l.oy + (gblY core - l.oy) / 2 ^ lh * 2 ^ lh, logw := lw, logh := lh }

def Group.cores (g : Group) : List Nat :=
  (List.range (2 ^ g.logh)).flatMap fun y => (List.range (2 ^ g.logw)).map fun x => coreAt (g.gx + x) (g.gy + y)

def Group.has (g : Group) (core : Nat) : Bool :=
  g.gx ≤ gblX core && gblX core < g.gx + 2 ^ g.logw && g.gy ≤ gblY core && gblY core < g.gy + 2 ^ g.logh

/-- The narrowest scope that holds a group. -/
def Group.scope (g : Group) : Nat :=
  scopeOf (coreAt g.gx g.gy) (coreAt (g.gx + 2 ^ g.logw - 1) (g.gy + 2 ^ g.logh - 1))

/-- The group that a shape names for a core of a launch. DESIGN CHOICE (log 21): unsafe. -/
def State.groupAt (s : State) (cid : Nat) (shape : BitVec 8) : Option (Launch × Group) :=
  match (if isSvc cid then none else s.launchOf cid) with
  | none => none
  | some l => (groupOf l (coreNo cid) shape).map fun g => (l, g)

/-- An episode of the launch, the shape and the group. -/
def Episode.isAt (e : Episode) (lid : BitVec 16) (shape : BitVec 8) (g : Group) : Bool :=
  e.lid == lid && e.shape == shape && e.gx == g.gx && e.gy == g.gy

/-- Pending episodes that a core has arrived at. -/
def State.arrivals (s : State) (lid : BitVec 16) (core : Nat) : List Episode :=
  s.episodes.filter fun e => e.lid == lid && e.arrived.contains core

/-- A core arrives, unless it has; none while four episodes of other shapes are pending. -/
def State.arrive (s : State) (lid : BitVec 16) (core : Nat) (shape : BitVec 8) (g : Group) : Option State :=
  let mine := s.arrivals lid core
  if mine.any fun e => e.isAt lid shape g then some s
  else if 4 ≤ mine.length then none
  else
    let add (e : Episode) : Episode := { e with arrived := e.arrived ++ [core] }
    some { s with episodes :=
      if s.episodes.any fun e => e.isAt lid shape g then replaceFirst (fun e => e.isAt lid shape g) add s.episodes
      else s.episodes ++ [{ lid := lid, shape := shape, gx := g.gx, gy := g.gy, arrived := [core] }] }

def execBarrier (f : FR) (s : State) : Res :=
  let i := insR f
  execState i {} false 0 (fun cid k sl =>
    match s.groupAt cid f.sub with
    | none => .next (s.preciseFault cid k illegalField)
    | some (l, g) =>
      match s.relWait cid k false with
      | some s' => .next s'
      | none =>
        let sl1 := sl.incClk
        match s.arrive l.lid (coreNo cid) f.sub g with
        | some s1 => .next (s1.setSlot cid k { sl1 with run := .sleeping (.barrier f.sub true) })
        | none => .next (s.setSlot cid k { sl1 with run := .sleeping (.barrier f.sub false) })) s

/-- A core of a launch's group that KILLG has fenced. -/
def Launch.fenced (l : Launch) (core : Nat) : Bool :=
  l.fences.any fun q => ({ gx := q.1, gy := q.2.1, logw := q.2.2.1, logh := q.2.2.2 } : Group).has core

/-- A slot's BARRIER completes: the acquire, and the end of its sleep. -/
def State.barrierEnd (s : State) (cid k scope : Nat) : State :=
  let x := s.acqBy cid (s.slotAt cid k) scope
  x.1.retire cid k x.2 8 none

/-- A slot that waits for a shape, as its episode completes: it retires, or while its core is frozen, its die's clock stopped or its
activation suspended, it notes the end and retires once it may (R215, R225, R364, R425). -/
def State.barrierWake (s : State) (cid : Nat) (shape : BitVec 8) (scope k : Nat) : State :=
  match (s.slotAt cid k).run with
  | .sleeping (.barrier sh true) =>
    if sh != shape then s
    else if s.canWake cid k then s.barrierEnd cid k scope
    else s.modSlot cid k fun sl => { sl with run := .sleeping (.barred scope) }
  | .suspended (some (.barrier sh true)) =>
    if sh == shape then s.modSlot cid k fun sl => { sl with run := .suspended (some (.barred scope)) } else s
  | _ => s

/-- A slot that waits for an episode to end makes its arrival, where it may. -/
def State.lateArrival (s : State) (l : Launch) (cid k : Nat) : State :=
  let go (sh : BitVec 8) (run : Run) : State := match groupOf l (coreNo cid) sh with
    | none => s
    | some g' => match s.arrive l.lid (coreNo cid) sh g' with
      | none => s
      | some s' => s'.modSlot cid k fun sl => { sl with run := run }
  match (s.slotAt cid k).run with
  | .sleeping (.barrier sh false) => go sh (.sleeping (.barrier sh true))
  | .suspended (some (.barrier sh false)) => go sh (.suspended (some (.barrier sh true)))
  | _ => s

/-- The episode at a position of the list completes when every core of its group has arrived or is fenced. -/
def execBarrierComplete (k : Nat) (s : State) : Res :=
  match s.episodes[k]? with
  | none => .next s
  | some e =>
    match s.launches.find? fun l => l.lid == e.lid && l.state == .running with
    | none => .next s
    | some l =>
      let (lw, lh) := if e.shape == 0xFF then (l.logw, l.logh) else (fld e.shape 0 4, fld e.shape 4 4)
      let g : Group := { gx := e.gx, gy := e.gy, logw := lw, logh := lh }
      if !(g.cores.all fun c => e.arrived.contains c || l.fenced c) then .next s
      else
        let cids := g.cores.map (s.memberCid l.lid)
        let s1 := { s with episodes := s.episodes.eraseIdx k }
        let s2 := cids.foldl (fun s cid => [0, 1, 2, 3].foldl (fun s k => s.barrierWake cid e.shape g.scope k) s) s1
        let s3 := cids.foldl (fun s cid => s.modCore cid fun c => { c with slots := c.slots.map fun sl => { sl with gen := sl.gen + 1 } }) s2
        .next (cids.foldl (fun s cid => [0, 1, 2, 3].foldl (fun s k => s.lateArrival l cid k) s) s3)

def execGroupid (f : FR) (s : State) : Res :=
  let i := insR f
  execState i { dg := [i.d] } false 0 (fun cid k sl =>
    match s.groupAt cid f.sub with
    | none => .next (s.preciseFault cid k illegalField)
    | some (l, g) =>
      let ix := if f.sub == 0xFF then 0 else (g.gx - l.ox) / 2 ^ g.logw
      let iy := if f.sub == 0xFF then 0 else (g.gy - l.oy) / 2 ^ g.logh
      let v := packFields 64 [(36, 4, g.logh), (32, 4, g.logw), (24, 8, iy), (16, 8, ix), (8, 8, g.gy), (0, 8, g.gx)]
      .next (s.retire cid k (sl.putG i.d v.toNat) i.len none)) s

/-- The word that CORENUM writes; the origin is zero where there is no rectangle. DESIGN CHOICE (log 21): unsafe. -/
def corenumVal (s : State) (cid k : Nat) : W64 :=
  let core := coreNo cid
  let (ox, oy) := match s.launchOf cid with
    | some l => (l.ox, l.oy)
    | none => (0, 0)
  packFields 64 [(52, 8, gblY core - oy), (44, 8, gblX core - ox), (34, 10, s.pkg.toNat), (32, 2, k), (16, 16, core),
    (8, 8, gblY core), (0, 8, gblX core)]

def execCorenum (f : FR) (s : State) : Res :=
  let i := insR f
  execState i { dg := [i.d] } false 0 (fun cid k sl => .next (s.retire cid k (sl.putG i.d (corenumVal s cid k).toNat) i.len none)) s

/-! ## Jobs (R220) -/

/-- What a core says of a job id. -/
inductive JobSays where
  | kept (h : JobHist)
  | old
  | notSub
  deriving DecidableEq, Repr

def Core.jobSays (c : Core) (id : BitVec 16) : JobSays :=
  let t := (c.nextJob - id).toNat
  if t == 0 then .notSub
  else if 64 < t then .old
  else match c.jobs.find? (·.jid == id) with
    | some h => .kept h
    | none => .old

def jobId (i : Ins) (sl : Slot) : BitVec 16 := if i.hasImm then BitVec.ofNat 16 i.imm else (sl.g64 i.b).extractLsb' 0 16

/-- The acquire that matches a done job's release (R320, R333). -/
def State.jobAcquire (s : State) (cid : Nat) (sl : Slot) (h : JobHist) : State × Slot :=
  match h.rel with
  | none => (s, sl)
  | some (w, clk, scope) =>
    let x := s.acqBy cid sl scope.toNat
    (x.1, x.2.learn w clk scope)

/-- A job's end seen by JWAIT. -/
def State.jwaitDone (s : State) (cid k : Nat) (sl : Slot) (h : JobHist) (d : RegNo) (len : Nat) : State :=
  let x := s.jobAcquire cid sl h
  x.1.retire cid k (x.2.putG d h.status.toNat) len none

def jwaitOp (i : Ins) (s : State) : Res :=
  execState i (evUses i) false 0 (fun cid k sl =>
    match (s.core cid).jobSays (jobId i sl) with
    | .old => .next (s.retire cid k (sl.putG i.d 6) i.len none)
    | .notSub => .next (s.retire cid k (sl.putG i.d 7) i.len none)
    | .kept h =>
      if h.state == 2 then .next (s.jwaitDone cid k sl h i.d i.len)
      else .next (s.sleepSlot cid k { sl with run := .sleeping (.jwait i.len i.d h.jid) })) s

/-- A sleeping JWAIT's job is done, or no longer kept. -/
def execJwaitWake (cid slot : Nat) (s : State) : Res :=
  match (s.slotAt cid slot).run with
  | .sleeping (.jwait len d id) =>
    let sl := s.slotAt cid slot
    if !s.canWake cid slot then .next s
    else match (s.core cid).jobSays id with
      | .kept h => if h.state == 2 then .next (s.jwaitDone cid slot sl h d len) else .next s
      | .old => .next (s.retire cid slot (sl.putG d 6) len none)
      | .notSub => .next (s.retire cid slot (sl.putG d 7) len none)
  | _ => .next s

def jpollOp (i : Ins) (s : State) : Res :=
  execState i { g := if i.hasImm then [] else [i.b] } false 0 (fun cid k sl =>
    match (s.core cid).jobSays (jobId i sl) with
    | .kept h =>
      if h.state == 2 then
        let x := s.jobAcquire cid sl h
        .next (x.1.retire cid k (x.2.writeP i.d.toNat 0xFFFF) i.len none)
      else .next (s.retire cid k (sl.writeP i.d.toNat 0) i.len none)
    | _ => .next (s.retire cid k (sl.writeP i.d.toNat 0xFFFF) i.len none)) s

/-- The word that JSTAT writes. -/
def jstatVal (c : Core) (id : BitVec 16) : W64 :=
  match c.jobSays id with
  | .kept h => packFields 64 [(48, 16, id.toNat), (40, 8, h.status.toNat), (8, 32, h.bytes.toNat), (0, 2, h.state.toNat)]
  | .old => packFields 64 [(48, 16, id.toNat), (40, 8, 6), (0, 2, 3)]
  | .notSub => packFields 64 [(48, 16, id.toNat), (40, 8, 7), (0, 2, 3)]

def execJwait (f : FR) (s : State) : Res := jwaitOp (insR f) s
def execJwaitF96 (f : FX) (s : State) : Res := jwaitOp (insX f) s
def execJpoll (f : FR) (s : State) : Res := jpollOp (insR f) s
def execJpollF96 (f : FX) (s : State) : Res := jpollOp (insX f) s

def execJstat (f : FR) (s : State) : Res :=
  let i := insR f
  execState i { g := [i.b], dg := [i.d] } false 0 (fun cid k sl =>
    let c := s.core cid
    let v := if f.sub.getLsbD 0 then c.nextJob.toNat else (jstatVal c (jobId i sl)).toNat
    .next (s.retire cid k (sl.putG i.d v) i.len none)) s

end Sys2Proof.Machine
end

