-- ==== Sys2Proof/Machine/ExecDomain.lean ====
section
/-! DEFINITION. DOPEN, DCLOSE, DABORT and DSTAT, opcodes 0xD0 to 0xD3 (R217 to R219, R472 to R480). -/
namespace Sys2Proof.Machine

/-! ## DOPEN (R218) -/

/-- A domain descriptor's fields, bytes from 0. -/
structure DomDesc where
  did    : Nat
  parent : Nat
  plist  : W64
  npres  : Nat
  nout   : Nat
  olist  : W64
  flags  : Nat
  esc    : Nat
  evbit  : Nat
  evv    : Nat
  rest   : Nat
  deriving DecidableEq, Repr

def domDesc (bs : List Byte) : DomDesc :=
  let at_ (i n : Nat) : Nat := leNat ((bs.drop i).take n)
  { did := at_ 0 4, parent := at_ 4 4, plist := BitVec.ofNat 64 (at_ 8 8), npres := at_ 16 2, nout := at_ 18 2
    olist := BitVec.ofNat 64 (at_ 20 8), flags := at_ 28 1, esc := at_ 29 1, evbit := at_ 30 1, evv := at_ 31 1, rest := at_ 32 32 }

/-- A list entry: address, length, MODE and byte 15. -/
def domEntry (bs : List Byte) : W64 × Nat × Nat × Nat :=
  (BitVec.ofNat 64 (leNat (bs.take 8)), leNat ((bs.drop 8).take 6), leNat ((bs.drop 14).take 1), leNat ((bs.drop 15).take 1))

def domEntries (bs : List Byte) : List (W64 × Nat × Nat × Nat) :=
  (List.range (bs.length / 16)).map fun j => domEntry ((bs.drop (16 * j)).take 16)

/-- The descriptor's own fields are legal. -/
def DomDesc.ok (d : DomDesc) : Bool :=
  d.rest == 0 && 1 ≤ d.did && d.did ≤ 15 && d.parent ≤ 15 && d.parent != d.did && d.npres ≤ 64 && d.nout ≤ 64 && d.flags ≤ 1 && d.evv ≤ 1

/-- Its lists are legal, and the preserve area is memory at a virtual address. -/
def domListsOk (ps os : List (W64 × Nat × Nat × Nat)) (area : W128) : Bool :=
  ps.all (fun e => e.1.getLsbD 63 && e.2.2.1 ≤ 1 && e.2.2.2 == 0) && os.all (fun e => e.1.getLsbD 63 && e.2.2.1 == 0 && e.2.2.2 == 0) &&
  capKind area == 0 && area.getLsbD 63

/-- The status of DOPEN (R218, R478). The order of its checks is open. DESIGN CHOICE (log 59): safe. -/
def State.dopenStatus (s : State) (ctx : Nat) (d : DomDesc) (ps os : List (W64 × Nat × Nat × Nat)) (area : W128) : Nat :=
  let st := s.domState ctx (BitVec.ofNat 4 d.did)
  let par : BitVec 4 := BitVec.ofNat 4 d.parent
  let pst := s.domState ctx par
  pickStatus [(d.parent != 0 && !(pst == 1 || pst == 2 || pst == 4), 1),
    (d.parent != 0 && 4 ≤ ((s.dom ctx par).map (·.depth)).getD 0, 2),
    (256 ≤ (s.domains.filter fun x => x.state != 0 && x.state != 3).length, 3),
    (st == 1 || st == 2 || st == 4 || st == 5, 4),
    (!d.ok || !domListsOk ps os area, 5),
    (areaSize area < snapTotal (ps.map fun e => (e.1, e.2.1, e.2.2.1 == 1)), 6)]

/-- A domain opened: its entry, the snapshots and the area's header. -/
def State.openDom (s : State) (cid k ctx : Nat) (d : DomDesc) (ps os : List (W64 × Nat × Nat × Nat)) (desc : W64) (area : W128) : State :=
  let did : BitVec 4 := BitVec.ofNat 4 d.did
  let par : BitVec 4 := BitVec.ofNat 4 d.parent
  let depth := if d.parent == 0 then 1 else ((s.dom ctx par).map (·.depth)).getD 0 + 1
  let pres := ps.map fun e => (e.1, e.2.1, e.2.2.1 == 1)
  let x : Domain :=
    { ctx := ctx, did := did, parent := par, depth := depth, esc := if d.esc == 0 then 3 else d.esc, erase := d.flags == 1
      ev := if d.evv == 1 then some (BitVec.ofNat 8 d.evbit) else none, desc := desc, area := area, pres := pres
      outs := os.map fun e => (e.1, e.2.1), owner := (cid, k), off := snapTotal pres }
  let s1 := { s with domains := s.domains.filter (fun (y : Domain) => !(y.ctx == ctx && y.did == did)) ++ [x] }
  (((s1.snapshot ctx area pres).areaHeader x).domFar x 0 (snapPlan pres)).domFar x 1 x.protRanges

/-- The copies that other packages hold of a preserve list's lines are called in: all of a line to be protected, the owner's of a line to be
copied (R417). None while nothing is left to call in. -/
def State.callIn (s : State) (ctx : Nat) (pres : List (W64 × Nat × Bool)) : Option State :=
  s.dir.ents.foldl (fun (acc : Option State) e =>
    let t := acc.getD s
    let has (prot : Bool) : Bool := pres.any fun p => p.2.2 == prot && s.overlapsLine ctx p.1 p.2.1 e.pline
    if has true then (t.consult 0 e.pline true).orElse (fun _ => acc)
    else if has false then (t.consult 0 e.pline false).orElse (fun _ => acc)
    else acc) none

def execDopen (f : FR) (s : State) : Res :=
  let i := insR f
  execState i { g := [i.a, i.b], dg := [i.d] } false 0 (fun cid k sl =>
    match capHas sl i.b pST (List.range 16) with
    | some t => .next (s.preciseFault cid k t)
    | none =>
      match s.relWait cid k true with
      | some s' => .next s'
      | none =>
        match s.payRead cid k sl i.a 0 64 with
        | .error s' => .next s'
        | .ok (bs, s1) =>
          let d := domDesc bs
          let np := if d.ok then 16 * d.npres else 0
          let no := if d.ok then 16 * d.nout else 0
          match s1.payReads cid k sl i.a [(d.plist, np), (d.olist, no)] with
          | .error s' => .next s'
          | .ok (l, s2) =>
            let ctx := s.ctxOf cid
            let ps := domEntries (l.getD 0 [])
            let os := domEntries (l.getD 1 [])
            let area := (sl.readG i.b).val
            let st := s2.dopenStatus ctx d ps os area
            match (if st == 0 then s2.callIn ctx (ps.map fun e => (e.1, e.2.1, e.2.2.1 == 1)) else none) with
            | some s' => .next s'
            | none =>
            let cur := s2.slotAt cid k
            let sl1 := { sl with hzn := cur.hzn, hznUse := cur.hznUse, hznev := cur.hznev }.incClk.putG i.d st
            let s3 := s2.endPay cid k
            if st != 0 then .next (s3.retire cid k sl1 i.len none)
            else
              let did : BitVec 4 := BitVec.ofNat 4 d.did
              let s4 := s3.openDom cid k ctx d ps os (sl.g64 i.a) area
              .next (s4.retire cid k { sl1 with did := did, act := { sl1.act with opened := did :: sl1.act.opened } } i.len none)) s

/-! ## DCLOSE, DABORT, DSTAT (R219) -/

/-- The id that a register's bits 31:0 name; a number that is no id names an unknown domain. -/
def domId (sl : Slot) (r : RegNo) : Option (BitVec 4) :=
  let n := fld (sl.g64 r) 0 32
  if 1 ≤ n && n ≤ 15 then some (BitVec.ofNat 4 n) else none

/-- The status of DCLOSE. DEDUCED (log 20): unsafe. -/
def State.dcloseStatus (s : State) (ctx : Nat) (id : Option (BitVec 4)) : Nat :=
  match id.bind (s.dom ctx) with
  | none => 1
  | some d => if !d.isOpen then 1 else if !(s.openKids ctx d.did).isEmpty then 2 else 0

def execDclose (f : FR) (s : State) : Res :=
  let i := insR f
  execState i { g := [i.a], dg := [i.d] } false 0 (fun cid k sl =>
    let ctx := s.ctxOf cid
    let id := domId sl i.a
    let st := s.dcloseStatus ctx id
    let sl1 := sl.putG i.d st
    match id with
    | none => .next (s.retire cid k sl1 i.len none)
    | some did =>
      if st != 0 then .next (s.retire cid k sl1 i.len none)
      else
        let par := ((s.dom ctx did).map (·.parent)).getD 0
        let sl2 := if sl.act.opened.contains did then
            { sl1 with did := par, act := { sl1.act with opened := sl1.act.opened.filter (· != did) } } else sl1
        .next ((s.closeDom ctx did).retire cid k sl2 i.len none)) s

def execDabort (f : FR) (s : State) : Res :=
  let i := insR f
  execState i { g := [i.a], dg := [i.d] } false 0 (fun cid k sl =>
    let ctx := s.ctxOf cid
    match (domId sl i.a).bind (s.dom ctx) with
    | none => .next (s.retire cid k (sl.putG i.d 1) i.len none)
    | some d =>
      if d.state != 1 && d.state != 2 && d.state != 4 then .next (s.retire cid k (sl.putG i.d 1) i.len none)
      else if (s.domTree ctx d.did).contains sl.act.did then .next (s.abortDom ctx d.did false (f.sub.getLsbD 0))
      else .next ((s.abortDom ctx d.did false (f.sub.getLsbD 0)).retire cid k (sl.putG i.d 0) i.len none)) s

/-- The word that DSTAT writes. DEDUCED (log 20): unsafe. -/
def dstatVal (d : Option Domain) : W64 :=
  match d with
  | none => 0
  | some d => if d.state == 0 then 0 else packFields 64 [(32, 32, d.parent.toNat), (8, 8, d.fails), (4, 4, d.depth), (0, 4, d.state)]

def execDstat (f : FR) (s : State) : Res :=
  let i := insR f
  let cur := f.sub.getLsbD 0
  execState i { g := if cur then [] else [i.a], dg := [i.d] } false 0 (fun cid k sl =>
    let v := if cur then sl.did.toNat else (dstatVal ((domId sl i.a).bind (s.dom (s.ctxOf cid)))).toNat
    .next (s.retire cid k (sl.putG i.d v) i.len none)) s

end Sys2Proof.Machine
end

