-- ==== Sys2Proof/Machine/Fetch.lean ====
section
/-! DEFINITION. When a slot may issue, and the fetch of its next instruction with the checks made before execution (R25, R73 to
R75, R85, R123, R236, R440). -/
namespace Sys2Proof.Machine

/-- A core of the package: a worker core, a logical core folded onto another physical core (R363), or a service core. -/
def coreExists (cid : Nat) : Bool := cid < 65536 * 65537 || (svcBase ≤ cid && cid < svcBase + 1024)

/-- A slot's instruction may be tried, but for a YIELD that still runs: none of its reads stands refused, and no write of a stream is still
to be checked. -/
def State.mayIssue (s : State) (cid k : Nat) : Bool :=
  !postedBlock s.reqs cid k && !strmHold s.reqs cid k &&
  (match (s.slotAt cid k).run with
    | .running => true
    | .sleeping .stall => true
    | .sleeping (.block _) => true
    | .sleeping (.yield t) => t ≤ s.cycOf cid
    | _ => false)

/-- What a stalled slot waits for on a mailbox, a stream or a full queue has come (R236). -/
def State.blockOver (s : State) (cid k : Nat) : Block → Bool
  | .mbox m => (s.slotAt cid k).mbp &&& m == m
  | .stream n =>
    let x := vget (s.slotAt cid k).st n {}
    if x.state == 2 then decide (x.queue.length < 4)
    else decide (x.total ≤ x.moved) || (match x.queue with
      | [] => false
      | e :: _ => e.left == 0 || e.trap.isSome)
  | .sendq => decide ((s.core cid).sendq.length < 16)
  | .link core dir => decide ((vget (s.core core).links dir []).length < 4)

/-- A slot can issue: one that sleeps on a mailbox, a stream or a full queue cannot until its condition has come. A stall of any other kind,
which leaves its slot Running, counts as able to issue. DESIGN CHOICE (log 1): safe. -/
def State.ready (s : State) (cid k : Nat) : Bool :=
  s.mayIssue cid k && (match (s.slotAt cid k).run with
    | .sleeping (.block b) => s.blockOver cid k b
    | _ => true)

/-- Another slot of the physical core can issue: the slot of a YIELD then keeps waiting (R129). -/
def State.otherReady (s : State) (cid k : Nat) : Bool :=
  (s.residents cid).any fun c => (List.range 4).any fun j => (c, j) != (cid, k) && s.ready c j

/-- A slot's instruction may issue now: it runs, or its stall or YIELD is over, its core is not frozen and its die's clock
runs, and none of its reads stands refused. -/
def State.canIssue (s : State) (cid k : Nat) : Bool :=
  !s.frozen cid && s.dieRuns (dieOf (s.core cid).phys) &&
  (s.mayIssue cid k || (!postedBlock s.reqs cid k && !strmHold s.reqs cid k && (match (s.slotAt cid k).run with
    | .sleeping (.yield _) => !s.otherReady cid k
    | _ => false)))

/-- What a fetch yields: bytes, or the state in which the slot waits or has faulted. -/
inductive Fetched where
  | bytes (bs : List Byte)
  | other (s : State)

/-- The bytes of a launch's code as it stood at the launch's admission (R75), where it holds the line of an address. DESIGN
CHOICE (log 14): unsafe. -/
def Launch.codeBytes (l : Launch) (pc : W64) (n : Nat) : Option (List Byte) :=
  (tblGet (pc.toNat / 64) l.image).map fun (d : W512) => bytesOf (d >>> (8 * (pc.toNat % 64))) n

/-- The place of a byte of code within a launch: an address of local memory that a core has under its own name only differs from core to core. -/
def codeKey (cid : Nat) (ea : W64) : Nat :=
  match placeOf ea with
  | .localMem none _ true _ _ => 2 ^ 64 * (cid + 1) + ea.toNat
  | _ => ea.toNat

/-- Bytes of a launch's code that were fetched before, as they were then (R75). -/
def Launch.fetchedBytes (l : Launch) (cid : Nat) (ea : W64) (n : Nat) : Option (List Byte) :=
  (List.range n).mapM fun j => tblGet (codeKey cid (ea + BitVec.ofNat 64 j)) l.fetched

/-- Bytes of code that lie in no code of a launch as it was admitted stay as they are first fetched. DESIGN CHOICE (log 14): unsafe. -/
def State.keepCode (s : State) (cid : Nat) (pc : W64) (bs : List Byte) : State :=
  let ea := rewriteEa s.pkg cid pc
  match s.launchOf cid with
  | none => s
  | some l =>
    if (l.codeBytes ea bs.length).isSome then s
    else
      let f := bs.zipIdx.foldl (fun f (x : Byte × Nat) =>
        let a := codeKey cid (ea + BitVec.ofNat 64 x.2)
        if (tblGet a f).isSome then f else tblSet a x.1 f) l.fetched
      { s with launches := replaceFirst (fun x => x.lid == l.lid) (fun x => { x with fetched := f }) s.launches }

/-- Bytes fetched for a slot at a program counter, within one 32-byte block. Fetch from another package waits for the block's
arrival. A PC that no form of address has raises FORM. DESIGN CHOICE (log 14): unsafe. -/
def State.fetchBytes (s : State) (cid k : Nat) (pc : W64) (n : Nat) : Fetched :=
  let ea := rewriteEa s.pkg cid pc
  let fault (t : Trap) : Fetched := .other (s.preciseFault cid k t)
  let old := (s.launchOf cid).bind fun l => (l.codeBytes ea n).or (l.fetchedBytes cid ea n)
  let far : Fetched :=
    let blk := BitVec.ofNat 64 (ea.toNat / 32 * 32)
    match old with
    | some bs => .bytes bs
    | none =>
    match s.reqs.find? fun r => r.isOf cid k && r.op == .fetch && r.ea == blk && r.stage == .done with
    | some r => .bytes (bytesOf (r.data >>> (8 * (ea.toNat % 32))) n)
    | none =>
      .other ((s.addReq { s.slotReq cid k with op := .fetch, ea := blk, n := 32, stage := .fabric }).modSlot cid k
        fun sl => { sl with run := .sleeping (.walk s.nextId) })
  if formBad ea then fault { cause := cCAP_FAULT, sub := 9, addr := pc }
  else match placeOf ea with
    | .localMem (some _) _ _ _ _ => far
    | .localMem none core self _ off =>
      let t := if self then cid else s.memberCid (s.lidOf cid) core
      if errIn s.errs (lmKey t off) n 8 true then .other (s.freeze cid k { cause := cUNCORR, addr := errEa s.errs (lmKey t off) n 8 ea })
      else .bytes (old.getD (s.lmRead t off n))
    | .virt (some _) _ => far
    | .virt none va =>
      if inCtl va then .other (s.postProbe cid k 1 .exec ea xWINDOW)
      else match s.xlate cid k va .exec false with
        | .miss => .other (s.startWalk cid k 1 .exec ea)
        | .refuse c => .other (s.postProbe cid k 1 .exec ea c)
        | .ok pa _ =>
          match old with
          | some bs => .bytes bs
          | none =>
            if s.pocBad (pa / 64) then .other (s.freeze cid k { cause := cUNCORR, addr := ea }) else .bytes (s.pocBytes pa n)

/-- The fault of a rejected encoding (R85). -/
def decodeCause : DecodeFault → Nat
  | .truncated => cSTRADDLE
  | .illegalLength => cILLEGAL_LENGTH
  | .illegalOpcode => cILLEGAL_OPCODE
  | .illegalFormat => cILLEGAL_FORMAT
  | .illegalField => cILLEGAL_FIELD

/-- An enabled PC breakpoint of the core matches (R440). -/
def pcBreak (c : Core) (cid : Nat) (pc : W64) : Option Nat :=
  (List.range 4).find? fun n =>
    let ctl := vget c.bpctl n 0
    ctl.getLsbD 0 && fld ctl 1 3 == 2 && vget c.bpaddr n 0 == pc &&
    (coreNo cid &&& fld ctl 32 16) == (fld ctl 48 16 &&& fld ctl 32 16)

/-- The instruction that a slot is to execute, or the state in which it waits or has faulted. -/
inductive ToIssue where
  | instr (i : Instr) (s : State)
  | other (s : State)

/-- Blocks fetched from another package that the slot has used. -/
def State.endFetch (s : State) (cid k : Nat) : State :=
  { s with reqs := s.reqs.filter fun r => !(r.isOf cid k && r.op == .fetch && r.stage == .done) }

/-- The corrected errors that fetching bytes of a local memory meets are counted (R250). -/
def State.countFetch (s : State) (cid : Nat) (pc : W64) (n : Nat) : State :=
  match placeOf (rewriteEa s.pkg cid pc) with
  | .localMem none core self _ off => s.countCorr (if self then cid else s.memberCid (s.lidOf cid) core) off n
  | _ => s

/-- The checks of R85 up to the decoded instruction, in their order; then a PC breakpoint. -/
def State.fetchInstr (s : State) (cid k : Nat) : ToIssue :=
  let sl := s.slotAt cid k
  let pc := sl.pc
  let fault (t : Trap) : ToIssue := .other (s.preciseFault cid k t)
  let inPcc (n : Nat) : Option Nat := capCheck sl.pcc sl.pccTag pc.toNat n pEXEC [0]
  match inPcc 8 with
  | some sub => fault { cause := cCAP_FAULT, sub := sub, addr := pc }
  | none =>
    let room := 32 - pc.toNat % 32
    match s.fetchBytes cid k pc (min 4 room) with
    | .other s' => .other s'
    | .bytes w0 =>
      match lengthOf ((w0.headD 0).extractLsb' 0 2) with
      | none => fault { cause := cILLEGAL_LENGTH, addr := pc }
      | some len =>
        if room < len then fault { cause := cSTRADDLE, addr := pc }
        else match inPcc len with
          | some sub => fault { cause := cCAP_FAULT, sub := sub, addr := pc }
          | none =>
            match s.fetchBytes cid k pc len with
            | .other s' => .other s'
            | .bytes bs =>
              let s := (s.countFetch cid pc len).keepCode cid pc bs
              match decode (isSvc cid) bs with
              | .error e => .other (s.preciseFault cid k { cause := decodeCause e, addr := pc })
              | .ok (i, _) =>
                match pcBreak (s.core cid) cid pc with
                | some n => .other (s.freeze cid k { cause := cBREAK, sub := n, addr := pc })
                | none => .instr i (s.endFetch cid k)

/-- ACTEND: one that retires in the cycle in which its slot's watchdog count reaches the limit ends the activation (R237). -/
def isActend : Instr → Bool
  | .actend _ => true
  | _ => false

/-- The fetched instruction of a slot whose watchdog count has reached its limit does not retire (R237); an ACTEND in a cycle of the tick in
which it was reached does. DEDUCED (log 66): unsafe. -/
def State.inTime (s : State) (cid k : Nat) (x : ToIssue) : ToIssue :=
  if !s.overdue cid k then x
  else
    let sl := s.slotAt cid k
    let late : ToIssue := .other (s.preciseFault cid k { cause := cACT_TIMEOUT, aux := sl.actinfo })
    match x with
    | .instr i s' =>
      if isActend i && (s.launchOf cid).any fun l => sl.wdog < l.timeout + (7 + (s.dieAt cid).code.toNat) / 4 then .instr i s' else late
    | .other _ => late

/-- The turn of a slot: the end of a held access, the fetch of an instruction, or nothing. A mailbox written before this
cycle is no longer new (R37). DESIGN CHOICE (log 1): safe. -/
def State.turnOf (s : State) (cid k : Nat) : ToIssue :=
  let s := s.modSlot cid k fun sl => { sl with mbNew := 0 }
  if s.canIssue cid k then s.inTime cid k (s.fetchInstr cid k)
  else if !s.canWake cid k || postedBlock s.reqs cid k || strmHold s.reqs cid k then .other s
  else match s.endCheck cid k with
    | some s' => .other s'
    | none => .other s

end Sys2Proof.Machine
end

