-- ==== Sys2Proof/Machine/ExecSys.lean ====
section
/-! DEFINITION. System registers, traps, MARK and the instructions of service cores, opcodes 0xE0 to 0xEB (R38 to R49, R221 to
R224, R381 to R383, R435, R437, R453). -/
namespace Sys2Proof.Machine

/-! ## System registers (R38 to R49, R221, R437) -/

def Hzn.word (h : Hzn) : W64 := packFields 64 [(53, 1, b2n h.v), (50, 3, h.scope.toNat), (18, 32, h.clock.toNat), (0, 18, h.writer.toNat)]

/-- A per-slot register by number. -/
def slotReg (sl : Slot) (n : Nat) : Option W64 :=
  if n == 0 then some (sl.warn.zeroExtend 64)
  else if n == 1 then some (sl.fpc.zeroExtend 64)
  else if n == 2 then some sl.seed
  else if n == 3 then some (sl.clk.zeroExtend 64)
  else if n == 4 then some (sl.gen.zeroExtend 64)
  else if n == 5 then some sl.actinfo
  else if 6 ≤ n && n ≤ 8 then some (vget sl.actts (n - 6) 0)
  else if n == 9 then some (sl.mbp.zeroExtend 64)
  else if n == 0x0A then some (sl.hznev.zeroExtend 64)
  else if 0x10 ≤ n && n ≤ 0x1F then some (vget sl.hzn (n - 0x10) {}).word
  else none

/-- Word `j` of a store-fault record. -/
def sfqWord (r : Option SfqRec) (j : Nat) : W64 :=
  match r with
  | none => 0
  | some r => if j == 0 then r.addr else if j == 1 then r.pc
              else if j == 2 then packFields 64 [(10, 1, b2n r.v), (8, 2, r.slot.toNat), (0, 8, r.cause.toNat)] else 0

/-- Word `j` of a delay entry. -/
def dlytWord (e : Dlyt) (j : Nat) : W64 :=
  if j == 0 then packFields 64 [(32, 32, e.count.toNat), (26, 1, b2n e.v), (16, 10, e.spkg.toNat), (0, 16, e.score.toNat)]
  else if j == 1 then e.transit else if j == 2 then e.queue else e.run

/-- A per-core register by number. The delay entries are those of the physical core. -/
def State.coreReg (s : State) (cid n : Nat) : Option W64 :=
  let c := s.core cid
  if n == 0x100 then some (c.lmb1.zeroExtend 64)
  else if n == 0x101 then some (c.lmb2.zeroExtend 64)
  else if n == 0x102 then some (c.lmb3.zeroExtend 64)
  else if 0x108 ≤ n && n ≤ 0x10F then some (vget c.prot (n - 0x108) 0)
  else if n == 0x110 then some (s.cycOf cid)
  else if n == 0x111 then some (s.dieAt cid).tcyc
  else if n == 0x112 then some s.reft
  else if n == 0x113 then some (BitVec.ofNat 64 (min 64 (s.ldpend cid)))
  else if n == 0x114 then some (c.trcc.zeroExtend 64)
  else if 0x120 ≤ n && n ≤ 0x13F then some (sfqWord (c.sfq[(n - 0x120) / 4]?) ((n - 0x120) % 4))
  else if n == 0x140 then some (BitVec.ofNat 64 ((c.sfq.filter (·.v)).length + if c.sfqOvf then 16 else 0))
  else if n == 0x1FF then some 0
  else if 0x200 ≤ n && n ≤ 0x283 then some (dlytWord (vget (s.core c.phys).dlyt ((n - 0x200) / 4) {}) ((n - 0x200) % 4))
  else if isSvc cid && n == 0x300 then some c.dmpt
  else if isSvc cid && n == 0x301 then some c.dmpc
  else none

/-- A system register as SRD reads it. -/
def State.sysReg (s : State) (cid k n : Nat) : Option W64 :=
  match slotReg (s.slotAt cid k) n with
  | some v => some v
  | none => s.coreReg cid n

/-- Every delay entry cleared; no running activation is charged (R49, R449). -/
def State.clearDlyt (s : State) (cid : Nat) : State :=
  let ph := (s.core cid).phys
  let s1 := s.modCore ph fun c => { c with dlyt := Vector.replicate 33 {} }
  (s1.residents cid).foldl (fun s c => s.modCore c fun x =>
    { x with slots := x.slots.map fun sl => { sl with act := { sl.act with dlytOk := false } } }) s1

/-- TRCC under a write: SPER is held between 10 and 24 (R47). -/
def trccWrite (x : W64) : BitVec 9 :=
  let p := fld x 4 5
  setFld (x.extractLsb' 0 9) 4 5 (if p < 10 then 10 else if 24 < p then 24 else p)

/-- The core that a service core dumps: the first frozen one with the logical number in DMPC. DEDUCED (log 27): unsafe. -/
def State.dumpCid (s : State) (c : Core) : Nat := ((s.coresNamed (fld c.dmpc 16 16)).find? s.frozen).getD (fld c.dmpc 16 16)

/-- A dump starts: its core must be frozen (R437, R438). DEDUCED (log 27): unsafe. -/
def State.dumpStart (s : State) (sc : Nat) : State :=
  let c := s.core sc
  if c.dmpc.getLsbD 1 then s
  else if s.frozen (s.dumpCid c) then
    s.setCore sc { c with dmpc := setFld (setFld c.dmpc 12 4 1) 1 1 1, dumpBeg := s.reft, dumpBy := coreNo sc }
  else s.setCore sc { c with dmpc := setFld c.dmpc 12 4 2 }

/-- A per-slot register written. -/
def slotRegWrite (sl : Slot) (n : Nat) (x : W64) : Slot :=
  if n == 0 then { sl with warn := sl.warn &&& ~~~(x.extractLsb' 0 10) }
  else if n == 1 then
    if 5 ≤ fld x 0 3 then { sl.addWarn wFMTFIX with fpc := setFld (x.extractLsb' 0 9) 0 3 (fld sl.fpc 0 3) }
    else { sl with fpc := x.extractLsb' 0 9 }
  else if n == 2 then { sl with seed := if x == 0 then 1 else x }
  else sl

/-- A system register under SWR; every field that its map does not make writable keeps its value. -/
def State.sysWrite (s : State) (cid k : Nat) (sl : Slot) (n : Nat) (x : W64) : State :=
  let s1 := s.setSlot cid k (slotRegWrite sl n x)
  if n == 0x114 then s1.modCore cid fun c => { c with trcc := trccWrite x }
  else if n == 0x1FF then (if x.getLsbD 0 then s1.clearDlyt cid else s1)
  else if isSvc cid && n == 0x300 then s1.modCore cid fun c => { c with dmpt := x }
  else if isSvc cid && n == 0x301 then
    let s2 := s1.modCore cid fun c => { c with dmpc := setFld (setFld c.dmpc 16 16 (fld x 16 16)) 2 1 (fld x 2 1) }
    if x.getLsbD 0 then s2.dumpStart cid else s2
  else s1

def execSrd (f : FI) (s : State) : Res :=
  let i := insI f
  execState i { dg := [i.d] } false 0 (fun cid k sl =>
    match s.sysReg cid k (i.imm % 4096) with
    | none => .next (s.preciseFault cid k illegalField)
    | some v => .next (s.retire cid k (sl.putG i.d v.toNat) i.len none)) s

def execSwr (f : FI) (s : State) : Res :=
  let i := insI f
  execState i { g := [i.a] } false 0 (fun cid k sl =>
    let n := i.imm % 4096
    match s.sysReg cid k n with
    | none => .next (s.preciseFault cid k illegalField)
    | some _ =>
      let s1 := s.sysWrite cid k sl n (sl.g64 i.a)
      .next (s1.retire cid k (s1.slotAt cid k) i.len none)) s

/-! ## Traps and marks (R222, R223) -/

def execTrap (f : FI) (s : State) : Res :=
  let i := insI f
  execState i {} false 0 (fun cid k _ => .next (s.preciseFault cid k { cause := cTRAP, aux := BitVec.ofNat 64 i.imm })) s

def execBkpt (f : FI) (s : State) : Res :=
  let i := insI f
  execState i {} false 0 (fun cid k _ => .next (s.preciseFault cid k { cause := cBKPT, aux := BitVec.ofNat 64 (i.imm % 65536) })) s

def markOp (i : Ins) (s : State) : Res :=
  execState i { g := [i.a] } false 0 (fun cid k sl =>
    let s1 := s.traceRec cid k ((s.core cid).trcc.getLsbD 2) 0x03 sl.pc.toNat i.imm (sl.g64 i.a).toNat
    .next (s1.retire cid k sl i.len none)) s

def execMark (f : FI) (s : State) : Res := markOp (insI f) s
def execMarkF96 (f : FX) (s : State) : Res := markOp (insX f) s

/-! ## Retirement of a launch (R18, R36, R359) -/

/-- A slot when its launch starts or retires: mailbox registers with their tags and presence bits are cleared. -/
def Slot.clearMail (sl : Slot) : Slot :=
  { sl with g := (List.range 8).foldl (fun g n => vset g (56 + n) {}) sl.g, mbp := 0, mbNew := 0 }

/-- A tile zeroed, live, and given back to the core that owns it at launch start (R275, R277). -/
def tileReset (i : Nat) : Tile := { owner := BitVec.ofNat 3 (i / 2) }

/-- The tiles of a core's cluster that the core owns at launch start: 2k and 2k + 1 for core k of the cluster. DEDUCED (log 47):
unsafe. -/
def ownTiles (core : Nat) : List Nat :=
  let k := gblX core % 4 + gblY core % 2 * 4
  [2 * k, 2 * k + 1]

def Cluster.resetTiles (c : Cluster) (ts : List Nat) : Cluster := { c with tiles := ts.foldl (fun v t => vset v t (tileReset t)) c.tiles }

/-- What names a core by its identifier follows it. -/
def State.renameCore (s : State) (old new : Nat) : State :=
  let m (x : Msg) : Msg := if x.cid == old && x.origin != 2 then { x with cid := new } else x
  let rt (r : Root) : Root :=
    { r with msg := r.msg.map m, job := r.job.map fun (j : Job) => if j.cid == old then { j with cid := new } else j }
  { s with
    msgs := s.msgs.map m
    accs := s.accs.map fun (a : Access) => if a.cid == old then { a with cid := new } else a
    spills := s.spills.map fun x => (x.1, x.2.map m)
    clusters := s.clusters.map fun (x : Nat × Cluster) => (x.1, { x.2 with held := x.2.held.map m })
    suspd := s.suspd.map fun (j : Job) => if j.cid == old then { j with cid := new } else j
    domains := s.domains.map fun (d : Domain) => { d with owner := if d.owner.1 == old then (new, d.owner.2) else d.owner, roots := d.roots.map rt } }

/-- A member core's state of a launch ends: dirty lines are written back, then everything of the launch is dropped. The send queue of a
folded core goes on at its physical core (R238). -/
def State.leaveLaunch (s : State) (cid : Nat) : State :=
  let s1 := (s.core cid).l1.foldl (fun s l => s.writeBack l.cid l.slot l) s
  if cid < 65536 then
    s1.modCore cid fun c => { c with
      lid := none, slots := c.slots.map fun sl => sl.toDormant.clearMail, handlers := Vector.replicate 32 0
      regions := Vector.replicate 32 0, nrgn := 0, bufs := Vector.replicate 32 {}, links := Vector.replicate 4 []
      l1 := [], noL1 := false, fused := false, prot := Vector.replicate 8 0 }
  else
    let ph := (s1.core cid).phys
    let q := (s1.core cid).sendq.map fun m => { m with cid := ph }
    let s2 := (s1.renameCore cid ph).modCore ph fun c => { c with sendq := c.sendq ++ q }
    { s2 with cores := tblErase cid s2.cores }

/-- A logical cluster of a launch that ends: a core's own tiles go back to their state at launch start; a cluster that was the launch's own
is dropped, and what its engines still hold to be sent stays at the physical cluster. -/
def State.leaveCluster (s : State) (cid : Nat) : State :=
  let cl := s.clusterId cid
  if cl < 8192 then s.setCluster cl ((s.cluster cl).resetTiles (ownTiles (coreNo cid)))
  else
    let ph := clusterOf (s.core cid).phys
    let p := s.cluster ph
    let s1 := s.setCluster ph { p with held := p.held ++ (s.cluster cl).held, resident := p.resident.filter (· != cl) }
    { s1 with clusters := tblErase cl s1.clusters }

/-- What the release of a retirement waits for is done: no dirty line, and no write of a member core under way (R148, R359). -/
def State.settled (s : State) (l : Launch) : Bool :=
  (s.members l.lid).all fun cid =>
    ((s.core cid).l1.all fun x => x.dirty == 0) &&
    !s.reqs.any fun r => r.org == 0x3FF && r.cid == cid && r.open? && r.op.isStore

/-- Retirement once it is settled: the set mask into the event vector, a word at a time, and the cores become free. DEDUCED (log 23):
unsafe. -/
def State.retireNow (s : State) (l : Launch) : State :=
  let cids := s.members l.lid
  let s1 := cids.foldl State.leaveCluster s
  let s2 := cids.foldl State.leaveLaunch s1
  let caused (x : Launch) : Launch := if x.narrowBy == some l.lid then { x with narrowBy := some 0 } else x
  let s3 := { s2 with
    launches := (s2.launches.filter fun (x : Launch) => x.lid != l.lid).map caused
    episodes := s2.episodes.filter fun (x : Episode) => x.lid != l.lid }.spillsLost fun m => m.ctx == l.ctx && l.holds? (fld m.addr 37 16)
  (List.range 4).foldl (fun s w =>
    let m := l.setMask.extractLsb' (64 * w) 64
    if m == 0 then s else s.putEvent l.ctx w (s.evGet l.ctx w ||| m) none) s3

/-- Retirement is a release at PACKAGE: dirty lines are written back, and the set mask waits until every write has performed; meanwhile the
launch's cores take no message. DEDUCED (log 23): unsafe. -/
def State.retireLaunch (s : State) (l : Launch) : State :=
  if s.settled l then s.retireNow l
  else
    let flush (s : State) (cid : Nat) : State :=
      ((s.core cid).l1.foldl (fun s x => s.writeBack x.cid x.slot x) s).modCore cid fun c => { c with l1 := [] }
    let s1 := if l.ending then s else (s.members l.lid).foldl flush s
    let mark (x : Launch) : Launch :=
      { x with ending := true, fences := if l.ending then x.fences else x.fences ++ [(l.ox, l.oy, l.logw, l.logh)] }
    { s1 with launches := replaceFirst (fun x => x.lid == l.lid) mark s1.launches }

/-! ## Service-core instructions (R224) -/

/-- The group that KILLG's first operand names in a launch. -/
def killGroup (l : Launch) (a : W64) : Option Group :=
  let g : Group := { gx := fld a 16 8, gy := fld a 24 8, logw := fld a 32 4, logh := fld a 36 4 }
  if l.logw < g.logw || l.logh < g.logh || g.gx < l.ox || g.gy < l.oy || l.ox + l.w ≤ g.gx || l.oy + l.h ≤ g.gy ||
      (g.gx - l.ox) % 2 ^ g.logw != 0 || (g.gy - l.oy) % 2 ^ g.logh != 0 then none
  else some g

/-- A message is for a core of a launch's group. -/
def Msg.into (m : Msg) (l : Launch) (g : Group) : Bool := m.ctx == l.ctx && fld m.addr 53 10 == 0x3FF && g.has (fld m.addr 37 16)

/-- KILLG: the activations ended, and the state. DEDUCED (log 23): unsafe. -/
def State.killGroupOf (s : State) (l : Launch) (g : Group) (fence retire : Bool) : Nat × State :=
  let cids := g.cores.map (s.memberCid l.lid)
  let mine := cids.filter fun cid => (s.core cid).lid == some l.lid
  let (n, s1) := s.endSlots mine fun _ => true
  let s2 := { s1 with cores := s1.cores.map fun (p : Nat × Core) => if mine.contains p.1 then (p.1, p.2.dropRecs fun _ => true) else p }
  let s3 := s2.killJobs fun j => mine.contains j.cid
  let add (x : Launch) : Launch := { x with fences := x.fences ++ [(g.gx, g.gy, g.logw, g.logh)] }
  let s4 := if fence then
      ({ s3 with launches := replaceFirst (fun x => x.lid == l.lid) add s3.launches }).spillsLost fun m => m.into l g
    else s3
  let whole := g.logw == l.logw && g.logh == l.logh
  (n, if retire && whole then s4.retireLaunch l else s4)

def execKillg (f : FR) (s : State) : Res :=
  let i := insR f
  execState i { g := [i.a, i.b], dg := [i.d] } false 0 (fun cid k sl =>
    let a := sl.g64 i.a
    let b := sl.g64 i.b
    match s.launches.find? fun l => l.lid.toNat == fld a 0 16 with
    | none => .next (s.retire cid k (sl.putG i.d (2 ^ 63)) i.len none)
    | some l =>
      match killGroup l a with
      | none => .next (s.retire cid k (sl.putG i.d (2 ^ 63)) i.len none)
      | some g =>
        let r := s.killGroupOf l g (b.getLsbD 0) (b.getLsbD 1)
        .next (r.2.retire cid k (sl.putG i.d r.1) i.len none)) s

/-- The length of the instruction that a core's fault record names, for RESUME with SKIP; open where its bytes are not readable or
give none. DESIGN CHOICE (log 71): safe. -/
def State.skipLen (s : State) (cid : Nat) : Nat :=
  let k := fld (s.core cid).faultRec 224 2
  let pc := (s.slotAt cid k).pc
  let ea := rewriteEa s.pkg cid pc
  let old := (s.launchOf cid).bind fun l => (l.codeBytes ea 1).or (l.fetchedBytes cid ea 1)
  let block := (s.reqs.find? fun r => r.isOf cid k && r.op == .fetch && r.stage == .done && r.ea.toNat / 32 == ea.toNat / 32).map fun (r : Req) =>
    bytesOf (r.data >>> (8 * (ea.toNat % 32) : Nat)) 1
  let b : Option Byte := match old.or block with
    | some bs => bs.head?
    | none => match placeOf ea with
      | .localMem none core self _ off => ((s.bytesAt (lmKey (if self then cid else s.memberCid (s.lidOf cid) core) off) 1).head?)
      | .virt none va =>
        (match (if inCtl va then WalkRes.fault xWINDOW else s.walk (s.ctxOf cid) va) with
        | .leaf e level _ => (s.pocBytes (xlatePa e level va) 1).head?
        | .fault _ => none)
      | _ => none
  (b.bind fun x => lengthOf (x.extractLsb' 0 2)).getD (4 * Config.skipWords pc)

def execResume (f : FR) (s : State) : Res :=
  let i := insR f
  execState i { g := [i.a], dg := [i.d] } false 0 (fun cid k sl =>
    let n := fld (sl.g64 i.a) 0 16
    let named := s.coresNamed n
    let t := (named.find? fun c => (s.core c).frz.frozen).getD n
    let r := s.resumeCore t (f.sub.getLsbD 0) (s.skipLen t)
    .next (r.2.retire cid k (sl.putG i.d r.1) i.len none)) s

/-- A slot waits for PGREPLY. -/
def State.awaits (s : State) (cid k : Nat) : Bool :=
  (match (s.slotAt cid k).run with
    | .sleeping (.posted _) => true
    | _ => false) || postedBlock s.reqs cid k || s.reqs.any fun r => r.isOf cid k && r.strm && !r.op.isStore && (match r.stage with
      | .refused _ => true
      | _ => false)

/-- A refused read of a slot goes back to where it is translated; one of the control space, or of bytes of a debug window that are not
aligned, is refused again where it issues. -/
def Req.again (r : Req) : Req :=
  match placeOf r.ea with
  | .localMem none _ _ dbg _ => if dbg && r.op == .load then r else { r with stage := .core }
  | .virt none va => if !inCtl va then { r with stage := .walk } else if r.op == .windowRead then { r with stage := .home } else r
  | .virt (some _) va => if inCtl va then r else { r with stage := .fabric }
  | .localMem (some _) _ _ _ _ => { r with stage := .fabric }

/-- The refused reads of a slot are translated again; one found refused again posts a new record (R381). A probe of an instruction that has not
retired is dropped, since its slot issues it again; that of a TOUCH of another package, which has, is sent again. DEDUCED (log 24):
unsafe. -/
def State.retryReads (s : State) (cid k : Nat) : State :=
  let mine (r : Req) : Bool := r.isOf cid k && !r.op.isStore && r.stage.isRefused
  let drop (r : Req) : Bool := mine r && r.op.isProbe && ((s.slotAt cid k).run == .sleeping (.posted r.id) || r.again.stage == r.stage ||
    r.again.stage == .walk)
  let rs := s.reqs.filter fun r => !drop r
  let s1 := { s with reqs := rs.map fun r => if mine r then r.again else r }
  (rs.filter fun r => mine r && r.again.stage.isRefused).foldl (fun s r => s.postPacket r (match r.stage with
    | .refused c => c
    | _ => 0)) s1

/-- A slot that slept for a posted fault issues its instruction again. -/
def Slot.unpost (sl : Slot) : Slot :=
  match sl.run with
  | .sleeping (.posted _) => { sl with run := .running }
  | _ => sl

/-- PGREPLY (R224, R381): action 0 retries, action 1 freezes the core with the instruction not retired. -/
def execPgreply (f : FR) (s : State) : Res :=
  let i := insR f
  execState i { g := [i.a, i.b], dg := [i.d] } false 0 (fun cid k sl =>
    let a := sl.g64 i.a
    let act := (sl.g64 i.b).toNat
    let t := fld a 0 2
    let done (s : State) (st : Nat) : Res := .next (s.retire cid k (sl.putG i.d st) i.len none)
    if 2 ≤ act then done s 2
    else match (s.coresNamed (fld a 2 16)).find? fun c => s.awaits c t with
      | none => done s 1
      | some c =>
        if act == 0 then done ((s.retryReads c t).modSlot c t Slot.unpost) 0
        else
          let ea := ((s.reqs.find? fun r => r.isOf c t && !r.op.isStore && (match r.stage with
            | .refused _ => true
            | _ => false)).map (·.ea)).getD 0
          let drop (r : Req) : Bool := r.isOf c t && (match r.op, r.stage with
            | .probe _ _, .refused _ => true
            | _, _ => false)
          done (({ s with reqs := s.reqs.filter fun r => !drop r }.modSlot c t Slot.unpost).freeze c t { cause := cPAGE, addr := ea }) 0) s

/-- The other live packages of the fabric: those with a valid route that are not declared lost. -/
def State.livePkgs (s : State) : List Nat :=
  (s.fab.routes.filter fun r => r.2.v && r.1 != s.pkg.toNat && !s.fab.lost.any (fun d => d == .package r.1)).map (·.1)

/-- The L1 lines of an invalidated page, whose addresses name a package. -/
def L1Line.inPage (l : L1Line) (all : Bool) (ctx va level pkg : Nat) : Bool :=
  let ea : W64 := BitVec.ofNat 64 (l.line * 64)
  ea.getLsbD 63 && fld ea 53 10 == pkg && Sys2Proof.Machine.inPage all ctx va level l.ctx (fld ea 0 53)

/-- Every core writes back and drops the lines of a page. DEDUCED (log 35): unsafe. -/
def State.flushPage (s : State) (all : Bool) (ctx va level pkg : Nat) : State :=
  let hit (l : L1Line) : Bool := l.inPage all ctx va level pkg
  let s0 := { s with reqs := s.reqs.map fun r =>
      if r.org == 0x3FF && (r.op == .fill || r.op == .store) && hit { ctx := r.ctx, line := lineOf r.ea } then { r with keep := false } else r }
  (s.cores.map (·.1)).foldl (fun s cid =>
    let ls := (s.core cid).l1
    let s1 := (ls.filter hit).foldl (fun s l => s.writeBack l.cid l.slot l) s
    s1.modCore cid fun c => { c with l1 := c.l1.filter fun l => !hit l }) s0

/-- An invalidation begun: translations removed, lines flushed, and the packages whose acknowledgements it awaits. -/
def State.startInv (s : State) (cid k ctx va level : Nat) (all flush remote : Bool) : State :=
  let s1 := s.tlbPurge all ctx va level
  let s2 := if flush then s1.flushPage all ctx va level 0x3FF else s1
  let others := if flush && remote then s2.livePkgs else []
  let x : Inv := { k := s2.nextId, cid := cid, slot := k, ctx := ctx, va := va, level := level, all := all, upTo := s2.nextId
                   wait_ := s.pkg.toNat :: others }
  { s2 with
    nextId := s2.nextId + 1
    invs := s2.invs ++ [x]
    out := s2.out ++ others.map fun p => .flush p ctx (BitVec.ofNat 64 va) level }

def execTlbinv (f : FR) (s : State) : Res :=
  let i := insR f
  execState i { g := [i.a, i.b], dg := [i.d] } false 0 (fun cid k sl =>
    let b := sl.g64 i.b
    let s1 := s.startInv cid k (fld b 3 6) (fld (sl.g64 i.a) 0 53) (fld b 0 2) (b.getLsbD 2) (b.getLsbD 9) (b.getLsbD 10)
    .next (s1.setSlot cid k { sl with run := .sleeping (.tlbinv i.d (s1.nextId - 1)) })) s

end Sys2Proof.Machine
end

