-- ==== Sys2Proof/Machine/Debug.lean ====
section
/-! DEFINITION. The debug window of a core: what it reads and what a write changes, precise stops, and the clearing of the
store-fault queue (R432 to R436, R440, R441). -/
namespace Sys2Proof.Machine

/-! ## Reads -/

/-- A wait that R236 calls Sleeping: of WAIT, EVWAIT, JWAIT and BARRIER, for PGREPLY, or on a mailbox, a stream or a full queue. Any other
leaves its slot Running. DEDUCED (log 30): unsafe. -/
def Wait.sleeps : Wait → Bool
  | .wait _ _ _ => true
  | .evwait _ _ _ _ _ => true
  | .jwait _ _ _ => true
  | .barrier _ _ => true
  | .barred _ => true
  | .posted _ => true
  | .submit _ _ _ _ _ _ => true
  | .block _ => true
  | .tlbinv _ _ => false
  | .walk _ => false
  | .check _ _ _ _ _ => false
  | .yield _ => false
  | .stall => false

/-- The state that a slot shows: 0 dormant, 1 running, 2 sleeping, 3 frozen (R236, R433). -/
def slotState (sl : Slot) (frozen : Bool) : Nat :=
  match sl.run with
  | .dormant => 0
  | .running => if frozen then 3 else 1
  | .sleeping w => if frozen then 3 else if w.sleeps then 2 else 1
  | .suspended _ => if frozen then 3 else 2

def word64 {n : Nat} (x : BitVec n) (j : Nat) : W64 := x.extractLsb' (64 * j) 64

/-- A word of a slot's block (R433). -/
def slotWord (sl : Slot) (frozen : Bool) (o : Nat) : W64 :=
  if o < 0x400 then word64 (sl.readG (BitVec.ofNat 6 (o / 16))).val (o / 8 % 2)
  else if o == 0x400 then BitVec.ofNat 64 ((List.range 64).foldl (fun acc n => acc + (if (sl.readG (BitVec.ofNat 6 n)).tag then 2 ^ n else 0)) 0)
  else if o == 0x408 || o == 0x410 then
    packFields 64 ((List.range 4).map fun j => (16 * j, 16, (sl.readP ((o - 0x408) / 2 + j)).toNat))
  else if o == 0x420 then sl.pc
  else if o == 0x430 || o == 0x438 then word64 sl.pcc (o / 8 % 2)
  else if o == 0x440 then BitVec.ofNat 64 (b2n sl.loop.lact)
  else if o == 0x448 then sl.loop.lstart
  else if o == 0x450 then sl.loop.lend
  else if o == 0x458 then sl.loop.lcnt
  else if o == 0x460 then packFields 64 [(0, 4, sl.did.toNat), (8, 2, slotState sl frozen)]
  else if o == 0x468 then packFields 64 [(0, 1, b2n sl.msgl), (1, 1, b2n sl.jobl)]
  else if 0x500 ≤ o && o < 0x600 then (slotReg sl ((o - 0x500) / 8)).getD 0
  else if 0x800 ≤ o && o < 0x1000 then word64 (sl.readV (BitVec.ofNat 6 ((o - 0x800) / 64))).val (o / 8 % 8)
  else 0

/-- FRZ (R434). -/
def Frz.word (f : Frz) : W64 :=
  packFields 64 [(0, 1, b2n f.frozen), (1, 1, b2n f.stopped), (2, 1, b2n f.stopreq), (3, 1, b2n f.nested), (4, 1, b2n f.bpskip)]

/-- The word of a core's debug window at an offset that is a multiple of 8 (R432). -/
def State.debugWord (s : State) (cid o : Nat) : W64 :=
  let c := s.core cid
  if o < 0x8000 then slotWord (c.slot (o / 0x2000)) (s.frozen cid) (o % 0x2000)
  else if o < 0x9000 then (if o ≤ 0x8000 + 8 * (0x283 - 0x100) then (s.coreReg cid ((o - 0x8000) / 8 + 0x100)).getD 0 else 0)
  else if o == 0x9000 then ({ c.frz with frozen := s.frozen cid } : Frz).word
  else if o == 0x9010 then c.retryc
  else if o == 0x9018 then c.refstall
  else if o == 0x9020 then c.corrc
  else if 0x9040 ≤ o && o < 0x9080 then word64 c.faultRec ((o - 0x9040) / 8)
  else if 0x9080 ≤ o && o < 0x90C0 then word64 c.raceRec ((o - 0x9080) / 8)
  else if 0x90C0 ≤ o && o < 0x9120 then word64 c.engineLost ((o - 0x90C0) / 8)
  else if 0x9200 ≤ o && o < 0x9240 then
    let n := (o - 0x9200) / 16
    if o % 16 == 0 then vget c.bpaddr n 0 else vget c.bpctl n 0
  else if 0xA000 ≤ o && o < 0xA200 then word64 (c.handler ((o - 0xA000) / 16)) (o / 8 % 2)
  else if 0xA200 ≤ o && o < 0xA400 then word64 (vget c.regions ((o - 0xA200) / 16) 0) (o / 8 % 2)
  else 0

/-- An access of the debug window has a legal size and is aligned. -/
def debugSize (o n : Nat) : Bool := (n == 8 || n == 16 || n == 64) && o % n == 0

/-- `n` bytes read. -/
def State.debugRead (s : State) (cid o n : Nat) : W512 :=
  packFields 512 ((List.range (n / 8)).map fun j => (64 * j, 64, (s.debugWord cid (o + 8 * j)).toNat))

/-! ## Stops (R441) -/

/-- Writing STOPREQ. DEDUCED (log 30): unsafe. -/
def Frz.setStop (f : Frz) (b : Bool) : Frz := if b then { f with stopreq := true } else { f with stopreq := false, stopped := false, stopBy := 0xFF }

/-- The cores of a physical core take a write of STOPREQ. -/
def State.setStop (s : State) (cid : Nat) (b : Bool) : State := s.modCore cid fun c => { c with frz := c.frz.setStop b }

/-- SFQCLR: records cleared, those that remain moved down, and OVF (R434). -/
def Core.sfqClear (c : Core) (x : BitVec 9) : Core :=
  { c with
    sfq := (((List.range c.sfq.length).filter fun k => !x.getLsbD k).filterMap fun k => c.sfq[k]?).filter (·.v)
    sfqOvf := c.sfqOvf && !x.getLsbD 8 }

/-! ## Writes -/

def setWord {n : Nat} (x : BitVec n) (j : Nat) (w : W64) : BitVec n := setFld x (64 * j) 64 w.toNat

/-- A per-slot system register written by its fields; a SEED of zero is kept as it is written. DEDUCED (log 30): unsafe. -/
def slotRegPut (sl : Slot) (n : Nat) (x : W64) : Slot :=
  if n == 0 then { sl with warn := x.extractLsb' 0 10 }
  else if n == 1 then { sl with fpc := if 5 ≤ fld x 0 3 then setFld (x.extractLsb' 0 9) 0 3 (fld sl.fpc 0 3) else x.extractLsb' 0 9 }
  else if n == 2 then { sl with seed := x }
  else if n == 3 then { sl with clk := x.extractLsb' 0 32 }
  else if n == 4 then { sl with gen := x.extractLsb' 0 9 }
  else if n == 5 then { sl with actinfo := packFields 64 [(0, 9, fld x 0 9), (48, 16, fld x 48 16)] }
  else if 6 ≤ n && n ≤ 8 then { sl with actts := vset sl.actts (n - 6) x }
  else if n == 9 then { sl with mbp := x.extractLsb' 0 8 }
  else if n == 0x0A then { sl with hznev := x.extractLsb' 0 16 }
  else if 0x10 ≤ n && n ≤ 0x1F then
    { sl with hzn := vset sl.hzn (n - 0x10) { v := x.getLsbD 53, scope := x.extractLsb' 50 3, clock := x.extractLsb' 18 32, writer := x.extractLsb' 0 18 } }
  else sl

/-- A word of a slot's block written. A slot state of 0 or 1 takes effect; 2 and 3 leave the state as it is. -/
def slotPut (sl : Slot) (o : Nat) (x : W64) : Slot :=
  if o < 0x400 then
    let r := o / 16
    let q := vget sl.g r {}
    if r == 0 then sl else { sl with g := vset sl.g r { q with val := setWord q.val (o / 8 % 2) x } }
  else if o == 0x400 then
    { sl with g := (List.range 63).foldl (fun g n => vset g (n + 1) { vget g (n + 1) {} with tag := x.getLsbD (n + 1) }) sl.g }
  else if o == 0x408 || o == 0x410 then
    (List.range 4).foldl (fun sl j => sl.writeP ((o - 0x408) / 2 + j) (x.extractLsb' (16 * j) 16)) sl
  else if o == 0x420 then { sl.endGather with pc := x }
  else if o == 0x430 || o == 0x438 then { sl with pcc := setWord sl.pcc (o / 8 % 2) x }
  else if o == 0x440 then { sl with loop := { sl.loop with lact := x.getLsbD 0 } }
  else if o == 0x448 then { sl with loop := { sl.loop with lstart := x } }
  else if o == 0x450 then { sl with loop := { sl.loop with lend := x } }
  else if o == 0x458 then { sl with loop := { sl.loop with lcnt := x } }
  else if o == 0x460 then
    let st := fld x 8 2
    { sl with did := x.extractLsb' 0 4, run := if st == 0 then .dormant else if st == 1 then .running else sl.run }
  else if o == 0x468 then { sl with msgl := x.getLsbD 0, jobl := x.getLsbD 1 }
  else if 0x500 ≤ o && o < 0x600 then slotRegPut sl ((o - 0x500) / 8) x
  else if 0x800 ≤ o && o < 0x1000 then
    let r := (o - 0x800) / 64
    let q := vget sl.v r {}
    { sl with v := vset sl.v r { q with val := setWord q.val (o / 8 % 8) x } }
  else sl

/-- A word of a store-fault record written by its fields, each record in its place. -/
def sfqPut (l : List SfqRec) (k j : Nat) (x : W64) : List SfqRec :=
  let l1 := l ++ List.replicate (k + 1 - l.length) { v := false }
  let put (r : SfqRec) : SfqRec := if j == 0 then { r with addr := x } else if j == 1 then { r with pc := x }
    else if j == 2 then { r with v := x.getLsbD 10, slot := x.extractLsb' 8 2, cause := x.extractLsb' 0 8 } else r
  l1.modify k put

def dlytPut (e : Dlyt) (j : Nat) (x : W64) : Dlyt :=
  if j == 0 then { e with count := x.extractLsb' 32 32, v := x.getLsbD 26, spkg := x.extractLsb' 16 10, score := x.extractLsb' 0 16 }
  else if j == 1 then { e with transit := x } else if j == 2 then { e with queue := x } else { e with run := x }

/-- A per-core system register written by its fields; SFQSTAT.COUNT follows the records. DEDUCED (log 30): unsafe. -/
def State.coreRegPut (s : State) (cid n : Nat) (x : W64) : State :=
  if n == 0x100 then s.modCore cid fun c => { c with lmb1 := x.extractLsb' 0 20 }
  else if n == 0x101 then s.modCore cid fun c => { c with lmb2 := x.extractLsb' 0 20 }
  else if n == 0x102 then s.modCore cid fun c => { c with lmb3 := x.extractLsb' 0 20 }
  else if 0x108 ≤ n && n ≤ 0x10F then s.modCore cid fun c => { c with prot := vset c.prot (n - 0x108) (packFields 64 [(0, 16, fld x 0 16), (43, 4, fld x 43 4), (48, 16, fld x 48 16)]) }
  else if n == 0x114 then s.modCore cid fun c => { c with trcc := trccWrite x }
  else if 0x120 ≤ n && n ≤ 0x13F then s.modCore cid fun c => { c with sfq := sfqPut c.sfq ((n - 0x120) / 4) ((n - 0x120) % 4) x }
  else if n == 0x140 then s.modCore cid fun c => { c with sfqOvf := x.getLsbD 4 }
  else if n == 0x1FF then (if x.getLsbD 0 then s.clearDlyt cid else s)
  else if 0x200 ≤ n && n ≤ 0x283 then
    s.modCore (s.core cid).phys fun c =>
      { c with dlyt := vset c.dlyt ((n - 0x200) / 4) (dlytPut (vget c.dlyt ((n - 0x200) / 4) {}) ((n - 0x200) % 4) x) }
  else s

/-- An offset whose write takes effect only while the core is frozen or stopped. -/
def debugGuarded (o : Nat) : Bool := o < 0x8C20 || (0x9040 ≤ o && o < 0x9080) || (0xA000 ≤ o && o < 0xA400)

/-- A word of the window written. A deposit that waited for a presence bit lands when a write clears it (R37). -/
def State.debugPut (s : State) (cid o : Nat) (x : W64) : State :=
  if o < 0x8000 then s.modCore cid fun c => applyDeposits (c.setSlot (o / 0x2000) (slotPut (c.slot (o / 0x2000)) (o % 0x2000) x))
  else if o < 0x9000 then s.coreRegPut cid ((o - 0x8000) / 8 + 0x100) x
  else if o == 0x9000 then
    (s.modCore cid fun c => if x.getLsbD 3 then { c with frz := { c.frz with nested := false } } else c).setStop cid (x.getLsbD 2)
  else if o == 0x9008 then s.modCore cid fun c => c.sfqClear (x.extractLsb' 0 9)
  else if o == 0x9010 then s.modCore cid fun c => { c with retryc := x }
  else if o == 0x9018 then s.modCore cid fun c => { c with refstall := x }
  else if o == 0x9020 then s.modCore cid fun c => { c with corrc := x }
  else if 0x9040 ≤ o && o < 0x9080 then s.modCore cid fun c => { c with faultRec := setWord c.faultRec ((o - 0x9040) / 8) x }
  else if 0x9080 ≤ o && o < 0x90C0 then s.modCore cid fun c => { c with raceRec := setWord c.raceRec ((o - 0x9080) / 8) x }
  else if 0x90C0 ≤ o && o < 0x9120 then s.modCore cid fun c => { c with engineLost := setWord c.engineLost ((o - 0x90C0) / 8) x }
  else if 0x9200 ≤ o && o < 0x9240 then
    let n := (o - 0x9200) / 16
    s.modCore cid fun c => if o % 16 == 0 then { c with bpaddr := vset c.bpaddr n x }
      else { c with bpctl := vset c.bpctl n (packFields 64 [(0, 9, fld x 0 9), (32, 32, fld x 32 32)]) }
  else if 0xA000 ≤ o && o < 0xA200 then
    s.modCore cid fun c => { c with handlers := vset c.handlers ((o - 0xA000) / 16) (setWord (c.handler ((o - 0xA000) / 16)) (o / 8 % 2) x) }
  else if 0xA200 ≤ o && o < 0xA400 then
    let k := (o - 0xA200) / 16
    s.modCore cid fun c => { c with regions := vset c.regions k (setWord (vget c.regions k 0) (o / 8 % 2) x), nrgn := max c.nrgn (k + 1) }
  else s

/-- A write of `n` bytes: none where it is refused with cause WINDOW. -/
def State.debugWrite (s : State) (cid o n : Nat) (d : W512) : Option State :=
  if !debugSize o n || (debugGuarded o && !(s.frozen cid || (s.core cid).frz.stopped)) then none
  else some ((List.range (n / 8)).foldl (fun s j => s.debugPut cid (o + 8 * j) (word64 d j)) s)

/-! ## The pop of a collector queue (R429, R432) -/

/-- The bytes of a pop and the queue after it; an empty queue gives TYPE 0xFF. -/
def collectorPop (q : List (BitVec 256)) : W512 × List (BitVec 256) :=
  match q with
  | [] => (packFields 512 [(248, 8, 0xFF)], [])
  | p :: rest => (p.zeroExtend 512 ||| packFields 512 [(256, 16, rest.length)], rest)

/-- A service core takes the oldest packet of its own queue. -/
def State.popCollector (s : State) (cid : Nat) : W512 × State :=
  let r := collectorPop (s.core cid).collector
  (r.1, s.modCore cid fun c => { c with collector := r.2 })

def execDebugWindowWrite (cid off n : Nat) (val : W512) (s : State) : Res := .next ((s.debugWrite cid off n val).getD s)
def execStopRequest (cid : Nat) (val : Bool) (s : State) : Res := .next (s.setStop cid val)
def execSfqclr (cid : Nat) (val : BitVec 9) (s : State) : Res := .next (s.modCore cid fun c => c.sfqClear val)
def execDlytclr (cid : Nat) (val : W64) (s : State) : Res := .next (if val.getLsbD 0 then s.clearDlyt cid else s)
def execCollectorPop (sc : Nat) (s : State) : Res := .next (s.popCollector (svcBase + sc)).2

end Sys2Proof.Machine
end

