-- ==== Sys2Proof/Machine/ExecAtomic.lean ====
section
/-! DEFINITION. Atomics and multicast stores at their issuing slot, opcodes 0x4C to 0x50 (R157 to R163, R294, R301). -/
namespace Sys2Proof.Machine

/-- The installed program of a loadable handler. -/
def State.handlerImage (s : State) (h : Nat) : Option Image := (tblGetD s.handlers h {}).inst

/-- The access size of a handler at its issuer (R158, R301). -/
def State.handlerSize (s : State) (h : Nat) : Nat :=
  if h == 1 then 4 else if h == 2 then 64 else if h == 10 then 16 else if h < 12 then 8
  else match s.handlerImage h with
    | some m => 2 ^ m.logsize
    | none => 8

/-- The version that a request for a handler carries (R301). -/
def State.handlerVersion (s : State) (h : Nat) : BitVec 16 :=
  match s.handlerImage h with
  | some m => if h < 12 then 0 else m.version
  | none => 0

/-- The operand block: g[d] as word 0, or v[d] (R157). -/
def atomOperand (i : Ins) (sl : Slot) (opv : Bool) : Except Trap W512 :=
  if opv then sl.useV i.d (BitVec.allOnes 64) else .ok ((sl.readG i.d).val.zeroExtend 512)

/-- The packages that a destination string names. DEDUCED (log 29): unsafe. -/
def mcDests (sl : Slot) (b : RegNo) : BitVec 1024 :=
  ((sl.readV (b + 1)).val.zeroExtend 1024 <<< 512 ||| (sl.readV b).val.zeroExtend 1024) &&& BitVec.ofNat 1024 (2 ^ 993 - 1)

/-- The packages of a string in increasing order. -/
def mcList (d : BitVec 1024) : List Nat := (List.range 993).filter d.getLsbD

/-- The address of a copy at a package, this package's own as 0x3FF. -/
def mcAddr (own : BitVec 10) (ea : W64) (p : Nat) : W64 := setFld ea 53 10 (if p == own.toNat then 0x3FF else p)

/-- An earlier atomic of the slot to the line of an address is outstanding, an MRED's copy among them (R294). -/
def atomAhead (own : BitVec 10) (rs : List Req) (cid k : Nat) (ea : W64) : Bool :=
  rs.any fun r => r.isOf cid k && (match r.op with
    | .atomic _ _ _ _ => lineOf r.ea == lineOf ea
    | .mcast d (some _) =>
      let p := if fld ea 53 10 == 0x3FF then own.toNat else fld ea 53 10
      d.getLsbD p && lineOf (mcAddr own r.ea p) == lineOf ea
    | _ => false)

/-- A line leaves the issuing core's L1, written back, before a request for it leaves the core (R157); fills of it that are under way
are not installed, so that no later load of the slot returns what is older (R138). -/
def State.l1Leave (s : State) (cid k line : Nat) : State :=
  let s1 := s.noInstall (s.l1Core cid line) line
  match s1.l1Get cid line with
  | some l => (s1.writeBack cid k l).l1Drop cid line
  | none => s1

/-- An atomic: handler `h` on the line of an address, its operand block `d`, and the destination of its old value. One on a window of the
control space, which has no home M-die to run it, is refused with cause WINDOW. DESIGN CHOICE (log 60): unsafe. -/
def State.doAtomic (s : State) (cid k : Nat) (i : Ins) (sl : Slot) (h : BitVec 5) (opv : Bool) (d : W512) (dest : Option Dest)
    (o : Order) (ea : W64) (n : Nat) : State :=
  let p0 : Piece := { ea := ea, off := 0, len := n }
  match s.plan cid k 0 .atomic true 0 [p0] with
  | .wait s' => s'
  | .some_ _ => s
  | .ready ps =>
    let p := ps.headD p0
    let ctl := ea.getLsbD 63 && inCtl (fld ea 0 53)
    let bad := if ctl then some xWINDOW else p.bad
    let o1 := o.eff [p]
    let back := if ea.getLsbD 63 && (s.l1Get cid (lineOf ea)).any (·.dirty != 0) then 1 else 0
    if (p.attr.ord == 0 && strongOut s.reqs cid k) || atomAhead s.pkg s.reqs cid k ea || 64 ≤ s.ldpend cid + back then
      s.stall cid k .stall
    else match (if o1.rel then s.relWait cid k false else none) with
      | some s' => s'
      | none =>
        let hold := bad.isNone && p.checked
        let gid := s.nextId
        let sl0 := sl.addWarn (o.warn [p])
        let sl1 := if o1.rel then sl0.incClk else sl0
        let s1 := ({ s with nextId := gid + 1 }.usePieces cid [p]).endWalks cid k
        let s2 := if ea.getLsbD 63 then s1.l1Leave cid k (lineOf ea) else s1
        let r : Req := { s2.pieceReq cid k p (.atomic h opv dest.isSome (s2.handlerVersion h.toNat)) gid (o1.scopeAt p) with
          data := d, acq := o1.acq, rel := o1.rel, stamp := stampOf sl1.clk o1.rel }
        let r1 := match bad with
          | some c => { r with stage := .refused (storeCause c) }
          | none => r
        let acc : Access := { gid := gid, cid := cid, slot := k, dest := dest.getD .nowhere, ty := 9
                              n := if opv then 64 else 16, want := if opv then BitVec.allOnes 64 else byteMask 0 16
                              isLoad := dest.isSome, left := 1, parts := 1, wr := true, chk := hold, acq := o1.acq && bad.isNone
                              scope := BitVec.ofNat 3 (o1.scopeAt p) }
        let s3 := if hold || dest.isSome || o1.acq then { s2 with accs := s2.accs ++ [acc] } else s2
        if hold then
          (s3.modSlot cid k fun x =>
            { x with run := .sleeping (.check i.len gid (sl.mbp ^^^ x.mbp) sl0.warn o1.rel) }).addReq r1
        else
          let sl2 := match dest with
            | some (.g x) => sl1.pendG x
            | some (.v x) => sl1.pendV x
            | _ => sl1
          (s3.addReq r1).retire cid k sl2 i.len none

/-- The permissions of an atomic's capability (R136). -/
def pATOMIC : BitVec 12 := pLD ||| pST ||| pATOM

/-- AMO and AMOF. -/
def amoOp (i : Ins) (ret : Bool) (s : State) : Res :=
  let opv := i.sub.getLsbD 5
  let h := i.sub.extractLsb' 0 5
  let o := atomicOrder i
  let u : Uses := if opv then { g := usesAB i, v := [i.d], dv := if ret then [i.d] else [] }
    else { g := i.d :: usesAB i, dg := if ret then [i.d] else [] }
  execState i u false o.2 (fun cid k sl =>
    let n := s.handlerSize h.toNat
    match memCheck s cid sl i.a (memOff i sl) n pATOMIC n true, atomOperand i sl opv with
    | .error t, _ => .next (s.preciseFault cid k t)
    | .ok _, .error t => .next (s.preciseFault cid k t)
    | .ok x, .ok d =>
      let dest := if ret then some (if opv then .v i.d else gDest i.d) else none
      .next (s.doAtomic cid k i sl h opv d dest o.1 x.2 n)) s

/-- CAS runs as handler 9 or 10; it compares with g[c] (R159). -/
def casOp (i : Ins) (s : State) : Res :=
  let o := atomicOrder i
  execState i { g := [i.a, i.b, i.c, i.d], dg := [i.d] } false o.2 (fun cid k sl =>
    let wide := i.ty == 9
    let n := if wide then 16 else 8
    match memCheck s cid sl i.a (sl.g64 i.b) n pATOMIC n true with
    | .error t => .next (s.preciseFault cid k t)
    | .ok x =>
      let c := (sl.readG i.c).val
      let w := (sl.readG i.d).val
      let d : W512 := if wide then (w.zeroExtend 512 <<< 128) ||| c.zeroExtend 512
        else ((w.extractLsb' 0 64).zeroExtend 512 <<< 64) ||| (c.extractLsb' 0 64).zeroExtend 512
      .next (s.doAtomic cid k i sl (if wide then 10 else 9) false d (some (gDest i.d)) o.1 x.2 n)) s

/-! ## Multicast (R161 to R163) -/

/-- A part of a multicast's copy with what a walk says of its page, as far as it is known where multicast `n` issues (R87, R137, R142). An own
page that has no translation is taken as a RELEASE page; the control space is never translated and is ordered as STRONG (R368, R369); the
kind of another package's page is foretold. DESIGN CHOICE (log 76): safe. -/
def State.copyKind (s : State) (ctx n : Nat) (p : Piece) : Piece :=
  match placeOf p.ea with
  | .virt none va =>
    if inCtl va then { p with attr := { ord := 0 } }
    else match s.walk ctx va with
      | .leaf e _ _ => { p with attr := attrOf e }
      | .fault _ => p
  | .virt (some h) va => if inCtl va then p else { p with attr := s.farAttr ctx n h va }
  | _ => p

/-- The parts of a multicast's copies, by package. -/
def State.mcParts (s : State) (ctx n : Nat) (dests : BitVec 1024) (parts : List Piece) : List Piece :=
  (mcList dests).flatMap fun q => parts.map fun p => s.copyKind ctx n { p with ea := mcAddr s.pkg p.ea q }

/-- A multicast of `n` bytes, or of handler runs. DEDUCED (log 29): unsafe. -/
def mcastOp (i : Ins) (red : Bool) (s : State) : Res :=
  let opv := i.sub.getLsbD 5
  let h := i.sub.extractLsb' 0 5
  let o := storeOrder i
  let offs := if i.hasImm then [] else [i.c]
  let u : Uses := { g := (if opv then [] else [i.d]) ++ (i.a :: offs), v := (if opv then [i.d] else []) ++ [i.b, i.b + 1] }
  execState i u false o.2 (fun cid k sl =>
    let n := if red then s.handlerSize h.toNat else if opv then 64 else memSize i.ty
    let off := if i.hasImm then i.immS else sl.g64 i.c
    match accessCheck s.pkg cid sl i.a off n (pST ||| pMCAST) (if red then n else 1), atomOperand i sl opv,
        sl.useV i.b (BitVec.allOnes 64), sl.useV (i.b + 1) (BitVec.allOnes 64) with
    | .ok x, .ok d, .ok _, .ok _ =>
      let dests := mcDests sl i.b
      let ps := mcList dests
      let parts := splitLines x.2 0 n
      let gid := s.nextId
      let copies := s.mcParts (s.ctxOf cid) gid dests parts
      let backs := ((copies.map fun p => lineOf p.ea).eraseDups.filter fun l => x.2.getLsbD 63 && (s.l1Get cid l).any (·.dirty != 0)).length
      let o1 := if copies.isEmpty then o.1 else o.1.eff copies
      let own := if ps.contains s.pkg.toNat then ownLocal cid (mcAddr s.pkg x.2 s.pkg.toNat) else none
      if own.any fun o => localBad (s.core cid) sl o n true then .next (s.preciseFault cid k (capTrap 0x0B i.a x.1))
      else if x.2.getLsbD 63 && ps.any fun p => s.confined cid sl (mcAddr s.pkg x.2 p) n then
        .next (s.preciseFault cid k (capTrap 0x0C i.a x.1))
      else if acqOut s.accs cid k || ((copies.any fun p => p.attr.ord == 0) && strongOut s.reqs cid k) then .next (s.stall cid k .stall)
      else if (red && copies.any fun p => atomAhead s.pkg s.reqs cid k p.ea) || (!ps.isEmpty && 64 ≤ s.ldpend cid + backs) then
        .next (s.stall cid k .stall)
      else match (if o1.rel then s.relWait cid k false else none) with
        | some s' => .next s'
        | none =>
          let sl0 := sl.addWarn (o.1.warn copies)
          let sl1 := if o1.rel then sl0.incClk else sl0
          if ps.isEmpty then .next (s.retire cid k sl1 i.len none)
          else
            let s0 := { s with nextId := gid + 1 }
            let s1 := if x.2.getLsbD 63 then copies.foldl (fun s p => s.l1Leave cid k (lineOf p.ea)) s0 else s0
            let r : Req := { s1.slotReq cid k with
              op := .mcast dests (if red then some (h, opv, s.handlerVersion h.toNat) else none), ea := x.2, n := n, data := d, grp := gid
              rel := o1.rel, scope := BitVec.ofNat 3 (o1.scope.getD scFABRIC), stamp := stampOf sl1.clk o1.rel, stage := .fabric
              attr := { ord := if copies.any fun p => p.attr.ord == 0 then 0 else 1 }, remote := false }
            let acc : Access := { gid := gid, cid := cid, slot := k, isLoad := false, left := copies.length, n := n, ea := x.2 }
            let s2 := { s1 with accs := s1.accs ++ [acc] }.addReq r
            .next ({ s2 with nextId := s2.nextId + copies.length }.retire cid k sl1 i.len none)
    | .error t, _, _, _ => .next (s.preciseFault cid k t)
    | _, .error t, _, _ => .next (s.preciseFault cid k t)
    | _, _, .error t, _ => .next (s.preciseFault cid k t)
    | _, _, _, .error t => .next (s.preciseFault cid k t)) s

def execAmo (f : FR) (s : State) : Res := amoOp (insR f) false s
def execAmoF96 (f : FX) (s : State) : Res := amoOp (insX f) false s
def execAmof (f : FR) (s : State) : Res := amoOp (insR f) true s
def execAmofF96 (f : FX) (s : State) : Res := amoOp (insX f) true s
def execCas (f : FR) (s : State) : Res := casOp (insR f) s
def execMcst (f : FR) (s : State) : Res := mcastOp (insR f) false s
def execMcstF96 (f : FX) (s : State) : Res := mcastOp (insX f) false s
def execMred (f : FR) (s : State) : Res := mcastOp (insR f) true s
def execMredF96 (f : FX) (s : State) : Res := mcastOp (insX f) true s

end Sys2Proof.Machine
end

