-- ==== Sys2Proof/Machine/Micro.lean ====
section
/-! DEFINITION. The atomic micro-engine: the fixed handlers, the programs of loadable handlers, and their validation (R158,
R295 to R301). -/
namespace Sys2Proof.Machine

/-! ## Fixed handlers (R158, R298) -/

/-- A sum rounded to nearest even, subnormals honoured (R158, R297). -/
def addRne (t x y : Nat) : Nat := (roundF t 0 false false 0 (addF false (decodeF t x) (decodeF t y)).1).bits

/-- Lanes of `w` bytes combined one by one. -/
def lanes (w n : Nat) (f : Nat → Nat → Nat) (x y : Nat) : Nat :=
  (List.range n).foldl (fun acc i =>
    acc + f ((x >>> (8 * w * i)) % 2 ^ (8 * w)) ((y >>> (8 * w * i)) % 2 ^ (8 * w)) % 2 ^ (8 * w) * 2 ^ (8 * w * i)) 0

/-- The new target value of a fixed handler, from the old value and the operand block. -/
def fixedHandler (h m : Nat) (op : W512) : Nat :=
  let op0 := fld op 0 64
  let op1 := fld op 64 64
  if h == 0 then (m + op0) % 2 ^ 64
  else if h == 1 then addRne 0x0B m (op0 % 2 ^ 32)
  else if h == 2 then (List.range 32).foldl (fun acc i => acc + addRne 0x0D ((m >>> (16 * i)) % 65536) (fld op (16 * i) 16) * 2 ^ (16 * i)) 0
  else if h == 3 then (if sextN 64 m ≤ sextN 64 op0 then m else op0)
  else if h == 4 then (if sextN 64 op0 ≤ sextN 64 m then m else op0)
  else if h == 5 then m &&& op0
  else if h == 6 then m ||| op0
  else if h == 7 then m ^^^ op0
  else if h == 8 then op0
  else if h == 9 then (if m == op0 then op1 else m)
  else if h == 10 then (if m == fld op 0 128 then fld op 128 128 else m)
  else if op0 ≤ m then 0 else m + 1

/-- The size of a fixed handler. -/
def fixedSize (h : Nat) : Nat := if h == 1 then 4 else if h == 2 then 64 else if h == 10 then 16 else 8

/-! ## Operation words (R296, R297) -/

def moOpc (w : BitVec 32) : Nat := fld w 28 4
def moHd (w : BitVec 32) : Nat := fld w 25 3
def moHa (w : BitVec 32) : Nat := fld w 22 3
def moHb (w : BitVec 32) : Nat := fld w 19 3
def moHc (w : BitVec 32) : Nat := fld w 16 3
def moWid (w : BitVec 32) : Nat := fld w 14 2
def moSrc (w : BitVec 32) : Nat := fld w 12 2
def moImm (w : BitVec 32) : Nat := fld w 0 12
def moWidth (w : BitVec 32) : Nat := if moWid w == 0 then 4 else 8

/-- The registers of a run with the line as it stands, the bytes to be stored, and the return block. -/
structure MicroSt where
  h    : Vector W64 8 := Vector.replicate 8 0
  line : W512 := 0
  mask : BitVec 64 := 0
  ret  : W512 := 0
  deriving DecidableEq, Repr

def microCmp (c : Nat) (a b : W64) : Bool :=
  if c == 0 then a == b else if c == 1 then a != b else if c == 2 then a.slt b else if c == 3 then a.sle b
  else if c == 4 then a.ult b else a.ule b

/-- The effect of one operation other than BRF and END. `line0` is the line before the run, `base` the offset of the access. -/
def microOp (op line0 : W512) (base : Nat) (w : BitVec 32) (m : MicroSt) : MicroSt :=
  let a := vget m.h (moHa w) 0
  let b := vget m.h (moHb w) 0
  let put (x : W64) : MicroSt := { m with h := vset m.h (moHd w) x }
  let wd := moWidth w
  let off := moImm w % 64
  let opc := moOpc w
  if opc == 0 then
    if moSrc w == 0 then put (BitVec.ofNat 64 (fld line0 (8 * (base + off)) (8 * wd)))
    else if moSrc w == 1 then put (BitVec.ofNat 64 (fld op (8 * off) (8 * wd)))
    else put (BitVec.ofInt 64 (sextN 12 (moImm w)))
  else if opc == 1 then
    { m with line := setFld m.line (8 * (base + off)) (8 * wd) a.toNat, mask := m.mask ||| byteMask (base + off) wd }
  else if opc == 2 then put (a + b)
  else if opc == 3 then put (a - b)
  else if opc == 4 then put (if (if moImm w % 2 == 1 then a.ule b else a.sle b) then a else b)
  else if opc == 5 then put (if (if moImm w % 2 == 1 then b.ule a else b.sle a) then a else b)
  else if opc == 6 then put (a &&& b)
  else if opc == 7 then put (a ||| b)
  else if opc == 8 then put (a ^^^ b)
  else if opc == 9 then put (if vget m.h (moHc w) 0 != 0 then a else b)
  else if opc == 0xA then put (if microCmp (moImm w % 16) a b then 1 else 0)
  else if opc == 0xC then put (BitVec.ofNat 64 (lanes 4 2 (addRne 0x0B) a.toNat b.toNat))
  else if opc == 0xD then put (BitVec.ofNat 64 (lanes 2 4 (addRne 0x0D) a.toNat b.toNat))
  else if opc == 0xE then { m with ret := setFld m.ret (64 * (moImm w % 8)) 64 a.toNat }
  else m

/-- A run from index `i`: operations one by one, branches forward, up to END. -/
def microRun (ops : List (BitVec 32)) (op line0 : W512) (base : Nat) : Nat → Nat → MicroSt → MicroSt
  | _, 0, m => m
  | i, fuel + 1, m =>
    match ops[i]? with
    | none => m
    | some w =>
      if moOpc w == 0xF then m
      else if moOpc w == 0xB then
        let a := vget m.h (moHa w) 0
        let taken := if (moImm w).testBit 6 then true else if (moImm w).testBit 5 then a == 0 else a != 0
        microRun ops op line0 base (if taken then i + moImm w % 32 else i + 1) fuel m
      else microRun ops op line0 base (i + 1) fuel (microOp op line0 base w m)

/-- What a run leaves: the line with the bytes it wrote, and the return block. -/
structure RunRes where
  line : W512
  mask : BitVec 64
  ret  : W512
  deriving DecidableEq, Repr

/-- A run of a fixed handler on the bytes at `base` of a line; its return is the old value. -/
def runFixed (h base : Nat) (line op : W512) : RunRes :=
  let n := fixedSize h
  let m := fld line (8 * base) (8 * n)
  { line := setFld line (8 * base) (8 * n) (fixedHandler h m op), mask := byteMask base n, ret := BitVec.ofNat 512 m }

/-- A run of a loadable handler's program. -/
def runImage (img : Image) (base : Nat) (line op : W512) : RunRes :=
  let m := microRun img.ops op line base 0 32 { line := line }
  { line := m.line, mask := m.mask, ret := m.ret }

/-! ## Validation (R297, R299, R300) -/

/-- The fields of an operation that its row does not name are zero, and the named ones are legal. -/
def microFields (w : BitVec 32) : Bool :=
  let opc := moOpc w
  let z (hd ha hb hc wid src : Bool) : Bool :=
    (!hd || moHd w == 0) && (!ha || moHa w == 0) && (!hb || moHb w == 0) && (!hc || moHc w == 0) && (!wid || moWid w == 0) &&
    (!src || moSrc w == 0)
  let imm (n : Nat) : Bool := moImm w < n
  if opc == 0 then
    z false true true true false false && moWid w ≤ 1 && moSrc w ≤ 2 &&
      (moSrc w == 2 || (imm 64 && moImm w % moWidth w == 0))
  else if opc == 1 then z true false true true false true && moWid w ≤ 1 && imm 64 && moImm w % moWidth w == 0
  else if opc == 4 || opc == 5 then z false false false true true true && imm 2
  else if opc == 9 then z false false false false true true && imm 1
  else if opc == 0xA then z false false false true true true && imm 6
  else if opc == 0xB then
    z true false true true true true && imm 128 && moImm w % 32 != 0 &&
      !((moImm w).testBit 5 && (moImm w).testBit 6) && (!(moImm w).testBit 6 || moHa w == 0)
  else if opc == 0xE then z true false true true true true && imm 8
  else if opc == 0xF then w == 0xF0000000
  else z false false false true true true && imm 1

/-- A branch target or an offset beyond its range. -/
def microRange (i count size : Nat) (w : BitVec 32) : Bool :=
  let opc := moOpc w
  if opc == 0xB then i + moImm w % 32 < count
  else if opc == 0 && moSrc w == 1 then moImm w + moWidth w ≤ 64
  else if (opc == 0 && moSrc w == 0) || opc == 1 then moImm w + moWidth w ≤ size
  else true

/-- The first failure of a program: CODE and INDEX. -/
def microCheck (count size : Nat) : Nat → List (BitVec 32) → Option (Nat × Nat)
  | _, [] => none
  | i, w :: ws =>
    if !microFields w then some (2, i)
    else if !microRange i count size w then some (3, i)
    else if i + 1 == count && moOpc w != 0xF then some (4, i)
    else microCheck count size (i + 1) ws

/-- The staged byte of an entry. -/
def HEnt.byte (e : HEnt) (off : Nat) : Nat := (tblGetD e.staged off 0).toNat
def HEnt.num (e : HEnt) (off n : Nat) : Nat := leNat ((List.range n).map fun i => tblGetD e.staged (off + i) 0)

/-- The validation of a staged image: the image to come (none for a removal), or CODE and INDEX. -/
def HEnt.validate (e : HEnt) : Except (Nat × Nat) (Option Image) :=
  let valid := e.byte 0x80
  let count := e.byte 0x84
  let lg := e.byte 0x85
  let ver := e.num 0x86 2
  if valid == 0 then .ok none
  else if valid != 1 || e.num 0x81 3 != 0 || count < 1 || 32 < count || !(lg == 2 || lg == 3 || lg == 4 || lg == 6) ||
      ver == 0 || e.num 0x88 8 != 0 then .error (1, 0)
  else
    let ops := (List.range count).map fun k => BitVec.ofNat 32 (e.num (4 * k) 4)
    match microCheck count (2 ^ lg) 0 ops with
    | some x => .error x
    | none => .ok (some { version := BitVec.ofNat 16 ver, logsize := lg, ops := ops })

/-- GO of an entry; ignored while an installation is in progress. -/
def HEnt.go (e : HEnt) : HEnt :=
  if e.coming.isSome then e
  else match e.validate with
    | .error (c, i) => { e with code := BitVec.ofNat 8 c, index := BitVec.ofNat 8 i }
    | .ok img => { e with code := 5, index := 0, coming := some img, spoilt := false }

/-- An entry whose staged bytes changed during its installation: what it holds is not known (R300). DESIGN CHOICE (log 5): safe.
-/
def freeEntry (n seed : Nat) : Option Image :=
  let w (k : Nat) : BitVec 32 := Config.handlerWord n (64 * seed + k)
  if (w 32).getLsbD 0 then
    some { version := (w 33).extractLsb' 0 16, logsize := fld (w 34) 0 3, ops := (List.range 32).map w }
  else none

/-- The installation or the removal has taken effect in every M-die. -/
def HEnt.done (e : HEnt) (n seed : Nat) : HEnt :=
  match e.coming with
  | none => e
  | some img => { e with inst := if e.spoilt then freeEntry n seed else img, code := 0, coming := none, spoilt := false }

end Sys2Proof.Machine
end

