-- ==== Sys2Proof/Machine/Migrate.lean ====
section
/-! DEFINITION. Page migration by the Beavers of an M-die, and the registers of its window (R340, R384 to R388). -/
namespace Sys2Proof.Machine

/-! ## Moving memory -/

/-- Bytes `a` to `a + n` copied to `b`, two ranges that do not overlap. -/
def moveCells (m : List Host.Cell) (a b n : Nat) : List Host.Cell :=
  (m.filter fun c => a ≤ c.1 && c.1 < a + n).foldl (fun m c => memPut m (c.1 - a + b) c.2) (m.filter fun c => !(b ≤ c.1 && c.1 < b + n))

/-- Granule tags of bytes `a` to `a + n` copied to `b`. -/
def moveTags (t : List Nat) (a b n : Nat) : List Nat :=
  (t.filter fun g => a ≤ 16 * g && 16 * g < a + n).foldl (fun t g => insNat (g - a / 16 + b / 16) t)
    (t.filter fun g => !(b ≤ 16 * g && 16 * g < b + n))

/-- Bytes of a range all zero. -/
def zeroCells (m : List Host.Cell) (a n : Nat) : List Host.Cell := m.filter fun c => !(a ≤ c.1 && c.1 < a + n)

/-- The home lines of physical bytes `a` to `a + n` written to HBM and dropped from the LLC. -/
def State.llcFlush (s : State) (a n : Nat) : State :=
  let m := paMdie a
  let hit (l : LlcLine) : Bool := !l.frn && a ≤ l.line * 64 && l.line * 64 < a + n
  let s1 := ((s.mdie m).llc.filter hit).foldl (fun s l => s.llcWriteBack l false) s
  s1.setMdie m { s1.mdie m with llc := (s1.mdie m).llc.filter fun l => !hit l }

/-! ## The registers of a migration -/

def Mig.src (g : Mig) : Nat := fld g.msrc 16 24 * 65536
def Mig.dst (g : Mig) : Nat := fld g.mdst 16 24 * 65536
def Mig.bytes (g : Mig) : Nat := 2 ^ pageBits g.size.toNat
/-- A migration is running: marked, committed, or to be replayed after a conflict. -/
def Mig.busy (g : Mig) : Bool := g.phase == 1 || g.phase == 2 || g.phase == 3
/-- A physical address lies in the old or in the new frame. -/
def Mig.inOld (g : Mig) (pa : Nat) : Bool := g.src ≤ pa && pa < g.src + g.bytes
def Mig.inNew (g : Mig) (pa : Nat) : Bool := g.dst ≤ pa && pa < g.dst + g.bytes

/-- A leaf that R372 admits at a level, with MIG = 0. -/
def leafForm (e : W64) (level : Nat) : Bool :=
  e.getLsbD 0 && e.getLsbD 1 && !e.getLsbD 53 && fld e 40 8 == 0 && fld e 7 9 == 0 && fld e 2 2 != 3 &&
  entryFrame e % 2 ^ pageBits level == 0 && paValid (entryFrame e) && paValid (entryFrame e + 2 ^ pageBits level - 1)

def State.modMig (s : State) (m : Nat) (f : Mig → Mig) : State := s.setMdie m { s.mdie m with mig := f (s.mdie m).mig }

/-- Translations of a frame removed from every TLB and translation cache of the package, and the results of its walks. -/
def State.purgeFrame (s : State) (level frame : Nat) : State :=
  let f (l : List TlbEnt) : List TlbEnt := l.filter fun t => !(t.level == level && entryFrame t.entry == frame)
  { s with
    cores := s.cores.map fun (p : Nat × Core) => (p.1, { p.2 with utlb := f p.2.utlb })
    clusters := s.clusters.map fun (p : Nat × Cluster) => (p.1, { p.2 with tlb := f p.2.tlb })
    reqs := s.reqs.filter fun r => !(r.walked && frame ≤ r.pa && r.pa < frame + 2 ^ pageBits level)
    dir := { s.dir with tcache := s.dir.tcache.map f } }

/-- GO: the checks of R387, and the mark. -/
def State.migGo (s : State) (m : Nat) : State :=
  let g := (s.mdie m).mig
  if g.busy then s
  else
    let lv := g.size.toNat
    let at_ := fld g.mpte 3 37 * 8
    let e : W64 := BitVec.ofNat 64 (s.pocNat at_ 8)
    if paMdie g.src != m || !leafForm g.mnew lv || entryFrame g.mnew != g.dst || !leafForm e lv || entryFrame e != g.src then
      s.modMig m fun g => { g with status := 3 }
    else
      let e1 := e ||| BitVec.twoPow 64 53
      ((s.pocPatch at_ 8 e1.toNat).modMig m fun g => { g with status := 1, phase := 1, old := e1 }).purgeFrame lv g.src

/-- The migration whose old or new frame holds an address. -/
def State.migOf (s : State) (pa : Nat) : Option (Nat × Mig) :=
  (List.range 6).findSome? fun m =>
    let g := (s.mdie m).mig
    if g.busy && (g.inOld pa || g.inNew pa) then some (m, g) else none

/-- Requests in a page queue, and one replayed from it that has not performed yet. -/
def State.migQueue (s : State) (g : Mig) : List Req :=
  s.reqs.filter fun r => (r.stage == .migq || (r.replay && r.open?)) && (g.inOld r.pa || g.inNew r.pa)

/-- Requests of the old frame that have arrived at their home and are being served. -/
def State.migServing (s : State) (g : Mig) : Bool :=
  s.reqs.any fun r => g.inOld r.pa && (match r.stage with
    | .hbm => true
    | .fill => true
    | .handler => true
    | _ => false)

/-! ## Gather, copy, commit (R387 steps 2 to 5) -/

/-- Lines of the frame that some other package may hold. -/
def State.migCopies (s : State) (g : Mig) : List Nat :=
  (s.dir.ents.filter fun e => e.state != stI && g.inOld (e.pline * 64)).map (·.pline)

/-- The virtual address within an erasure group's data range that an entry maps. -/
def State.egVa (s : State) (egrp at_ level : Nat) : Option Nat :=
  let e := s.egEntry egrp
  (List.range (e.dlen / 2 ^ pageBits level + 1)).findSome? fun j =>
    let va := (e.dbase % 2 ^ 53 / 2 ^ pageBits level + j) * 2 ^ pageBits level
    match s.walk e.ctx va with
    | .leaf _ lv a => if a == at_ && lv == level then some va else none
    | .fault _ => none

/-- A page's data sent as deltas of an erasure group: every line that holds a byte other than zero or a tag. -/
def State.egPage (s : State) (egrp : BitVec 8) (at_ level frame : Nat) : State :=
  match s.egVa egrp.toNat at_ level with
  | none => s
  | some va =>
    let n := 2 ^ pageBits level
    let a := hbmKey frame
    let lines := ((s.mem.filter fun (c : Host.Cell) => a ≤ c.1 && c.1 < a + n).map (fun (c : Host.Cell) => (c.1 - 2 ^ 64) / 64) ++
      (s.tags.filter fun t => a ≤ 16 * t && 16 * t < a + n).map fun t => (16 * t - 2 ^ 64) / 64).eraseDups
    lines.foldl (fun s l => s.parityOut egrp ((va + (l * 64 - frame)) / 64) (s.hbmLine l) (s.tags4 (hbmKey (l * 64))) false) s

/-- The copy of step 3: data with tags, then metadata, then parity. DEDUCED (log 64): unsafe. -/
def State.migCopy (s : State) (m : Nat) (g : Mig) : State :=
  let n := g.bytes
  let s0 := if g.dst == g.src then s else (s.llcFlush g.dst n)
  let lo := hbmKey g.src
  let hi := hbmKey g.dst
  let s1 := if g.dst == g.src then s0 else
    { s0 with mem := moveCells s0.mem lo hi n, tags := moveTags s0.tags lo hi n
              errs := s0.errs.filter fun e => !(hi ≤ e.1 && e.1 < hi + n) }
  let s2 :=
    if !g.mnew.getLsbD 48 then s1
    else
      let da := s1.mdie m
      let db := s1.mdie (paMdie g.dst)
      let a := da.shbase.toNat + (g.src - da.cklo.toNat) / 8
      let b := db.shbase.toNat + (g.dst - db.cklo.toNat) / 8
      let f := (s1.llcFlush b (n / 8)).llcFlush a (n / 8)
      if !g.old.getLsbD 48 then { f with mem := zeroCells f.mem (hbmKey b) (n / 8) }
      else if a == b then f
      else { f with mem := moveCells f.mem (hbmKey a) (hbmKey b) (n / 8) }
  if g.old.getLsbD 55 == g.mnew.getLsbD 55 && fld g.old 56 8 == fld g.mnew 56 8 then s2
  else
    let at_ := fld g.mpte 3 37 * 8
    let s3 := if g.old.getLsbD 55 then s2.egPage (g.old.extractLsb' 56 8) at_ g.size.toNat g.src else s2
    if g.mnew.getLsbD 55 then s3.egPage (g.mnew.extractLsb' 56 8) at_ g.size.toNat g.dst else s3

/-- Steps 2 to 4. Copies held elsewhere are recalled first, and requests being served finish first. DEDUCED (log 64): unsafe. -/
def State.migCommit (s : State) (m : Nat) : State :=
  let g := (s.mdie m).mig
  if g.phase != 1 || s.migServing g then s
  else
    let cs := s.migCopies g
    if !cs.isEmpty then cs.foldl (fun s pl => s.recallLine pl false) s
    else if s.dir.trans.any fun t => g.inOld (t.pline * 64) then s
    else
      let s1 := s.llcFlush g.src g.bytes
      if s1.errs.any fun e => e.2 && hbmKey g.src ≤ e.1 && e.1 < hbmKey g.src + g.bytes then
        s1.modMig m fun g => { g with status := 4, phase := 9 }
      else
        let at_ := fld g.mpte 3 37 * 8
        let s2 := s1.migCopy m g
        if BitVec.ofNat 64 (s2.pocNat at_ 8) != g.old then s2.modMig m fun g => { g with status := 2, phase := 3 }
        else
          let ad := g.old &&& (BitVec.twoPow 64 51 ||| BitVec.twoPow 64 52)
          (s2.pocPatch at_ 8 (g.mnew ||| ad).toNat).modMig m fun g => { g with phase := 2 }

/-- Step 6: with the queue replayed and no request left that uses the old translation, the migration ends. DEDUCED (log 64):
unsafe. -/
def State.migClose (s : State) (m : Nat) : State :=
  let g := (s.mdie m).mig
  if g.phase != 2 && g.phase != 3 then s
  else if !(s.migQueue g).isEmpty then s
  else
    let s1 := s.purgeFrame g.size.toNat g.src
    let left := s1.reqs.any fun r => g.inOld r.pa && g.dst != g.src && (match r.stage with
      | .done => false
      | .refused _ => false
      | _ => true)
    if g.phase == 2 && left then s1
    else s1.modMig m fun g => { g with status := if g.status == 1 then 0 else g.status, phase := 0 }

/-! ## The window (R385) -/

/-- The register of a window at an offset that is a multiple of 8. -/
def mdieReg (d : MDie) (off : Nat) : W64 :=
  let g := d.mig
  if off == 0x00 then g.msrc else if off == 0x08 then g.mdst else if off == 0x10 then g.mpte else if off == 0x18 then g.mnew
  else if off == 0x20 then packFields 64 [(8, 4, g.status.toNat), (4, 2, g.size.toNat), (1, 1, b2n g.busy)]
  else if off == 0x28 then BitVec.ofNat 64 g.qmax
  else if off == 0x40 then d.cklo else if off == 0x48 then d.ckhi else if off == 0x50 then d.shbase else 0

/-- A register written; writes are ignored while a migration runs. -/
def State.mdieWrite (s : State) (m off : Nat) (x : W64) : State :=
  let d := s.mdie m
  if d.mig.busy then s
  else if off == 0x00 then s.modMig m fun g => { g with msrc := packFields 64 [(16, 24, fld x 16 24)] }
  else if off == 0x08 then s.modMig m fun g => { g with mdst := packFields 64 [(16, 24, fld x 16 24)] }
  else if off == 0x10 then s.modMig m fun g => { g with mpte := packFields 64 [(3, 37, fld x 3 37)] }
  else if off == 0x18 then s.modMig m fun g => { g with mnew := x }
  else if off == 0x20 then
    let s1 := s.modMig m fun g => { g with size := x.extractLsb' 4 2 }
    if x.getLsbD 0 then s1.migGo m else s1
  else if off == 0x40 then s.setMdie m { d with cklo := x }
  else if off == 0x48 then s.setMdie m { d with ckhi := x }
  else if off == 0x50 then s.setMdie m { d with shbase := x }
  else s

/-- MQMAX is cleared by its read. -/
def State.mqmaxClear (s : State) (m : Nat) : State := s.modMig m fun g => { g with qmax := 0 }

def execMigrationGo (md : Nat) (s : State) : Res := .next (s.migGo md)
def execMigrationCommit (md : Nat) (s : State) : Res := .next (s.migCommit md)
def execMigrationClose (md : Nat) (s : State) : Res := .next (s.migClose md)
def execMqmaxRead (md : Nat) (s : State) : Res := .next ((s.mqmaxClear md).readOut (mdieReg (s.mdie md) 0x28))

end Sys2Proof.Machine
end

