-- ==== Sys2Proof/Machine/Windows.lean ====
section
/-! DEFINITION. The control-space windows: job queues, collective engines, the atomic handler window and the M-die windows, as
byte ranges (R268, R299, R305, R369, R385). -/
namespace Sys2Proof.Machine

/-! ## The atomic handler window (R299, R300) -/

def State.hent (s : State) (n : Nat) : HEnt := tblGetD s.handlers n {}
def State.setHent (s : State) (n : Nat) (e : HEnt) : State := { s with handlers := tblSet n e s.handlers }

/-- A byte of an entry as it reads. -/
def HEnt.read (e : HEnt) (o : Nat) : Nat :=
  if o < 0x90 then e.byte o else if o == 0xC8 then e.code.toNat else if o == 0xC9 then e.index.toNat else 0

/-- A byte of an entry written; GO acts at COMMIT's first byte. -/
def HEnt.write (e : HEnt) (o : Nat) (b : Byte) : HEnt :=
  if o < 0x90 then { e with staged := tblSet o b e.staged, spoilt := e.spoilt || e.coming.isSome }
  else if o == 0xC0 && b.getLsbD 0 then e.go
  else e

/-- A byte of the window; entries below 12 read zero. -/
def State.hwRead (s : State) (o : Nat) : Nat := if o / 256 < 12 then 0 else (s.hent (o / 256)).read (o % 256)

def State.hwWrite (s : State) (o : Nat) (b : Byte) : State :=
  let n := o / 256
  if n < 12 || 32 ≤ n then s else s.setHent n ((s.hent n).write (o % 256) b)

/-! ## Job queues (R268, R305) -/

/-- Entries of a cluster's queue, or of a collective engine's, that are free. -/
def State.jqFree (s : State) (cl : Nat) : Nat := 32 - (s.cluster cl).queue.length
def State.cqFree (s : State) (sd : Nat) : Nat := 16 - (vget s.colls sd []).length

/-- QSTAT as a core reads it. -/
def State.qstat (s : State) (cl cid : Nat) : W64 :=
  packFields 64 [(0, 6, s.jqFree cl), (8, 6, ((s.cluster cl).queue.filter fun j => j.cid == cid).length)]

/-! ## Reads and writes of a window -/

/-- A byte of a 64-bit register. -/
def regByte (x : W64) (j : Nat) : Nat := fld x (8 * j) 8

/-- A byte of the control space, for a read by a core. -/
def State.winByte (s : State) (cid o : Nat) : Nat :=
  if o < 128 * 8192 then (if 64 ≤ o % 128 && o % 128 < 72 then regByte (s.qstat (s.clusterFor cid (o / 128)) cid) (o % 128 - 64) else 0)
  else if o < 0x1000000 + 256 then regByte (BitVec.ofNat 64 (s.cqFree ((o - 0x1000000) / 128))) (o % 8)
  else if o < 0x2000000 + 8192 then s.hwRead (o - 0x2000000)
  else regByte (mdieReg (s.mdie ((o - 0x3000000) / 128)) (o % 128 / 8 * 8)) (o % 8)

/-- A range of the control space lies in the collective windows, in those of the M-dies. -/
def inCollWin (o : Nat) : Bool := 0x1000000 ≤ o && o < 0x1000000 + 256
def inMdieWin (o : Nat) : Bool := 0x3000000 ≤ o && o < 0x3000000 + 768

/-- A read of `n` bytes of a window: none where it is refused. MQMAX is cleared by a read of any of its bytes. -/
def State.winRead (s : State) (cid va n : Nat) : Option (Nat × State) :=
  let o := va - ctlBase
  if inCollWin o && !(o % 128 == 64 && n == 8) then none
  else
    let x := (List.range n).foldl (fun acc j => acc + s.winByte cid (o + j) * 2 ^ (8 * j)) 0
    let m := (o - 0x3000000) / 128
    let rc := inMdieWin o && o % 128 < 0x30 && 0x28 < o % 128 + n
    some (x, if rc then s.mqmaxClear m else s)

/-- The bytes of a range laid over the 8-byte registers of an M-die window. -/
def State.mdieBytes (s : State) (m off n : Nat) (d : Nat) : State :=
  (List.range 16).foldl (fun s r =>
    if off < 8 * r + 8 && 8 * r < off + n then
      let old := mdieReg (s.mdie m) (8 * r)
      let x := (List.range 8).foldl (fun (x : W64) j =>
        if off ≤ 8 * r + j && 8 * r + j < off + n then setFld x (8 * j) 8 (d / 2 ^ (8 * (8 * r + j - off))) else x) old
      s.mdieWrite m (8 * r) x
    else s) s

/-- A write of `n` bytes of a window: none where it is refused. -/
def State.winWrite (s : State) (va n d : Nat) : Option State :=
  let o := va - ctlBase
  if o < 128 * 8192 || inCollWin o then none
  else if inMdieWin o then some (s.mdieBytes ((o - 0x3000000) / 128) (o % 128) n d)
  else some ((List.range n).foldl (fun s j => s.hwWrite (o - 0x2000000 + j) (BitVec.ofNat 8 (d / 2 ^ (8 * j)))) s)

def execHandlerInstall (n : Nat) (s : State) : Res :=
  .next (if n < 12 || 32 ≤ n || (s.hent n).byte 0x80 != 1 then s else s.setHent n (s.hent n).go)
def execHandlerRemove (n : Nat) (s : State) : Res :=
  .next (if n < 12 || 32 ≤ n || (s.hent n).byte 0x80 != 0 then s else s.setHent n (s.hent n).go)

end Sys2Proof.Machine
end

