-- ==== Sys2Proof/Machine/Home.lean ====
section
/-! DEFINITION. Requests at their target: the order in which they perform, the protection unit, race checks at the home, and how
each kind of request performs on a line (R138, R142, R262, R293 to R301, R336 to R345, R387, R417). -/
namespace Sys2Proof.Machine

/-! ## Requests in general -/

/-- Requests of one line; a multicast's copies may name its lines in any package. -/
def Req.sameLine (q r : Req) : Bool :=
  lineOf q.ea == lineOf r.ea || ((match q.op with
    | .mcast _ _ => true
    | _ => false) && q.ea.getLsbD 63 == r.ea.getLsbD 63 &&
    (splitLines q.ea 0 q.n).any fun p => fld p.ea 6 47 == fld r.ea 6 47)

/-- The bytes that a request orders: a fill and a write-back take their whole line. -/
def Req.span (r : Req) : Nat × Nat :=
  match r.op with
  | .fill => (r.ea.toNat / 64 * 64, 64)
  | .writeBack => (r.ea.toNat / 64 * 64, 64)
  | _ => (r.ea.toNat, max 1 r.n)

/-- A read of the core, which keeps no order with reads of other bytes (R323). -/
def ReqOp.plainRead : ReqOp → Bool
  | .load => true
  | .fill => true
  | _ => false

/-- Two requests name common bytes, two reads by the bytes that they ask for; a multicast that is not yet split those of its lines in any
package. -/
def Req.overlaps (q r : Req) : Bool :=
  ((match q.op with
    | .mcast _ _ => true
    | _ => false) && q.sameLine r) ||
  (if q.op.plainRead && r.op.plainRead then q.ea.toNat < r.ea.toNat + max 1 r.n && r.ea.toNat < q.ea.toNat + max 1 q.n
    else q.span.1 < r.span.1 + r.span.2 && r.span.1 < q.span.1 + q.span.2)

/-- Two requests go through one memory pipeline or one L1: of one core, or of cores whose fused L1 holds the line. -/
def State.onePath (s : State) (q r : Req) : Bool :=
  q.cid == r.cid || (q.org == 0x3FF && q.ea.getLsbD 63 && r.ea.getLsbD 63 && s.l1Core q.cid (lineOf q.ea) == s.l1Core r.cid (lineOf r.ea))

/-- An earlier request must perform first: one of the same core or fused L1 to common bytes (R138, R316), an earlier STRONG one of the
slot (R142), or any earlier one of an aperture of the host (R516). A job's accesses keep no order with others (R326). DEDUCED (log
13): unsafe. -/
def State.behind (s : State) (q r : Req) : Bool :=
  q.id < r.id && q.org == r.org && q.open? && !q.op.isProbe &&
  ((!(q.org == 0x3FF && (8 ≤ q.slot || 8 ≤ r.slot)) && s.onePath q r && q.ctx == r.ctx && q.overlaps r) ||
    (q.cid == r.cid && ((q.slot == r.slot && q.attr.ord == 0 && r.attr.ord == 0) || q.isHost)))

/-- A request may perform now. DEDUCED (log 13): unsafe. -/
def State.mayPerform (s : State) (r : Req) : Bool := !s.reqs.any fun q => s.behind q r

/-- A request may be checked now: nothing but parts of its own access is before it (R334). -/
def State.mayCheck (s : State) (r : Req) : Bool := !s.reqs.any fun q => s.behind q r && (q.grp != r.grp || r.grp == 0)

/-- A request's new state: kept for its issuer here, or answered to its package with its REFWAIT (R411). -/
def State.conclude (s : State) (r : Req) : State :=
  if r.org == 0x3FF then s.modReq r.id fun _ => r
  else { s.dropReq r.id with out := s.out ++ [.answer { r with refwait := min 65535 r.refwait }] }

/-- A request performed. -/
def State.perform (s : State) (r : Req) : State := s.conclude { r with stage := .done }
/-- A request refused with a cause: that of a store-fault record for a write, that of R380 for a read. -/
def State.refuse (s : State) (r : Req) (c : BitVec 8) : State := s.conclude { r with stage := .refused c }

/-- A request is a write at its target. -/
def ReqOp.writesMem : ReqOp → Bool
  | .store => true
  | .writeBack => true
  | .atomic _ _ _ _ => true
  | _ => false

/-- A request of a job or a collective command. -/
def Req.isEngine (r : Req) : Bool := r.org == 0x3FF && 8 ≤ r.slot

/-- The race-detection identity of a request's slot, also after its activation ended. -/
def Req.ident (r : Req) : BitVec 18 := identOf r.cid (r.slot % 4)

/-- A prefetch: a fill that nothing waits for. -/
def Req.isPref (r : Req) : Bool := r.op == .fill && r.grp == 0

/-- The walkers that serve a request: those of its core's C-die, or those of the S-die through which it came. -/
def State.walkUnit (s : State) (r : Req) : Nat := if r.org != 0x3FF then 2 + r.sdie else dieOf (s.core r.cid).phys

/-- A request from another package enters at an S-die: to a core, or to be translated. -/
def State.arriveReq (s : State) (sdie : Nat) (r : Req) : State :=
  let ea := rewriteEa s.pkg 0 r.ea
  if r.org == 0x3FF || r.org == s.pkg || fld ea 53 10 != 0x3FF || s.fab.fenced || !vget s.dir.live sdie false then s
  else
    let r1 := { r with ea := ea, sdie := sdie, stage := match placeOf ea with
      | .localMem _ _ _ _ _ => .core
      | .virt _ _ => .walk }
    let s1 := s.addReq r1
    if ea.getLsbD 63 && inCtl (fld ea 0 53) then s1.refuse { r1 with id := s.nextId } (if r1.op.isStore then sfWINDOW else xWINDOW) else s1

/-- The parts of an access of another package arrive, as their issuer cut them (R325). -/
def State.arriveParts (s : State) (sdie : Nat) (rs : List Req) : State := rs.foldl (fun s r => s.arriveReq sdie r) s

/-! ## The target core (R262, R293) -/

/-- The core of a partitioned address: a worker core by number, or a service core's own. -/
def State.placeCid (s : State) (r : Req) (core : Nat) (self : Bool) : Nat :=
  if self && isSvc r.cid then r.cid else s.targetCid r.lid core

/-- A protection region admits an access (R46, R262). -/
def protAdmits (p : W64) (lid : BitVec 16) (off n : Nat) (write atom : Bool) : Bool :=
  p.getLsbD 43 && p.extractLsb' 48 16 == lid && fld p 0 8 * 4096 ≤ off && off + n ≤ fld p 8 8 * 4096 &&
  (if atom then p.getLsbD 46 else if write then p.getLsbD 45 else p.getLsbD 44)

/-- The decision of the protection unit for a request of a launch; `svc` for what it does not judge: service cores, the loader, the host
and the core's own slots. -/
def Core.admits? (c : Core) (svc : Bool) (lid : BitVec 16) (off n : Nat) (write atom : Bool) : Bool :=
  if svc then true
  else if c.inL1 off n then false
  else if c.lid == some lid then true
  else c.prot.toList.any fun p => protAdmits p lid off n write atom

/-! ## Race checks at the home (R334, R336 to R345) -/

/-- A request whose access is race-checked: the host has no identity, and its accesses are not. A fill that nothing waits for is a prefetch. -/
def Req.isChecked (r : Req) : Bool :=
  r.attr.rc && !r.isHost && (match r.op with
    | .load => true
    | .fill => r.grp != 0
    | .store => true
    | .atomic _ _ _ _ => true
    | _ => false)

/-- KIND of a race record (R344). -/
def Req.raceKind (r : Req) : Nat :=
  if r.mc then 5 else if r.isEngine then (if r.op.writesMem then 4 else 3) else match r.op with
    | .store => 1
    | .atomic _ _ _ _ => 2
    | _ => 0

/-- The reporting-only mode of a request's accessor. -/
def State.reqLogs (s : State) (r : Req) : Bool := if r.org == 0x3FF then s.raceLogs r.ctx else r.logs

/-- A record logged here for a slot of this package, or sent back with the answer. -/
def State.logRace (s : State) (r : Req) (rec_ : W512) : State :=
  if r.org == 0x3FF then s.raceAppend r.ctx rec_ else s.modReq r.id fun q => { q with race := some rec_ }

/-- A slot of this package that still holds the request's activation. -/
def Req.hasSlot (r : Req) : Bool := r.org == 0x3FF && r.slot < 4

/-- A part of the same access. -/
def Req.sameAccess (q r : Req) : Bool := q.org == r.org && q.grp == r.grp && r.grp != 0 && fld q.ea 53 10 == fld r.ea 53 10

/-- The lowest byte of a request's access on its line (R344). -/
def State.lowEa (s : State) (r : Req) : W64 :=
  (s.reqs.filter fun q => q.sameAccess r && q.cid == r.cid && q.slot == r.slot && lineOf q.ea == lineOf r.ea).foldl
    (fun a q => if q.ea < a then q.ea else a) r.ea

/-- The record of a race of a request with a line's metadata. -/
def State.reqRecord (s : State) (r : Req) (kind : Nat) (m : W64) : W512 :=
  raceRecord r.gen r.hzn r.hznev r.ident (if r.org == 0x3FF then s.pkg else r.org) r.lid kind s.reft r.pc (s.lowEa r) m

/-- What a check tells waits with its access until all of it has performed (R9, R333). -/
def State.noteCheck (s : State) (r : Req) (n : Note) : State :=
  if s.accs.any fun a => a.gid == r.grp then
    { s with accs := replaceFirst (·.gid == r.grp) (fun a => { a with notes := a.notes ++ [n] }) s.accs }
  else s.modSlot r.cid r.slot fun sl => sl.note n

/-- The check of a request on its line: a race to raise, or the state after the check. Metadata that cannot be read, the access goes
unchecked (R342). -/
def State.checkReq (s : State) (r : Req) : Except W512 State :=
  if s.metaBad r.pa then
    let s1 := { s with errs := s.errs.filter fun e => e.1 != metaKey r.pa }
    let s2 := s1.logRace r (s.reqRecord r 6 0)
    .ok (if r.op.writesMem then s2 else s2.putMeta r.pa (BitVec.twoPow 64 53 ||| BitVec.twoPow 64 54))
  else
    let m := s.metaAt r.pa
    let o := ordered r.gen r.hzn r.ident m
    let learnt := if r.acq then some (m, r.scope) else none
    if o.1 then
      .ok (if r.hasSlot then s.noteCheck r { used := o.2.map fun _ => metaWriter m, learnt := learnt }
        else if r.org != 0x3FF && o.2.isSome then s.modReq r.id fun q => { q with used := some (metaWriter m) }
        else s)
    else
      let rcd := s.reqRecord r r.raceKind m
      if s.reqLogs r then
        let s1 := s.logRace r rcd
        let s2 := if r.op.writesMem then s1 else s1.putMeta r.pa (metaSetUnk m)
        .ok (if r.hasSlot && r.acq then s2.noteCheck r { learnt := learnt } else s2)
      else .error rcd

/-- The requests and the gathering of an access dropped. -/
def State.dropAccess (s : State) (gid : Nat) : State :=
  { s with reqs := s.reqs.filter (fun r => !(r.org == 0x3FF && r.grp == gid)), accs := s.accs.filter (·.gid != gid) }

/-- A slot that sleeps for an access that is to be issued again. -/
def Slot.unheld (sl : Slot) : Slot :=
  match sl.run with
  | .sleeping (.check _ _ _ _ _) => { sl with run := .running }
  | .sleeping .stall => { sl with run := .running }
  | .sleeping (.block _) => { sl with run := .running }
  | _ => sl

/-- A precise race of a slot waits: until its earlier stores have completed or been reported, and while its core is frozen (R349, R425). -/
def State.raceWaits (s : State) (r : Req) : Bool :=
  r.hasSlot && !r.mc && (s.frozen r.cid || s.reqs.any (fun q => q.isOf r.cid r.slot && q.op.isStore && q.id < r.id && q.grp != r.grp))

/-- Every part of a request's access at its target refused with RACE (R338, R339). -/
def State.refuseParts (s : State) (r : Req) (rcd : W512) : State :=
  (s.reqs.filter fun q => q.sameAccess r && q.id != r.id && q.open?).foldl (fun s q => s.refuse q sfRACE) (s.refuse { r with race := some rcd } sfRACE)

/-- A precise race (R343): at the stream entry, at the sender of a multicast, or at the access's own instruction, which has not
retired. One of a stream's write is raised at the instruction that its slot has come to; a suspended slot issues its access again once it
has resumed (R365). DESIGN CHOICE (log 70): unsafe. -/
def State.raiseRace (s : State) (r : Req) (rcd : W512) : State :=
  let t : Trap := { cause := cRACE, addr := s.lowEa r, race := some rcd }
  let fault (s : State) : State :=
    let s1 := s.dropAccess r.grp
    match (s.slotAt r.cid r.slot).run with
    | .suspended _ => s1.modSlot r.cid r.slot fun sl => { sl with run := .suspended none }
    | _ => (s1.modSlot r.cid r.slot Slot.unheld).preciseFault r.cid r.slot t
  if r.org != 0x3FF then s.refuseParts r rcd
  else if r.mc then (s.modCore r.cid fun c => { c with raceRec := rcd }).refuseParts r rcd
  else if r.isEngine then s.refuseParts r rcd
  else if 4 ≤ r.slot then s.dropReq r.id
  else if s.raceWaits r then s
  else
    match s.accs.find? fun a => a.gid == r.grp with
    | some a =>
      match a.dest with
      | .stream st ent _ _ _ =>
        (s.dropAccess r.grp).modSlot r.cid r.slot fun sl =>
          let x := sl.stream st
          sl.setStream st { x with queue := x.queue.map fun e => if e.gid == ent && e.trap.isNone then { e with trap := some t } else e }
      | _ => fault s
    | none => fault s

/-- A part of the same access whose check is still to be made, or that is not known yet to be checked. -/
def Req.checkDue (q r : Req) : Bool :=
  q.sameAccess r && q.open? && ((q.isChecked && !q.checked) || ((q.mc || q.isEngine || q.org != 0x3FF) && q.stage == .walk))

def State.uncheckedPart (s : State) (r : Req) : Bool := s.reqs.any fun q => q.id != r.id && q.checkDue r

/-- Such a part at a lower address, which is checked first (R334). -/
def State.lowerPart (s : State) (r : Req) : Bool := s.reqs.any fun q => q.ea < r.ea && q.checkDue r

/-- A part of the same job's position, or of the same copy of a multicast, has met a race: no part of it performs (R338, R339). -/
def State.racedPart (s : State) (r : Req) : Bool :=
  (r.mc || r.isEngine) && s.reqs.any fun q => q.sameAccess r && q.stage == .refused sfRACE

/-- Another access has been checked on a line and has not performed there yet, so that no other write comes between (R349). -/
def State.checkHeld (s : State) (r : Req) : Bool :=
  s.reqs.any fun q => q.checked && q.open? && q.id != r.id && !q.sameAccess r && q.ea.getLsbD 63 && q.pa / 64 == r.pa / 64 && q.stage != .handler

/-! ## Performing at the home M-die -/

/-- A read cannot be answered: the line is uncorrectable. -/
def State.lineBad (s : State) (pa : Nat) : Bool := s.pocBad (pa / 64) || s.paLost pa

/-- The erasure group of a request's line with its virtual line. -/
def Req.egrp (r : Req) : Option (BitVec 8 × Nat) := if r.attr.erase then some (r.attr.egrp, fld r.ea 6 47) else none

/-- The metadata that a checked write leaves. A job's write has its page's default scope, a collective's DONEADDR its own (R331). -/
def Req.stampMeta (r : Req) : W64 :=
  let scope : BitVec 3 := if r.isEngine && !r.rel then (if r.attr.cg then 5 else 4) else r.scope
  mkMeta r.gen scope r.stamp r.ident

/-- A write of a line by a request, with its metadata. -/
def State.reqWrite (s : State) (r : Req) (d : W512) (mask : BitVec 64) (tags : BitVec 4) : State :=
  let s1 := (s.pocWrite (r.pa / 64) d mask tags (some r.attr.cmp) r.egrp).raceWords s (r.pa / 64) mask
  if r.isChecked then s1.putMeta r.pa r.stampMeta else s1

/-- What serves an access at home: a read, a write of bytes, or a handler run. -/
inductive HomeKind where
  | read
  | write
  | run
  | other
  deriving DecidableEq, Repr

def ReqOp.homeKind : ReqOp → HomeKind
  | .load => .read
  | .fill => .read
  | .fetch => .read
  | .store => .write
  | .writeBack => .write
  | .atomic _ _ _ _ => .run
  | .probe _ _ => .other
  | .mcast _ _ => .other
  | .debugRead => .other
  | .debugWrite => .other
  | .windowRead => .other
  | .windowWrite => .other

/-- The line of a request is to be brought into the LLC first; a write of the whole line needs none of its bytes. -/
def State.needsFill (s : State) (r : Req) : Bool :=
  !s.paLost r.pa && (s.llcHome (r.pa / 64)).isNone && !(r.op.homeKind == .write && r.mask == BitVec.allOnes 64)

/-- The program that runs a request's handler at this package, or the cause that refuses it. -/
def State.handlerFor (s : State) (h : BitVec 5) (ver : BitVec 16) (part : Bool) : Except (BitVec 8) (Option Image) :=
  if h.toNat < 12 then .ok none
  else if part then .error sfHANDLER
  else match s.handlerImage h.toNat with
    | none => .error sfHANDLER
    | some m => if m.version == ver then .ok (some m) else .error sfHANDLER

/-- A request that waits at its M-die, or whose run is due there. -/
def Req.atMdie (r : Req) : Bool := r.stage == .hbm || r.stage == .fill || r.stage == .migq || r.stage == .handler

/-- The requests of handler `n` that have reached their M-die when an installation takes effect: they run the program `old` that stood
there before, or are refused where the version is another (R300, R314). -/
def State.keepProgram (s : State) (n : Nat) (old new : Option Image) : State :=
  let mine := s.reqs.filter fun r => r.atMdie && (match r.op with
    | .atomic h _ _ ver => h.toNat == n && (old.map (·.version) != new.map (·.version) || old.map (·.version) == some ver)
    | _ => false)
  if old == new then s
  else if old.map (·.version) == new.map (·.version) then
    mine.foldl (fun s r => if r.prog.isNone then s.modReq r.id fun q => { q with prog := old } else s) s
  else mine.foldl (fun s r => s.refuse r sfHANDLER) s

/-- The installation has taken effect in every M-die. -/
def execHandlerInstallDone (n : Nat) (s : State) : Res :=
  let s1 := { s.setHent n ((s.hent n).done n s.fresh) with fresh := s.fresh + 1 }
  .next (s1.keepProgram n (s.hent n).inst (s1.hent n).inst)

/-- A handler run accepted at its home, with the program that was installed when it came there (R300, R301, R314). -/
def State.acceptRun (s : State) (r : Req) : State :=
  match r.op with
  | .atomic h _ _ ver =>
    match if r.prog.isSome then .ok r.prog else s.handlerFor h ver false with
    | .error c => s.refuse r c
    | .ok img => s.modReq r.id fun q => { q with stage := .handler, pa := r.pa, prog := img, meta_ := if r.attr.rc then s.metaAt r.pa else 0 }
  | _ => s

/-- A fill performs: those of its line for the same L1 that have performed before are not installed (R316, R329). -/
def State.newerFill (s : State) (r : Req) : State :=
  if r.op != .fill || r.org != 0x3FF then s
  else { s with reqs := s.reqs.map fun q =>
      if q.org == 0x3FF && q.op == .fill && q.stage == .done && lineOf q.ea == lineOf r.ea && s.l1Core q.cid (lineOf q.ea) == s.l1Core r.cid (lineOf r.ea)
      then { q with keep := false } else q }

/-- A read or a write performed on its home line; a handler run is handed to the micro-engine. A line with a race control block is never
installed in an L1 (R346). -/
def State.homePerform (s : State) (r : Req) : State :=
  let bad := s.lineBad r.pa
  match r.op.homeKind with
  | .read =>
    if bad then s.refuse r sfUNCORR
    else
      let s1 := (match s.llcHome (r.pa / 64) with
        | some l => s.llcTouch l
        | none => s).correctLine (r.pa / 64)
      let s2 := (s1.raceRead r.pa r.n).newerFill r
      s2.perform { r with keep := r.keep && (s.raceBlock (r.pa / 64)).isNone, data := s1.pocLine (r.pa / 64), tags := s1.pocTags (r.pa / 64)
                          meta_ := if r.attr.rc then s1.metaAt r.pa else 0
                          race := (s1.reqAt r.id).bind (·.race), used := (s1.reqAt r.id).bind (·.used) }
  | .write =>
    if bad && !(r.mask == BitVec.allOnes 64 && !s.paLost r.pa) then s.refuse r sfUNCORR
    else (s.reqWrite r r.data r.mask r.tags).perform { r with
      meta_ := if r.isChecked then r.stampMeta else 0, race := (s.reqAt r.id).bind (·.race), used := (s.reqAt r.id).bind (·.used) }
  | .run => if bad then s.refuse r sfUNCORR else s.acceptRun r
  | .other => s

/-- A request arrives at the controller of its stack, which serves a bank's requests in the order of their arrival (R406). -/
def State.toHbm (s : State) (r : Req) : State :=
  match s.reqAt r.id with
  | none => s
  | some q => { s with reqs := s.reqs.filter (fun (x : Req) => x.id != r.id) ++ [{ q with stage := .hbm, pa := r.pa, since := s.reft }] }

/-- A request past its migration, its directory and its protection: its line filled, then checked and performed at once, so that no
other write comes between (R349). The parts of one access are all checked first, in increasing address order (R334). DEDUCED (log 13):
unsafe. -/
def State.homeChecked (s : State) (r : Req) : State :=
  if r.op.writesMem && s.protLine (r.pa / 64) then s.refuse r (if r.isEngine then sfPROT else sfPERM)
  else if s.racedPart r then s.refuse r sfRACE
  else if s.needsFill r then s.toHbm r
  else if r.attr.rc && s.checkHeld r then s
  else
    let go (s : State) (r : Req) : State := if s.uncheckedPart r || !s.mayPerform r then s else s.homePerform r
    if !r.isChecked || r.checked then go s r
    else if s.lowerPart r then s
    else match s.checkReq r with
      | .error rcd => s.raiseRace r rcd
      | .ok s1 =>
        let r1 := { r with checked := true }
        go (s1.modReq r.id fun q => { q with checked := true, pa := r.pa }) r1

/-- The directory is asked for a line of a coherent-global page (R417); a line that a handler run holds is waited for (R295). -/
def State.homeConsult (s : State) (r : Req) : State :=
  if s.lineHeld (r.pa / 64) then s
  else match (if r.attr.cg then s.consult r.id (r.pa / 64) r.op.writesMem else none) with
  | some s' => s'.dirDrain
  | none => s.homeChecked r

/-- What tells an engine that a migrating page's queue is full (R289, CAUSE 3). -/
def sfMIGFULL : BitVec 8 := 0xFF

/-- A request enters the queue of a page that is being migrated; the queue holds 4,096, and one over that of a slot stops its virtual channel
(R388). -/
def State.migEnter (s : State) (r : Req) (m : Nat) (g : Mig) : State :=
  let n := (s.migQueue g).length
  if 4096 ≤ n then (if r.isEngine then s.refuse r sfMIGFULL else s)
  else ({ s with reqs := s.reqs.filter (fun (x : Req) => x.id != r.id) ++ [{ r with stage := .migq, checked := false }] }).modMig m fun g =>
    { g with qmax := max g.qmax (n + 1) }

/-- Virtual channel 0 is stopped at the input port of an M-die by which a request comes: an earlier slot request waits there for a full page
queue (R388). A port is taken to serve one package's S-die, or the cores of one die. DEDUCED (log 64): unsafe. -/
def State.vcStopped (s : State) (r : Req) : Bool :=
  !r.isEngine && s.reqs.any fun q =>
    q.id < r.id && !q.isEngine && q.stage == .home && paMdie q.pa == paMdie r.pa && q.org == r.org && s.walkUnit q == s.walkUnit r &&
    (match s.migOf q.pa with
      | some (_, g) => g.phase == 1 && g.inOld q.pa && 4096 ≤ (s.migQueue g).length
      | none => false)

/-- A part checked before its turn in a replayed queue, because the part at the head waits for its check (R334, R340). -/
def State.checkEarly (s : State) (r : Req) : State :=
  if !r.isChecked || r.checked || s.lowerPart r then s
  else match s.checkReq r with
    | .error rcd => s.raiseRace r rcd
    | .ok s1 => s1.modReq r.id fun q => { q with checked := true }

/-- A request at its home M-die: held by a migration, or served. A queue is replayed in its order, each request once the one before it has
performed (R387). -/
def State.homeServe (s : State) (r : Req) : State :=
  if s.vcStopped r then s
  else match s.migOf r.pa with
  | none => s.homeConsult r
  | some (m, g) =>
    if g.phase == 1 then (if r.stage == .migq || !g.inOld r.pa then (if r.stage == .migq then s else s.homeConsult r) else s.migEnter r m g)
    else
      let q := s.migQueue g
      let pa := if g.phase == 2 && g.inOld r.pa then r.pa - g.src + g.dst else r.pa
      let r1 := { r with pa := pa, stage := .home, replay := r.replay || r.stage == .migq }
      match (q.find? (·.replay)).or q.head? with
      | some h =>
        if h.id == r.id then (s.modReq r.id fun _ => r1).homeConsult r1
        else if h.sameAccess r then s.checkEarly { r with pa := pa }
        else s
      | none => (s.modReq r.id fun _ => r1).homeConsult r1

/-- A request to a window of the control space. -/
def State.windowServe (s : State) (r : Req) : State :=
  let va := fld r.ea 0 53
  let sh := 8 * (r.ea.toNat % 64)
  match r.op with
  | .windowRead =>
    match s.winRead r.cid va r.n with
    | none => (s.refuse r xWINDOW).postPacket r xWINDOW
    | some (x, s1) => s1.perform { r with data := BitVec.ofNat 512 (x * 2 ^ sh) }
  | _ =>
    match s.winWrite va r.n (r.data.toNat / 2 ^ sh) with
    | none => s.refuse r sfWINDOW
    | some s1 => s1.perform r

/-- A request to another package whose line this package holds as a foreign one: a read of any state, a write of E or M. -/
def State.foreignServe (s : State) (r : Req) : State :=
  match placeOf r.ea with
  | .virt (some h) va =>
    match s.llcForeign h r.ctx (va / 64) with
    | none => s
    | some l =>
      if r.slot < 4 && !r.strm && !r.isPref && l.ord != r.attr.ord then s else
      let own (attr : Attr) : Req := { r with attr := attr }
      let a : Attr := { ord := l.ord, cg := true }
      match r.op.homeKind with
      | .read => if l.data.isNone then s.refuse r sfUNCORR else (s.llcTouch l).perform { own a with data := l.data.getD 0, tags := l.tags }
      | .write =>
        if l.data.isNone && r.mask != BitVec.allOnes 64 then s.refuse r sfUNCORR
        else if l.cst == cstE || l.cst == cstM then
          let d := mergeBytes (l.data.getD 0) r.data r.mask
          (s.llcPlace (some l) { l with cst := cstM, dirty := true, tags := mergeTags l.tags r.tags r.mask } d (fld l.hdr 0 4 != 0) 0x04).perform (own a)
        else s
      | _ => s
  | _ => s

/-- HOME_ACCESS: a request at its home performs, or moves on towards it. -/
def execHomeAccess (id : Nat) (s : State) : Res :=
  match s.reqAt id with
  | none => .next s
  | some r =>
    if !(s.mayPerform r || ((r.stage == .home || r.stage == .migq) && r.isChecked && !r.checked && s.mayCheck r)) then .next s
    else match r.stage with
      | .home => .next (if inCtl (fld r.ea 0 53) then s.windowServe r else s.homeServe r)
      | .migq => .next (s.homeServe r)
      | .fabric => .next (if r.org == 0x3FF then s.foreignServe r else s)
      | _ => .next s

/-! ## Handler runs (R157 to R160, R295 to R301) -/

/-- A run on a line of 64 bytes, from the byte at `base`. -/
def runHandler (h : BitVec 5) (img : Option Image) (base : Nat) (line op : W512) : RunRes :=
  match img with
  | none => runFixed h.toNat base line op
  | some m => runImage m base line op

/-- HANDLER_RUN: the run of a request that holds its line. -/
def execHandlerRun (id : Nat) (s : State) : Res :=
  match s.reqAt id with
  | none => .next s
  | some r =>
    match r.op, r.stage with
    | .atomic h _ ret ver, .handler =>
      let base := r.ea.toNat % 64
      match placeOf r.ea with
      | .localMem _ core self dbg off =>
        match s.handlerFor h ver true with
        | .error c => .next (s.refuse r c)
        | .ok img =>
          let cid := s.placeCid r core self
          let lo := off / 64 * 64
          let x := runHandler h img base (if dbg then s.debugRead cid lo 64 else ofBytes 512 (s.lmRead cid lo 64)) r.data
          let n := fixedSize h.toNat
          let marks := if ret && !dbg then s.lmMarks cid off n else 0
          let done (s : State) : Res := .next (s.perform { r with data := if ret then x.ret else 0, mask := marks })
          if dbg then (match s.debugWrite cid off n (x.line >>> (8 * base)) with
            | none => .next (s.refuse r sfWINDOW)
            | some s1 => done s1)
          else done (s.lmWrite cid off (bytesOf (x.line >>> (8 * base)) n))
      | .virt _ _ =>
        if s.lineBad r.pa then .next (s.refuse r sfUNCORR)
        else
          let x := runHandler h r.prog base (s.pocLine (r.pa / 64)) r.data
          let race := (s.reqAt r.id).bind (·.race)
          let s0 := (match s.llcHome (r.pa / 64) with
            | some l => s.llcTouch l
            | none => s).raceRead r.pa r.n
          let s1 := if x.mask == 0 then (if r.isChecked then s0.putMeta r.pa r.stampMeta else s0) else s0.reqWrite r x.line x.mask 0
          .next (s1.perform { r with data := if ret then x.ret else 0, race := race }).dirDrain
    | _, _ => .next s

/-! ## The target core (R262, R293) -/

/-- A handler run holds the line of a core's local memory (R295). DEDUCED (log 13): unsafe. -/
def State.localHeld (s : State) (cid off : Nat) : Bool :=
  s.reqs.any fun q => q.stage == .handler && (match placeOf q.ea with
    | .localMem _ core self _ o => s.placeCid q core self == cid && o / 64 == off / 64
    | .virt _ _ => false)

/-- REMOTE_CORE_ACCESS: a request to partitioned memory at its target core. -/
def execRemoteCoreAccess (id : Nat) (s : State) : Res :=
  match s.reqAt id with
  | none => .next s
  | some r =>
    match r.stage, placeOf r.ea with
    | .core, .localMem _ core self dbg off =>
      if !s.mayPerform r then .next s
      else
        let cid := s.placeCid r core self
        let c := s.core cid
        let svc := isSvc r.cid || (r.org == 0x3FF && r.cid == cid && r.slot < 8)
        let bad (w : BitVec 8) (x : BitVec 8) : Res :=
          .next (if r.op.isStore then s.refuse r w else if r.org == 0x3FF then (s.refuse r x).postPacket r x else s.refuse r x)
        if (s.dieAt cid).gone then bad sfUNREACH xUNREACH
        else if (s.dieAt cid).dead then .next s
        else match r.op with
        | .debugRead =>
          if !debugSize off r.n then bad sfWINDOW xWINDOW
          else if isSvc cid && r.cid == cid && off == 0xB000 && r.n == 64 then
            let p := s.popCollector cid
            .next (p.2.perform { r with data := p.1 })
          else .next (s.perform { r with data := s.debugRead cid off r.n <<< (8 * (r.ea.toNat % 64)) })
        | .debugWrite =>
          match s.debugWrite cid off r.n (r.data >>> (8 * (r.ea.toNat % 64))) with
          | none => bad sfWINDOW xWINDOW
          | some s1 => .next (s1.perform r)
        | .load =>
          if !c.admits? svc r.lid off r.n false false then bad sfPROT xPROT
          else if errIn s.errs (lmKey cid off) r.n 8 true then .next (s.refuse r sfUNCORR)
          else
            let sh := r.ea.toNat % 64
            .next ((s.countCorr cid off r.n).perform { r with
              data := ofBytes 512 (s.lmRead cid off r.n) <<< (8 * sh), mask := s.lmMarks cid off r.n <<< sh
              tags := s.tags4 (lmKey cid (off / 64 * 64)) })
        | .fetch =>
          if !c.admits? svc r.lid off r.n false false then bad sfPROT xPROT
          else if errIn s.errs (lmKey cid off) r.n 8 true then .next (s.refuse r sfUNCORR)
          else .next ((s.countCorr cid off r.n).perform { r with data := ofBytes 512 (s.lmRead cid off r.n) <<< (8 * (r.ea.toNat % 64)) })
        | .store =>
          if !c.admits? svc r.lid off r.n true false then bad sfPROT xPROT
          else
            let s1 := s.lmWrite cid off (bytesOf (r.data >>> (8 * (r.ea.toNat % 64))) r.n)
            let s2 := if r.n == 16 && r.tags.getLsbD (r.ea.toNat % 64 / 16) then s1.putTag (lmKey cid off) true else s1
            .next (s2.perform r)
        | .atomic h _ _ _ =>
          if dbg && !debugSize off r.n then bad sfWINDOW xWINDOW
          else if !dbg && !c.admits? svc r.lid off r.n true true then bad sfPROT xPROT
          else if 12 ≤ h.toNat then .next (s.refuse r sfHANDLER)
          else if s.localHeld cid off then .next s
          else if dbg then .next (s.modReq r.id fun q => { q with stage := .handler })
          else if errIn s.errs (lmKey cid (off / 64 * 64)) 64 8 true then .next (s.refuse r sfUNCORR)
          else .next ((s.countCorr cid (off / 64 * 64) 64).modReq r.id fun q => { q with stage := .handler })
        | .probe _ _ => .next (s.perform r)
        | _ => .next s
    | _, _ => .next s

end Sys2Proof.Machine
end

