-- ==== Sys2Proof/Machine/EvMem.lean ====
section
/-! DEFINITION. The answers that reach a core, page walks, the split of a multicast, deposits, and the upkeep of local memory (R37,
R138 to R148, R163, R251, R254, R294, R302, R374 to R380, R430, R431). -/
namespace Sys2Proof.Machine

/-! ## Page walks (R374, R376, R378 to R380) -/

/-- What a request needs of its translation. -/
def ReqOp.need : ReqOp → Need
  | .probe _ n => n
  | .fetch => .exec
  | .store => .write
  | .writeBack => .write
  | .atomic _ _ _ _ => .atomic
  | .mcast _ _ => .write
  | .debugWrite => .write
  | .windowWrite => .write
  | .load => .read
  | .fill => .read
  | .debugRead => .read
  | .windowRead => .read

/-- What a request needs: an MRED's run at a destination requires W only (R375). -/
def Req.needs (r : Req) : Need := if r.mc then .write else r.op.need

/-- A copy of a multicast takes its page's order and scope, and its sender's warnings, as its translation tells them (R87, R137). -/
def Req.atPage (r : Req) (attr : Attr) : Req :=
  if !r.mc then { r with attr := attr, keep := r.keep && attr.ord != 0 }
  else { r with attr := attr, rel := r.rel && attr.ord != 2, scope := if attr.cg then r.scope else narrower r.scope 4 }

/-- The number of a probe that carries the mark of a reported race to the home of a line that another package's L1 holds (R345). DEDUCED
(log 65): unsafe. -/
def kindUnk : BitVec 3 := 7


/-- The translation of a request by its TLBs or the translation cache of its S-die, or by a walk (R377). The control space is never
translated; a job that comes to it is malformed (R368, R369). -/
def State.walkReq (s : State) (r : Req) : WalkRes × State :=
  let va := fld r.ea 0 53
  let need := r.needs
  let setD := match r.op with
    | .probe k _ => k != 2
    | _ => true
  if r.isEngine && inCtl va then (.fault xWINDOW, s)
  else if r.isHost then s.walkAD r.ctx va need setD
  else if r.isPref then
    (match s.walk r.ctx va with
      | .leaf e l a => if permOk e need then .leaf e l a else .fault xPERM
      | .fault c => .fault c, s.walkLines r.ctx va)
  else
    let cached := if r.org != 0x3FF then (vget s.dir.tcache r.sdie []).find? (tlbHit r.ctx va)
      else if r.isEngine then s.tlbFindCl r.cid r.ctx va else s.tlbFind r.cid r.ctx va
    match cached with
    | some t =>
      if !permOk t.entry need then (.fault xPERM, s)
      else if need.writes && setD && !t.entry.getLsbD 52 then s.walkAD r.ctx va need setD
      else (.leaf t.entry t.level 0, s)
    | none => s.walkAD r.ctx va need setD

/-- A slot that waits for a request. -/
def Slot.waitsFor (sl : Slot) (id : Nat) : Bool := sl.run == .sleeping (.walk id)

/-- A refused read of a slot stands refused until PGREPLY, and its record goes to the row collector. A prefetch is dropped. -/
def State.refuseRead (s : State) (r : Req) (c : BitVec 8) : State :=
  if r.isPref then s.dropReq r.id
  else if r.org != 0x3FF || r.isEngine then s.refuse r c
  else
    let s1 := (s.refuse r c).postPacket r c
    if r.slot < 4 && (s1.slotAt r.cid r.slot).waitsFor r.id then s1.modSlot r.cid r.slot fun sl => { sl with run := .sleeping (.posted r.id) }
    else s1

/-- The walk of one request has ended. -/
def State.walkOne (s : State) (r : Req) : State :=
  let va := fld r.ea 0 53
  let wake (s : State) : State :=
    if r.org == 0x3FF && r.slot < 4 && (s.slotAt r.cid r.slot).waitsFor r.id then s.modSlot r.cid r.slot fun sl => { sl with run := .running } else s
  match s.walkReq r with
  | (.fault c, s1) =>
    if r.op.isProbe && r.org == 0x3FF then (if r.op.need.writes && r.op.kind.1 == 0 then wake (s1.refuse r c) else s1.refuseRead r c)
    else if r.op.isStore then s1.refuse r (storeCause c)
    else s1.refuseRead r c
  | (.leaf e level _, s1) =>
    let t : TlbEnt := { ctx := r.ctx, vpage := va / 2 ^ pageBits level, level := level, entry := e }
    let pa := xlatePa e level va
    let attr := attrOf e
    let mig := e.getLsbD 53
    let s2 := if mig then s1
      else if r.org != 0x3FF then
        { s1 with dir := { s1.dir with tcache := vset s1.dir.tcache r.sdie (tlbInsert 4096 16 t (vget s1.dir.tcache r.sdie [])) } }
      else if r.isPref || r.isHost then s1
      else if r.isEngine then s1.tlbInstallCl r.cid t else s1.tlbInstall r.cid t
    if r.op.isProbe then
      if r.org != 0x3FF then
        (if r.op.kind.1 == kindUnk then (if attr.rc then s2.putMeta pa (metaSetUnk (s2.metaAt pa)) else s2).dropReq r.id else s2.perform r)
      else if mig then wake (s2.modReq r.id fun q => { q with stage := .done, pa := pa, attr := attr })
      else wake (s2.dropReq r.id)
    else s2.modReq r.id fun q => { q.atPage attr with stage := .home, pa := pa, remote := q.remote || q.op == .writeBack }

/-- Two requests wait for walks of one page by the same walkers. -/
def State.sameWalk (s : State) (b : Nat) (q r : Req) : Bool :=
  s.walkUnit q == s.walkUnit r && q.ctx == r.ctx && fld q.ea 0 53 / 2 ^ b == fld r.ea 0 53 / 2 ^ b

/-- The pages for which earlier requests wait at the walkers of a request. -/
def State.walksAhead (s : State) (r : Req) : List (Nat × Nat) :=
  ((s.reqs.filter fun q => q.id < r.id && q.stage == .walk && s.walkUnit q == s.walkUnit r && !s.sameWalk 16 q r).map
    fun q => (q.ctx, fld q.ea 0 53 / 2 ^ 16)).eraseDups

/-- A write-back waits until LDPEND counts it (R139). -/
def State.walkHeld (s : State) (r : Req) : Bool := r.op == .writeBack && !r.remote && r.slot < 4 && 64 ≤ s.ldpend r.cid

/-- The size of the page that a walk finds; of its table's smallest page where it finds none. -/
def State.walkBits (s : State) (r : Req) : Nat :=
  match s.walk r.ctx (fld r.ea 0 53) with
  | .leaf _ level _ => pageBits level
  | .fault _ => 16

/-- PAGE_WALK: a walk ends, and with it those of every request that has merged onto it (R378). The 64 walkers of a die take the walks in the
order in which they came; which page sizes a miss merges by is not stated: the walk's own. DEDUCED (log 37): unsafe. -/
def execPageWalk (id : Nat) (s : State) : Res :=
  match s.reqAt id with
  | none => .next s
  | some r =>
    if r.stage != .walk || 64 ≤ (s.walksAhead r).length || s.walkHeld r then .next s
    else
      let b := s.walkBits r
      let also := s.reqs.filter fun q => q.id != id && q.stage == .walk && s.sameWalk b q r
      .next (also.foldl (fun s q => if s.walkHeld q then s else s.walkOne q) (s.walkOne r))

/-! ## Answers to reads (R138, R141, R380, R411) -/

/-- What a core receives: data and tags of the line, marks of expired bytes, and what is known of the page. -/
structure Answer where
  data : W512
  tags : BitVec 4
  marks : BitVec 64
  attr : Attr
  meta_ : W64
  refwait : Nat
  deriving DecidableEq, Repr

/-- A line that a fill brings. The load returns it under the bytes that were dirty in the L1 when it issued (R316, R321); it is installed
under those that are dirty now, where it may be. -/
def State.fillLine (s : State) (r : Req) (a : Answer) : W512 × BitVec 4 × State :=
  let line := lineOf r.ea
  let hc := s.l1Core r.cid line
  let old := (s.core hc).l1.find? (l1Is r.ctx line)
  let dirty := (old.map (·.dirty)).getD 0
  let d := mergeBytes a.data ((old.map (·.data)).getD 0) dirty
  let t := mergeTags a.tags ((old.map (·.tags)).getD 0) dirty
  let got := mergeBytes a.data r.mine r.mineMask
  let gotTags := mergeTags a.tags r.mineTags r.mineMask
  if r.keep && a.attr.ord != 0 && l1Sets (s.core hc) != 0 then
    let l : L1Line := { ctx := r.ctx, line := line, loose := a.attr.ord == 2, valid := BitVec.allOnes 64, dirty := dirty, data := d
                        tags := t, rc := a.attr.rc, meta_ := a.meta_, cid := ((old.map (·.cid)).getD r.cid)
                        slot := ((old.map (·.slot)).getD r.slot), by_ := ((old.map (·.by_)).getD []), attr := a.attr }
    (got, gotTags, s.l1Put r.cid l)
  else (got, gotTags, s)

/-- A read that passes a store whose bytes the L1 was to keep, or of two fills of another package's line, of which the later one is not known:
the line is dropped, and neither is installed, so that no later load returns what is older (R316). DEDUCED (log 13): unsafe. -/
def State.passStore (s : State) (r : Req) : State × Req :=
  let line := lineOf r.ea
  let hc := s.l1Core r.cid line
  let far := r.op == .fill && fld r.ea 53 10 != 0x3FF && s.reqs.any fun q =>
    q.id != r.id && q.org == 0x3FF && q.op == .fill && lineOf q.ea == line && s.l1Core q.cid line == hc
  if far || ((r.op == .fill || r.op == .load) && s.keptOut hc line r.id) then
    ((s.noInstall hc line).l1Forget hc r.ctx line, { r with keep := false })
  else (s, r)

/-- The data of a read reaches its destination. -/
def State.deliverRead (s0 : State) (r0 : Req) (a : Answer) : State :=
  let (s, r) := s0.passStore r0
  let sh := r.ea.toNat % 64
  let slow := match r.op with
    | .load => true
    | .fill => true
    | _ => false
  let s0 := if slow && r.hasSlot && r.grp != 0 then s.modCore r.cid fun c => { c with refstall := c.refstall + BitVec.ofNat 64 (min 65535 a.refwait) } else s
  match r.op with
  | .fetch =>
    let s1 := s0.modReq r.id fun q => { q with stage := .done, data := a.data >>> (8 * sh) }
    if r.hasSlot && (s1.slotAt r.cid r.slot).waitsFor r.id then s1.modSlot r.cid r.slot fun sl => { sl with run := .running } else s1
  | .fill =>
    let x := s0.fillLine r a
    (x.2.2.dropReq r.id).partDone r.grp r.off r.n (x.1 >>> (8 * sh)) (a.marks >>> sh) (x.2.1.getLsbD (sh / 16))
  | .atomic _ opv _ _ => (s0.dropReq r.id).partDone r.grp 0 (if opv then 64 else 16) a.data a.marks false
  | _ => (s0.dropReq r.id).partDone r.grp r.off r.n (a.data >>> (8 * sh)) (a.marks >>> sh) (a.tags.getLsbD (sh / 16))

/-- An operation whose answer brings data to a register, to the L1, or to the fetch. -/
def ReqOp.reads : ReqOp → Bool
  | .load => true
  | .fill => true
  | .fetch => true
  | .probe _ _ => true
  | .atomic _ _ ret _ => ret
  | .debugRead => true
  | .windowRead => true
  | .store => false
  | .writeBack => false
  | .mcast _ _ => false
  | .debugWrite => false
  | .windowWrite => false

/-- The attributes that another package's answer gives. -/
def extAttr (x : Ext) : Attr := { ord := x.ord, rc := x.rc, cg := x.grant.isSome, cmp := x.cmp }

/-- A line that its home grants to this package enters the LLC as a foreign one, and then takes the bytes of a store, which may make it grow
(R400); race-checked lines do not enter it. What was invalidated in flight is not installed (R329): a line that a store has written
goes back to its home. -/
def State.takeGrant (s : State) (r : Req) (x : Ext) (d : W512) (tags : BitVec 4) : State :=
  match x.grant, placeOf r.ea with
  | some c, .virt (some h) va =>
    let l : LlcLine := { frn := true, line := va / 64, pkg := h, ctx := r.ctx, hline := x.hline, ord := x.ord, cst := c, dirty := c == cstM, tags := tags }
    if x.rc then s
    else if !r.llcKeep then
      if !r.op.isStore || c != cstM then s
      else { s with
        out := s.out ++ [.directory (putKind c) h x.hline d tags]
        dir := { s.dir with wbBuf := s.dir.wbBuf ++ [{ pkg := h, ctx := r.ctx, line := va / 64, hline := x.hline, data := d, tags := tags, dirty := true }] } }
    else
      let put (s : State) (d : W512) (ctr : Nat) : State :=
        let old := s.llcForeign h r.ctx (va / 64)
        s.llcPlace old (match old with
          | some o => { o with cst := c, tags := tags, dirty := c == cstM, ord := x.ord }
          | none => l) d x.cmp ctr
      if !r.op.isStore then put s d 0x03
      else put (if (s.llcForeign h r.ctx (va / 64)).isSome then s else put s x.data 0x03) d 0x04
  | _, _ => s

/-- A record that came back with an answer is logged here (R345). -/
def State.logExt (s : State) (r : Req) (x : Ext) : State :=
  match x.race with
  | some rc => if x.ok then s.raceAppend r.ctx rc else s
  | none => s

/-- The metadata that a race record tells of (R344). -/
def recordMeta (w : W512) : W64 :=
  mkMeta (w.extractLsb' 320 9) (w.extractLsb' 352 3) (w.extractLsb' 192 32) (w.extractLsb' 256 18)

/-- What the answer of another package tells the slot of an access: the entry that made the check pass, and, for an acquire, the metadata as
it was read, that of a logged race from its record (R333). -/
def State.learnExt (s : State) (r : Req) (x : Ext) : State :=
  if !r.hasSlot then s
  else s.noteCheck r { used := x.used, learnt := if r.acq && x.rc && x.ord != 2 then some (x.race.elim x.meta_ recordMeta, r.scope) else none }

/-- An answer of another package agrees with the page kind that was foretold for the access. DESIGN CHOICE (log 76): safe. -/
def Req.foretold (r : Req) (x : Ext) : Bool :=
  !x.ok || 4 ≤ r.slot || r.strm || r.isPref || r.op.isProbe || r.op == .fetch || !r.ea.getLsbD 63 ||
  (x.ord == r.attr.ord && (x.grant.isNone || r.attr.cg))

/-- The address of the uncorrectable error that a read met: its word, where that is in local memory. -/
def State.uncorrAddr (s : State) (r : Req) : W64 :=
  match placeOf r.ea with
  | .localMem none core _ _ off => errEa s.errs (lmKey (s.targetCid r.lid core) off) r.n 8 r.ea
  | _ => r.ea

/-- An uncorrectable error in the data of a read: the core freezes and nothing is delivered (R250). -/
def State.readUncorr (s : State) (r : Req) : State :=
  if r.isPref then s.dropReq r.id
  else if !r.hasSlot then s.dropAccess r.grp
  else ((if r.grp == 0 then s.dropReq r.id else s.dropAccess r.grp).modSlot r.cid r.slot fun sl =>
      if sl.waitsFor r.id then { sl with run := .running } else sl.unheld).freeze r.cid r.slot { cause := cUNCORR, addr := s.uncorrAddr r }

/-- Another package's answer to a request of a job, which its engine then finds. -/
def State.engAnswer (s : State) (r : Req) (x : Ext) : State :=
  if r.stage != .fabric then s
  else if !x.ok then s.refuse { r with race := x.race } x.cause
  else
    let d := if r.op.writesMem then mergeBytes x.data r.data r.mask else x.data
    let t := if r.op.writesMem then mergeTags x.tags r.tags r.mask else x.tags
    (((s.logExt r x).takeGrant r x d t).modReq r.id fun q => { q with stage := .done, data := x.data, mask := 0, attr := extAttr x, meta_ := x.meta_ })

/-- A host access has ended: a refused one posts HOST_ACCESS and, for a read, gives Completer Abort (R516). -/
def State.hostEnd (s : State) (r : Req) (ok : Bool) (d : W512) : State :=
  let s1 := s.dropReq r.id
  let s2 := if ok then s1 else s1.pendFault 5 r.ea.toNat
  if r.op.isStore then s2
  else { s2 with out := s2.out ++ [.hostData ok (if ok then lowBytes (d >>> (8 * (r.ea.toNat % 64))) r.n else 0)] }

/-- The answer to a host access. DEDUCED (log 52): unsafe. -/
def State.hostAnswer (s : State) (r : Req) (x : Ext) : State :=
  match r.stage with
  | .done => s.hostEnd r true r.data
  | .refused _ => s.hostEnd r false 0
  | .fabric => s.hostEnd r x.ok x.data
  | _ => s

/-- LOAD_RESPONSE: the data of a read of this package arrives. -/
def execLoadResponse (id : Nat) (x : Ext) (s : State) : Res :=
  match s.reqAt id with
  | none => .next s
  | some r =>
    if r.org != 0x3FF || !r.op.reads then .next s
    else if r.isHost then .next (s.hostAnswer r x)
    else if r.isEngine then .next (s.engAnswer r x)
    else match r.stage with
      | .done =>
        if r.op == .fetch || r.op.isProbe then .next s
        else .next (s.deliverRead r { data := r.data, tags := r.tags, marks := if r.op == .fill then 0 else r.mask, attr := r.attr
                                      meta_ := r.meta_, refwait := r.refwait })
      | .fabric =>
        if !r.foretold x then .next s
        else if x.ok then
          let s1 := ((s.logExt r x).learnExt r x).takeGrant r x x.data x.tags
          if r.op.isProbe then .next (s1.dropReq id)
          else .next (s1.deliverRead r { data := x.data, tags := x.tags, marks := x.marks, attr := extAttr x, meta_ := x.meta_, refwait := x.refwait })
        else if r.op.isStore then .next s
        else if x.cause == sfRACE then .next (s.raiseRace r (x.race.getD 0))
        else if x.cause == sfUNCORR then .next (s.readUncorr r)
        else .next (s.refuseRead r x.cause)
      | .refused c => if c == sfUNCORR && !r.op.isStore then .next (s.readUncorr r) else .next s
      | _ => .next s

/-! ## Answers to writes (R148, R163, R430, R431) -/

/-- The bytes of a store kept in the L1 with its metadata (R336). DEDUCED (log 13): unsafe. -/
def State.keepStore (s : State) (r : Req) (attr : Attr) (m : W64) : State :=
  let line := lineOf r.ea
  let hc := s.l1Core r.cid line
  if !r.kept || attr.ord == 0 || l1Sets (s.core hc) == 0 then s
  else if !r.keep then s.l1Forget hc r.ctx line
  else
    let l := ((s.core hc).l1.find? (l1Is r.ctx line)).getD { ctx := r.ctx, line := line, loose := attr.ord == 2, attr := attr }
    s.l1Put r.cid { l with
      data := mergeBytes l.data r.data r.mask, valid := l.valid ||| r.mask, tags := mergeTags l.tags r.tags r.mask
      rc := attr.rc, meta_ := m, cid := r.cid, slot := r.slot }

/-- STORE_ACK: the completion of a write of this package reaches its core. -/
def execStoreAck (id : Nat) (x : Ext) (s : State) : Res :=
  match s.reqAt id with
  | none => .next s
  | some r =>
    if r.org != 0x3FF || !r.op.isStore || r.op.reads then .next s
    else if r.isHost then .next (s.hostAnswer r x)
    else if r.isEngine then .next (s.engAnswer r x)
    else match r.stage with
      | .done => .next (((s.keepStore r r.attr r.meta_).dropReq id).partDone r.grp r.off r.n 0 0 false)
      | .fabric =>
        if !x.ok || !r.foretold x || (match r.op with
          | .mcast _ _ => true
          | _ => false) then .next s
        else
          let s1 := ((s.logExt r x).learnExt r x).takeGrant r x (mergeBytes x.data r.data r.mask) (mergeTags x.tags r.tags r.mask)
          .next (((s1.keepStore r (extAttr x) x.meta_).dropReq id).partDone r.grp r.off r.n 0 0 false)
      | _ => .next s

/-- A refused write's part of its access ends without data; a destination that waits for an old value stays pending. -/
def State.endRefused (s : State) (r : Req) : State :=
  match s.accs.find? (·.gid == r.grp) with
  | none => s
  | some a =>
    if !a.isLoad then s.partDone r.grp r.off r.n 0 0 false
    else
      let pend (sl : Slot) : Slot := match a.dest with
        | .g d => sl.pendG d
        | .v d => sl.pendV d
        | _ => sl
      let s1 := if a.slot < 4 then s.modSlot a.cid a.slot pend else s
      if a.chk then { s1 with accs := replaceFirst (·.gid == r.grp) (fun x => { x with left := 0 }) s1.accs }
      else { s1 with accs := s1.accs.filter (·.gid != r.grp) }

/-- The number of a request's target package. -/
def State.targetPkg (s : State) (r : Req) : Nat := if fld r.ea 53 10 == 0x3FF then s.pkg.toNat else fld r.ea 53 10

/-- A refusal reported: a record and a freeze, once for each cause of a multicast. -/
def State.reportStore (s : State) (r : Req) (c : BitVec 8) (race : Option W512) : State :=
  let s0 := s.dropReq r.id
  if r.mc then
    let dup := match s0.accs.find? (·.gid == r.grp) with
      | some a => a.causes.contains c
      | none => false
    let note (a : Access) : Access := { a with causes := a.causes ++ [c] }
    let s1 := ({ s0 with accs := replaceFirst (·.gid == r.grp) note s0.accs }).endRefused r
    if dup || 4 ≤ r.slot then s1
    else
      let s2 := match race with
        | some w => s1.modCore r.cid fun k => { k with raceRec := w }
        | none => s1
      s2.storeFault r.cid r.slot (setFld ((s.accs.find? (·.gid == r.grp)).elim r.ea (·.ea)) 53 10 (s.targetPkg r)) r.pc c
  else
    let s1 := s0.endRefused r
    if 4 ≤ r.slot then s1 else s1.storeFault r.cid r.slot r.ea r.pc c

/-- STORE_FAULT_REPORT: the refusal of a write reaches its core; a race found at another package is precise. -/
def execStoreFaultReport (id : Nat) (x : Ext) (s : State) : Res :=
  match s.reqAt id with
  | none => .next s
  | some r =>
    if r.org != 0x3FF || !r.op.isStore then .next s
    else if r.isHost then .next (s.hostAnswer r x)
    else if r.isEngine then .next (s.engAnswer r x)
    else match r.stage with
      | .refused c => .next (s.reportStore r c none)
      | .fabric =>
        if x.ok || (match r.op with
          | .mcast _ _ => true
          | _ => false) then .next s
        else if x.cause == sfRACE && !r.mc then .next (s.raiseRace r (x.race.getD 0))
        else .next (s.reportStore r x.cause x.race)
      | _ => .next s

/-- UNREACH_RESPONSE: the fabric answers a request whose package cannot be reached. -/
def execUnreachResponse (id : Nat) (s : State) : Res :=
  match s.reqAt id with
  | none => .next s
  | some r =>
    if r.org != 0x3FF || r.stage != .fabric then .next s
    else if r.isHost then .next (s.hostEnd r false 0)
    else if r.isEngine then .next (s.refuse r (if r.op.isStore then sfUNREACH else xUNREACH))
    else match r.op with
      | .mcast _ _ => .next s
      | _ => .next (if r.op.isStore then s.reportStore r sfUNREACH none else s.refuseRead r xUNREACH)

/-! ## The split of a multicast (R161, R162, R302) -/

/-- One copy of a multicast, or of one line's part of it; to partitioned memory of this package at the narrower scope (R137). One to a window
of this package's control space writes its register (R161, R369). DEDUCED (log 29): unsafe. -/
def State.mcastCopy (s : State) (r : Req) (red : Option (BitVec 5 × Bool × BitVec 16)) (p : Nat) (q : Piece) : Req :=
  let ea := mcAddr s.pkg q.ea p
  let attr : Attr := match placeOf ea with
    | .virt (some h) va => s.farAttr r.ctx r.grp h va
    | .virt none va => if inCtl va then { ord := 0 } else {}
    | _ => {}
  let x := q.inLine r.data
  let dbg := match placeOf ea with
    | .localMem _ _ _ d _ => d
    | _ => false
  { r with
    op := match red with
      | some (h, opv, version) => .atomic h opv false version
      | none => if dbg then .debugWrite else (match placeOf ea with
        | .virt none va => if inCtl va then .windowWrite else .store
        | _ => .store)
    attr := attr
    rel := r.rel && attr.ord != 2
    ea := ea, n := q.len, off := q.off, mc := true, remote := false
    data := if red.isSome then r.data else x.1
    mask := if red.isSome then 0 else x.2
    scope := match placeOf ea with
      | .localMem none _ _ _ _ => narrower r.scope 4
      | _ => r.scope
    stage := match placeOf ea with
      | .localMem none _ _ d _ => if d && q.cut then .refused sfWINDOW else .core
      | .virt none va => if !inCtl va then .walk else if red.isSome || !inWindow va q.len then .refused sfWINDOW else .home
      | .virt (some _) va => if inCtl va then .refused sfWINDOW else .fabric
      | _ => .fabric }

/-- MULTICAST_SPLIT: one copy for each destination and line, under the numbers that follow the multicast's own, so that later requests
of the core to a line stay behind its copy (R138). -/
def execMulticastSplit (id : Nat) (s : State) : Res :=
  match s.reqAt id with
  | none => .next s
  | some r =>
    match r.op with
    | .mcast dests red =>
      let cs := (mcList dests).flatMap fun p => (splitLines r.ea 0 r.n).map fun q => s.mcastCopy r red p q
      let s1 := s.dropReq id
      .next { s1 with reqs := s1.reqs ++ cs.mapIdx fun j c => { c with id := id + 1 + j } }
    | _ => .next s

/-! ## Deposits (R37) -/

/-- The first deposit of a link that is still under way arrives, and the heads that can be applied are. -/
def execDepositArrival (cid dir : Nat) (s : State) : Res :=
  .next (s.modCore cid fun c =>
    applyDeposits { c with links := vset c.links dir (replaceFirst (fun d => !d.arrived) (fun d => { d with arrived := true }) (vget c.links dir [])) })

/-! ## Upkeep of local memory (R251, R254) -/

/-- A cycle of the present tick is one in which a bank is refreshed: the last one that passed, or one before it in the tick (R251). -/
def State.bankDue (s : State) (cid bank : Nat) : Bool :=
  (List.range ((7 + (s.dieAt cid).code.toNat) / 4)).any fun i => (s.cycOf cid - BitVec.ofNat 64 i).toNat % 32 == 2 * bank % 32

/-- LM_REFRESH: a bank is refreshed in the cycles that R251 names. The row, one access of 64 bytes (R249), is restored unless it is an
ephemeral one; its single-bit errors are corrected and counted (R267). Which row is due is not stated: it is the event's argument.
DEDUCED (log 28): unsafe. -/
def execLmRefresh (cid bank row : Nat) (s : State) : Res :=
  let cyc := s.cycOf cid
  let c := s.core cid
  let off := 1024 * (row % 512) + 64 * bank
  if s.dieRuns (dieOf c.phys) && bank < 16 && s.bankDue cid bank then
    let s1 := s.modCore cid fun c => { c with bankRef := vset c.bankRef bank cyc }
    if c.lmb1.toNat ≤ off && off < c.lmb2.toNat then .next s1
    else
      let s2 := s1.countCorr cid off 64
      .next { s2 with errs := s2.errs.filter fun e => !(lmKey cid off ≤ e.1 && e.1 < lmKey cid off + 64 && !e.2) }
  else .next s

/-- EPHEMERAL_SWEEP: AGED is set on a row past the age limit. -/
def execEphemeralSweep (cid row : Nat) (s : State) : Res :=
  let r := tblGetD (s.core cid).rows row {}
  .next (if r.expired? s.reft then s.modCore cid fun c => { c with rows := tblSet row { r with aged := true } c.rows } else s)

end Sys2Proof.Machine
end

