-- ==== Sys2Proof/Machine/Mail.lean ====
section
/-! DEFINITION. Messages on their way, their acceptance into input buffers, placement by hint, refusal and retry, selection and the
start of an activation (R206, R228 to R242, R262, R289, R441, R448). -/
namespace Sys2Proof.Machine

/-! ## Acceptance (R206, R229, R240, R262) -/

def Msg.chan (m : Msg) : Nat := fld m.addr 0 5
def Msg.core (m : Msg) : Nat := fld m.addr 37 16
def Msg.size (m : Msg) : Nat := recSize m.payload.length

/-- What becomes of a message at a core: its record fits, there is no room for it yet, or it is refused for good. -/
inductive Verdict where
  | room (b : Buf) (pos : Nat)
  | full
  | never
  deriving DecidableEq, Repr

/-- The protection unit admits a message into a channel's slice at a core; a record's place is known from its allocation.
DEDUCED (log 31): unsafe. -/
def Core.admitsMsg (c : Core) (m : Msg) (off : Nat) : Bool :=
  c.admits? (m.origin == 1 || m.origin == 2) m.lid off m.size true false

/-- The core runs a launch of the sender's context; a service core, the loader and the host have none of their own. DEDUCED (log 31): unsafe. -/
def Launch.takes (l : Launch) (m : Msg) (core : Nat) : Bool :=
  (m.origin == 1 || (if m.origin == 2 then l.lid == m.lid else l.ctx == m.ctx)) && !l.fenced core

/-- The core that a message reaches: a message already in flight to a vacated core is forwarded (R363). -/
def State.msgCid (s : State) (m : Msg) : Nat := s.targetCid (m.fwd.getD m.lid) m.core

/-- A message at the core that holds a logical core. -/
def State.judge (s : State) (cid : Nat) (m : Msg) : Verdict :=
  let c := s.core cid
  match s.launchOf cid with
  | none => .never
  | some l =>
    let e := c.handler m.chan
    if isSvc cid || !l.takes m (coreNo cid) || heSize e < m.size then .never
    else match (c.buf m.chan).alloc (heSize e) { msg := m, size := m.size } with
      | none => if c.admitsMsg m (heBase e) then .full else .never
      | some (b, pos) => if c.admitsMsg m (heBase e + pos) then .room b pos else .never

/-- The header of a PAD record. DEDUCED (log 31): unsafe. -/
def padHeader (chan : Nat) : BitVec 256 := packFields 256 [(16, 5, chan), (26, 1, 1)]

/-- A message accepted: its record is allocated with its header, and what held it lets it go. -/
def State.take (s : State) (cid : Nat) (m : Msg) (b : Buf) (pos : Nat) : State :=
  let c := s.core cid
  let e := c.handler m.chan
  let tail := (c.buf m.chan).tail
  let name (r : Rec) : Rec := if r.rid == 0 && !r.pad then { r with rid := s.nextId } else r
  let s1 := { s.setCore cid (c.setBuf m.chan { b with recs := b.recs.map name }) with nextId := s.nextId + 1 }
  let s2 := if tail != pos && tail != heSize e then s1.lmWrite cid (heBase e + tail) (bytesOf (padHeader m.chan) 32) else s1
  let s3 := s2.putHeader cid m.chan { rid := s.nextId, pos := pos, size := m.size, msg := m }
  let s4 := s3.unhold m
  if s.ownMsg m then s4 else { s4 with out := s4.out ++ [.verdict m.spkg.toNat m.rmid true 0] }

/-! ## Hints (R240, R241) -/

/-- The cores of a path, first along x and then along y, given in global coordinates. -/
def meshPath (a b : Nat) : List Nat :=
  let dist (p q : Nat) : Nat := if p ≤ q then q - p else p - q
  let step (p q i : Nat) : Nat := if p ≤ q then p + i else p - i
  ((List.range (dist (gblX a) (gblX b) + 1)).map fun i => coreAt (step (gblX a) (gblX b) i) (gblY a)) ++
  ((List.range (dist (gblY a) (gblY b))).map fun i => coreAt (gblX b) (step (gblY a) (gblY b) (i + 1)))

/-- The Manhattan distance of two cores. -/
def meshDist (a b : Nat) : Nat :=
  (gblX a - gblX b) + (gblX b - gblX a) + (gblY a - gblY b) + (gblY b - gblY a)

/-- The slots of a physical core that hold no activation of any logical core. -/
def State.freeSlot (s : State) (cid : Nat) : Option Nat :=
  [0, 1, 2, 3].find? fun k => (s.residents cid).all fun c => (s.slotAt c k).run == .dormant

/-- A core that is offered a hinted message takes it: its buffer with the record. -/
def State.offered (s : State) (m : Msg) (hint : Launch) (needSlot : Bool) (core : Nat) : Option (Nat × Buf × Nat) :=
  let cid := s.memberCid hint.lid core
  if (s.core cid).lid != some hint.lid || (needSlot && (s.freeSlot cid).isNone) || heMask ((s.core cid).handler m.chan) then none
  else match s.judge cid m with
    | .room b pos => some (cid, b, pos)
    | _ => none

/-- The launch of a message's hint core. -/
def State.hintLaunch (s : State) (m : Msg) : Option Launch := s.launchOf (s.msgCid m)

/-- The message offered to cores in turn. -/
def State.place (s : State) (m : Msg) (l : Launch) (needSlot : Bool) (cores : List Nat) : Option State :=
  (cores.findSome? (s.offered m l needSlot)).map fun x => s.take x.1 { m with addr := setFld m.addr 37 16 (coreNo x.1) } x.2.1 x.2.2

/-- The router at which a message enters the mesh: a service core's stands at an end of its die row (R13), and which end is open.
DEDUCED (log 31): unsafe. -/
def State.entryOf (s : State) (m : Msg) : Nat :=
  if !s.ownMsg m then Config.entryRouter 0 % 65536
  else if isSvc m.cid then
    let n := coreNo m.cid
    n / 64 % 16 * 4096 + n % 64 * 64 + (if Config.entryRouter (n + 1) % 2 == 0 then 0 else 63)
  else coreNo m.cid

/-- A refusal for room is on its way back; a sender in another package is told at once. -/
def State.sendBack (s : State) (m : Msg) : State :=
  if s.ownMsg m then
    let rest := s.msgs.filter (·.mid != m.mid)
    { s with msgs := rest ++ [{ m with back := true }] }
  else { s with msgs := s.msgs.filter (·.mid != m.mid), out := s.out ++ [.verdict m.spkg.toNat m.rmid false 0] }

/-- A hinted message: taken on its path, queued at the hint core's router, or refused. -/
def State.placeHint (s : State) (m : Msg) (radius : Nat) : State :=
  match s.hintLaunch m with
  | none => s.sendLost m sfSENDREFUSED
  | some l =>
    if !l.takes m m.core then s.sendLost m sfSENDREFUSED
    else
      match s.place m l true ((meshPath (s.entryOf m) m.core).filter fun c => meshDist c m.core ≤ radius) with
      | some s' => s'
      | none =>
        let q := tblGetD s.spills m.core []
        if 8 ≤ q.length then s.sendBack m
        else
          let m1 := { m with headAt := s.cycOf m.core, anyCore := false }
          { s with msgs := s.msgs.filter (·.mid != m.mid), spills := tblSet m.core (q ++ [m1]) s.spills }

/-- The cores within a radius of a hint core, nearest first, then by number. -/
def aroundHint (core radius : Nat) : List Nat :=
  let near := (List.range (2 * radius + 1)).flatMap fun j => (List.range (2 * radius + 1)).filterMap fun i =>
    let x := gblX core + i
    let y := gblY core + j
    if x < radius || y < radius || 256 ≤ x - radius || 256 ≤ y - radius then none else some (coreAt (x - radius) (y - radius))
  (List.range (radius + 1)).flatMap fun d =>
    ((near.filter fun c => meshDist c core == d).mergeSort fun a b => decide (a ≤ b))

/-- The head of a hint core's spill queue is offered to the cores around it, from 4,096 cycles of waiting on without the
dormant-slot condition. -/
def State.offerSpill (s : State) (core : Nat) : State :=
  match tblGetD s.spills core [] with
  | [] => s
  | m :: rest =>
    let pop (s : State) : State :=
      let rest1 := match rest with
        | [] => []
        | r :: rs => { r with headAt := s.cycOf core } :: rs
      { s with spills := tblSet core rest1 s.spills }
    match s.hintLaunch m with
    | none => (pop s).sendLost m sfSENDREFUSED
    | some l =>
      match s.place m l (!m.anyCore && (s.cycOf core - m.headAt).toNat < 4096) (aroundHint core (m.hint.getD 0)) with
      | some s' => pop s'
      | none => s

/-- A router offers its spill queue's head where 64 cycles have passed since it last did. DEDUCED (log 31): unsafe. -/
def State.offerDue (s : State) (core : Nat) : State :=
  let now := s.cycOf core
  let due : Bool := match tblGet core s.spillAt with
    | none => true
    | some t => 64 ≤ (now - t).toNat
  if due then { s with spillAt := tblSet core now s.spillAt }.offerSpill core else s

/-- SPILL_OFFER at the router of a core. -/
def execSpillOffer (cid : Nat) (s : State) : Res := .next (s.offerDue (coreNo cid))

/-- SPILL_HEAD_TIMEOUT: a head that has waited 4,096 cycles is offered without the dormant-slot condition. -/
def execSpillHeadTimeout (cid : Nat) (s : State) : Res :=
  let core := coreNo cid
  match tblGetD s.spills core [] with
  | [] => .next s
  | m :: rest =>
    if (s.cycOf core - m.headAt).toNat < 4096 then .next s
    else .next (({ s with spills := tblSet core ({ m with anyCore := true } :: rest) s.spills }).offerDue core)

/-! ## The network -/

/-- MESSAGE_ACCEPT: the first flit of a message reaches its core. A stopped die clock holds it (R502). -/
def execMessageAccept (mid : Nat) (s : State) : Res :=
  match s.msgs.find? (·.mid == mid) with
  | none => .next s
  | some m =>
    if !m.inFlight || m.back then .next s
    else match m.hint with
      | some radius => .next (s.placeHint m radius)
      | none =>
        let cid := s.msgCid m
        if (s.dieAt cid).gone then .next (s.sendLost m sfUNREACH)
        else if !s.dieRuns (dieOf (s.core cid).phys) then .next s
        else match s.judge cid m with
          | .room b pos => .next (s.take cid m b pos)
          | .full => .next (s.sendBack m)
          | .never => .next (s.sendLost m sfSENDREFUSED)

/-- The delay before reissue after refusal k. -/
def retryDelay (k : Nat) : Nat := if k ≤ 1 then 64 else if k ≤ 10 then 64 * 2 ^ (k - 1) else 65536

/-- A message refused once more, to be sent again after its delay. -/
def Msg.refused (m : Msg) (cyc : W64) : Msg :=
  let r := min 255 (m.retry.toNat + 1)
  { m with retry := BitVec.ofNat 8 r, readyAt := cyc + BitVec.ofNat 64 (retryDelay r), inFlight := false, back := false }

/-- A refusal for room reaches what holds the message; a message that nothing holds waits by itself. DESIGN CHOICE (log 60): unsafe.
-/
def State.refusedRoom (s : State) (m : Msg) : State :=
  let cyc := s.cycOf m.cid
  let f (x : Msg) : Msg := if x.mid == m.mid then x.refused cyc else x
  let held := (s.core m.cid).sendq.any (·.mid == m.mid)
  let cl := s.clusterId m.cid
  let engine := (s.cluster cl).held.any (·.mid == m.mid)
  let s1 := if held || engine then { s with msgs := s.msgs.filter (·.mid != m.mid) } else { s with msgs := s.msgs.map f }
  let count : W64 := if held || engine then 1 else 0
  let s2 := s1.modCore m.cid fun c => { c with sendq := c.sendq.map f, retryc := c.retryc + count }
  if engine then s2.setCluster cl { s2.cluster cl with held := (s2.cluster cl).held.map f } else s2

/-- A message sent to another package that awaits its verdict. -/
def State.abroad (s : State) (mid : Nat) : Option Msg :=
  s.cores.findSome? fun p => p.2.sendq.find? fun m => m.mid == mid && m.inFlight && fld m.addr 53 10 != 0x3FF

/-- A message that carries a domain's id has been accepted in another package: a task there (R473). DEDUCED (log 25): unsafe. -/
def State.remoteTask (s : State) (m : Msg) : State :=
  let p := fld m.addr 53 10
  if m.did == 0 then s
  else s.modDom m.ctx m.did fun d => { d with remote := tblSet p (tblGetD d.remote p 0 + 1) d.remote }

/-- MESSAGE_REFUSED: a message refused for room comes back; or the verdict of another package arrives: accepted, refused for
room (cause 0), refused for good or unreachable. -/
def execMessageRefused (mid : Nat) (x : Ext) (s : State) : Res :=
  match s.msgs.find? (·.mid == mid) with
  | some m => .next (if m.back then s.refusedRoom m else s)
  | none =>
    match s.abroad mid with
    | none => .next s
    | some m => .next (if x.ok then (s.unhold m).remoteTask m else if x.cause == 0 then s.refusedRoom m else s.sendLost m x.cause)

/-! ## Issue and retry (R238, R239) -/

/-- Two messages of one core have the same destination. -/
def Msg.sameDest (a b : Msg) : Bool := a.score == b.score && a.addr.extractLsb' 37 26 == b.addr.extractLsb' 37 26 && a.chan == b.chan

/-- The first message that may be issued: not issued yet, and behind no unaccepted one to its destination. -/
def nextIssue : List Msg → List Msg → Option Msg
  | _, [] => none
  | before, m :: ms =>
    if !m.inFlight && m.retry == 0 && (m.hint.isSome || !(before.any fun b => b.hint.isNone && b.sameDest m)) then some m
    else nextIssue (before ++ [m]) ms

/-- A message leaves its holder: into this package's network, out to another package, or back as unreachable. -/
def State.issueMsg (s : State) (m : Msg) : State :=
  let mark (x : Msg) : Msg := if x.mid == m.mid then { x with inFlight := true } else x
  let cl := s.clusterId m.cid
  let s1 := s.modCore m.cid fun c => { c with sendq := c.sendq.map mark }
  let s2 := if m.origin == 3 then s1.setCluster cl { s1.cluster cl with held := (s1.cluster cl).held.map mark } else s1
  let m1 := { m with inFlight := true, back := false }
  let p := fld m.addr 53 10
  if p == 0x3FF then
    let s3 := { s2 with msgs := s2.msgs.filter (·.mid != m.mid) ++ [m1] }
    match m.hint with
    | some radius => s3.placeHint m1 radius
    | none => s3
  else if s.fab.lost.contains (.package p) then s2.sendLost m1 sfUNREACH
  else { s2 with out := s2.out ++ [.message m1] }

/-- SEND_QUEUE_ISSUE: a core's send queue issues its next message. -/
def execSendQueueIssue (cid : Nat) (s : State) : Res :=
  if !s.dieRuns (dieOf (s.core cid).phys) then .next s
  else match nextIssue [] (s.core cid).sendq with
    | none => .next s
    | some m => .next (s.issueMsg m)

/-- SEND_RETRY: a refused message whose delay has passed is sent again. -/
def execSendRetry (cid mid : Nat) (s : State) : Res :=
  let all := (s.core cid).sendq ++ (s.cluster (s.clusterId cid)).held ++ s.msgs
  match all.find? fun m => m.mid == mid && m.cid == cid && !m.inFlight && m.retry != 0 && m.readyAt.toNat ≤ (s.cycOf cid).toNat with
  | none => .next s
  | some m => .next (s.issueMsg m)

/-! ## Payloads (R228, R481) -/

/-- A failure charged to a domain: FAILS + 1 and an abort, where it is open, closing or recovering (R480, R481). Errors of one tick are one
failure; an error in the tick of a DABORT, or during an abort that ends in state 5, is counted and changes nothing else (R498).
DEDUCED (log 67): unsafe. -/
def State.chargeDom (s : State) (ctx : Nat) (did : BitVec 4) : State :=
  match s.dom ctx did with
  | none => s
  | some d =>
    if d.state == 1 || d.state == 2 then s.abortDom ctx did true true
    else if d.state != 4 then s
    else if d.since == s.reft && d.byError then s
    else if d.since == s.reft || !d.reexec then
      s.modDom ctx did fun d =>
        let fails := min 255 (d.fails + 1)
        { d with fails := fails, byError := true, escalate := d.reexec && (d.noReexec || d.esc ≤ fails) }
    else s.abortDom ctx did true true

/-- PAYLOAD_COMPLETE: the last payload byte of record `k` is written. A payload whose CRC fails is discarded, and its domain is
charged. -/
def execPayloadComplete (cid chan k : Nat) (crcOk : Bool) (s : State) : Res :=
  let c := s.core cid
  match (c.buf chan).recs.find? fun r => r.rid == k && !r.pad && !r.complete && !r.freed with
  | none => .next s
  | some r =>
    let upd (s : State) (f : Rec → Rec) : State := s.modCore cid fun c =>
      let b := c.buf chan
      c.setBuf chan (({ b with recs := b.recs.map fun x => if x.rid == k && !x.pad then f x else x } : Buf).reclaim)
    if !crcOk then .next ((upd s fun x => { x with freed := true, taken := true }).chargeDom r.msg.ctx r.msg.did)
    else
      let s1 := s.lmWrite cid (recOff c chan r + 32) r.msg.payload
      let r1 := { r with complete := true, arrived := s.reft }
      let s2 := ((upd s1 fun _ => r1).putFlags cid chan r1).lmWrite cid (recOff c chan r1 + 24) (bytesOf r1.arrived 8)
      .next (s2.modCore cid fun c => { c with slots := c.slots.map fun sl => { sl with msgl := true } })

/-! ## Selection (R232 to R234, R441) -/

/-- A core's candidate: the highest effective priority among its ready channels, and the channel that round robin picks. -/
def Core.candidate (c : Core) : Option (Nat × Nat) :=
  let rs := (List.range 32).filter c.ready
  let ep (ch : Nat) : Nat := (vget c.ep ch 0).toNat
  if rs.isEmpty then none
  else
    let p := rs.foldl (fun m ch => max m (ep ch)) 0
    let from_ := vget c.last p 31
    ((List.range 32).map fun j => (from_ + 1 + j) % 32).find? (fun ch => rs.contains ch && ep ch == p) |>.map fun ch => (p, ch)

/-- A breakpoint of kind 0, 1 or 3 that matches a selection. -/
def selBreak (c : Core) (cid chan : Nat) : Option Nat :=
  (List.range 4).find? fun n =>
    let ctl := vget c.bpctl n 0
    let kind := fld ctl 1 3
    ctl.getLsbD 0 && (coreNo cid &&& fld ctl 32 16) == (fld ctl 48 16 &&& fld ctl 32 16) &&
    (kind == 3 || (kind == 1 && fld ctl 4 5 == chan) || (kind == 0 && vget c.bpaddr n 0 == heEntry (c.handler chan)))

/-- The logical core of a physical core whose candidate starts: the highest priority, then round robin after the one served last. -/
def State.served (s : State) (cid : Nat) : Option (Nat × Nat × Nat) :=
  let rs := (s.residents cid).mergeSort fun a b => decide (coreNo a ≤ coreNo b)
  let last := (s.core (s.core cid).phys).served
  let order := rs.filter (fun c => last < coreNo c) ++ rs.filter (fun c => coreNo c ≤ last)
  let ok (c : Nat) : Bool := match s.launchOf c with
    | some l => !l.moves (coreNo c) (s.core c).phys
    | none => false
  let cs := order.filterMap fun c => if ok c then ((s.core c).candidate).map fun x => (c, x) else none
  let p := cs.foldl (fun m x => max m x.2.1) 0
  (cs.find? fun x => x.2.1 == p).map fun x => (x.1, x.2.1, x.2.2)

/-! ## The start of an activation (R23, R24, R235, R448) -/

/-- The DLYT entry that a message's sender takes. -/
def dlytPick (es : Vector Dlyt 33) (m : Msg) : Nat :=
  if m.origin != 0 then 32
  else match (List.range 32).find? fun i => (vget es i {}).v && (vget es i {}).spkg == m.spkg && (vget es i {}).score == m.score with
    | some i => i
    | none => ((List.range 32).find? fun i => !(vget es i {}).v).getD 32

/-- A difference of two REFT readings, 0 where it is negative. -/
def tickDiff (a b : W64) : W64 := if b.toNat ≤ a.toNat then a - b else 0

/-- A sum of reference ticks that stops at its maximum (R49). -/
def satAdd (a b : W64) : W64 := if 2 ^ 64 ≤ a.toNat + b.toNat then BitVec.allOnes 64 else a + b

/-- The entry charged with a start. -/
def Dlyt.charge (e : Dlyt) (i : Nat) (m : Msg) (arrived reft : W64) : Dlyt :=
  { e with
    count := if e.count == 0xFFFFFFFF then e.count else e.count + 1
    v := true
    spkg := if i == 32 then e.spkg else m.spkg
    score := if i == 32 then e.score else m.score
    transit := satAdd e.transit (tickDiff arrived m.sent)
    queue := satAdd e.queue (tickDiff reft arrived) }

/-- g4 at activation start. -/
def g4Of (m : Msg) : W128 :=
  packFields 128 [(48, 13, m.payload.length), (36, 2, m.origin.toNat), (26, 10, m.spkg.toNat), (10, 16, m.score.toNat),
    (5, 2, m.sslot.toNat), (0, 5, m.chan)]

/-- g3 at activation start: the payload in the input buffer. -/
def g3Of (off len : Nat) : W128 :=
  let x := capEncode off (off + len)
  mkCap 1 x.1 x.2.1 x.2.2.1 pLD off

/-- A slot as an activation starts in it, before its acquire. -/
def Slot.start (sl : Slot) (l : Launch) (c : Core) (k chan prio dl : Nat) (r : Rec) (reft : W64) : Slot :=
  let e := c.handler chan
  let off := heBase e + r.pos + 32
  let g := Vector.ofFn (n := 64) fun i =>
    if 56 ≤ i.val then vget sl.g i.val {}
    else if i.val == 3 then { val := g3Of off r.msg.payload.length, tag := true }
    else if i.val == 4 then { val := g4Of r.msg }
    else {}
  let rg := vget c.regions (heRidx e) 0
  { sl with
    run := .running, pc := heEntry e, pcc := capWithAddr l.code (heEntry e), pccTag := true, g := g
    v := Vector.replicate 32 {}, p := Vector.replicate 8 0, st := Vector.replicate 4 {}
    actinfo := packFields 64 [(0, 5, chan), (5, 2, prio), (7, 2, k), (48, 16, l.lid.toNat)]
    actts := Vector.ofFn (n := 3) fun i => if i.val == 0 then r.msg.sent else if i.val == 1 then r.arrived else reft
    loop := { sl.loop with lact := false }, msgl := false, jobl := false, did := r.msg.did, wdog := 0, taken := false
    act := { rid := r.rid, dlyt := dl, dlytOk := true, retry := r.msg.retry, entry := heEntry e, did := r.msg.did
             bound := if heRbv e then some (rgnBase rg, rgnBase rg + rgnSize rg) else none } }

/-- Start: the record is taken, the slot's state set, the acquire performed with its horizon entry, the delay accounted. -/
def State.startAct (s : State) (l : Launch) (cid k prio chan : Nat) (r : Rec) : State :=
  let c := s.core cid
  let r1 := { r with taken := true }
  let b := c.buf chan
  let c1 := { c.setBuf chan { b with recs := b.recs.map fun x => if x.rid == r.rid && !x.pad then r1 else x } with
    last := vset c.last prio chan
    ep := vset c.ep chan (hePrio (c.handler chan))
    age := vset c.age chan 0 }
  let ph := c.phys
  let s1 := (s.setCore cid c1).putFlags cid chan r1
  let dl := dlytPick (s1.core ph).dlyt r.msg
  let s2 := s1.modCore ph fun p => { p with
    served := coreNo cid, starts := p.starts - 1
    dlyt := vset p.dlyt dl ((vget p.dlyt dl {}).charge dl r.msg r.arrived s.reft) }
  let s3 := s2.modSlot cid k fun sl => sl.start l c k chan prio dl r s.reft
  let s4 := s3.acquire cid k r.msg.scope.toNat false
  let s5 := if r.msg.origin == 0 || r.msg.origin == 3 then
      s4.modSlot cid k fun sl => sl.learn (BitVec.ofNat 18 (r.msg.score.toNat * 4 + r.msg.sslot.toNat)) r.msg.sclk r.msg.scope
    else s4
  s5.traceRec cid k (c.trcc.getLsbD 1) 0x01 0 r.msg.sent.toNat (fld (g4Of r.msg) 10 26 * 2 ^ 10)

/-- A stop has been asked for at some logical core of a physical core. -/
def State.stopAsked (s : State) (cid : Nat) : Bool := (s.residents cid).any fun c => (s.core c).frz.stopreq

/-- A suspended slot goes on in its state: an instruction whose walk or posted fault it waited for is issued again. DEDUCED (log 47): unsafe. -/
def Slot.unsuspend (sl : Slot) : Slot :=
  match sl.run with
  | .suspended none => { sl with run := .running }
  | .suspended (some (.walk _)) => { sl with run := .running }
  | .suspended (some (.posted _)) => { sl with run := .running }
  | .suspended (some w) => { sl with run := .sleeping w }
  | _ => sl

/-- The suspended slots of a physical core's logical cores that have reached it (R363). -/
def State.waitingSlots (s : State) (cid : Nat) : List (Nat × Nat) :=
  (s.residents cid).flatMap fun c =>
    let here : Bool := match s.launchOf c with
      | some l => !l.moves (coreNo c) (s.core c).phys
      | none => false
    if !here then [] else ([0, 1, 2, 3].filter fun k => match (s.slotAt c k).run with
      | .suspended _ => true
      | _ => false).map fun k => (c, k)

/-- A slot number of a physical core that no logical core's activation uses, but for suspended ones. -/
def State.slotFree (s : State) (cid k : Nat) : Bool :=
  (s.residents cid).all fun c => match (s.slotAt c k).run with
    | .dormant => true
    | .suspended _ => true
    | _ => false

/-- No activation may start at a physical core now: it has started one in each cycle of this tick, or the age of a channel has
reached 4,096 and its promotion comes first (R232). -/
def State.startHeld (s : State) (cid : Nat) : Bool :=
  (s.core (s.core cid).phys).starts == 0 ||
  (s.residents cid).any fun c => (s.core c).age.toList.any fun a => 4096 ≤ a

/-- SELECT of the physical core that holds a core. A suspended activation resumes before any selection (R363). -/
def execSelect (cid : Nat) (s : State) : Res :=
  if isSvc cid || s.frozen cid || s.stopAsked cid || !s.dieRuns (dieOf (s.core cid).phys) then .next s
  else if !(s.waitingSlots cid).isEmpty then
    match (s.waitingSlots cid).find? fun x => s.slotFree cid x.2 with
    | some x => .next (s.modSlot x.1 x.2 Slot.unsuspend)
    | none => .next s
  else if s.startHeld cid then .next s
  else match s.freeSlot cid, s.served cid with
    | some k, some (lc, prio, chan) =>
      match s.launchOf lc, ((s.core lc).buf chan).oldest with
      | some l, some r =>
        let c := s.core lc
        match (if c.frz.bpskip then none else selBreak c lc chan) with
        | some n => .next (s.setCore lc { c with frz := { c.frz with stopreq := true, bpskip := true, stopBy := BitVec.ofNat 8 n } })
        | none => .next ((s.setCore lc { c with frz := { c.frz with bpskip := false } }).startAct l lc k prio chan r)
      | _, _ => .next s
    | _, _ => .next s

/-- AGE_PROMOTION: a channel whose age has reached 4,096. -/
def execAgePromotion (cid chan : Nat) (s : State) : Res :=
  let c := s.core cid
  let a := vget c.age chan 0
  if a < 4096 || chan ≥ 32 then .next s
  else .next (s.setCore cid { c with
    age := vset c.age chan (a - 4096)
    ep := vset c.ep chan (if (vget c.ep chan 0).toNat < 3 then vget c.ep chan 0 + 1 else vget c.ep chan 0) })

/-- STOP_COMPLETE: with a stop asked for and every slot dormant, the core is stopped. -/
def execStopComplete (cid : Nat) (s : State) : Res :=
  let c := s.core cid
  if !c.frz.stopreq || c.frz.stopped || !([0, 1, 2, 3].all fun k => (c.slot k).run == .dormant) then .next s
  else .next ((s.setCore cid { c with frz := { c.frz with stopped := true } }).traceRec cid 0 true 0x05 0 c.frz.stopBy.toNat 0)

/-- ACT_TIMEOUT: a watchdog count at its launch's limit. -/
def execActTimeout (cid slot : Nat) (s : State) : Res :=
  let sl := s.slotAt cid slot
  match s.launchOf cid with
  | none => .next s
  | some l =>
    if !sl.live || sl.wdog < l.timeout || s.frozen cid then .next s
    else .next (s.preciseFault cid slot { cause := cACT_TIMEOUT, aux := sl.actinfo })

end Sys2Proof.Machine
end

