-- ==== Sys2Proof/Machine/Engine.lean ====
section
/-! DEFINITION. Jobs: command fields and their legality, acceptance, the accesses of engines, and completion (R258, R268 to R282,
R285 to R290, R338). -/
namespace Sys2Proof.Machine

/-! ## Fields of a command (R272) -/

def cmdAcq (c : W512) : Bool := c.getLsbD 8
def cmdRel (c : W512) : Bool := c.getLsbD 9
def cmdScope (c : W512) : Nat := fld c 10 3
def cmdAfter (c : W512) : Bool := c.getLsbD 13
def cmdRm (c : W512) : Nat := fld c 16 3
def cmdSat (c : W512) : Bool := c.getLsbD 19

def isMatrixOp (op : Nat) : Bool := 1 ≤ op && op ≤ 6
def isCopyOp (op : Nat) : Bool := 0x10 ≤ op && op ≤ 0x15

/-- The header's rules; `rounds` when the command rounds. -/
def headerBad (c : W512) (rounds : Bool) : Bool :=
  cmdB c 3 1 != 0 || fld c 20 4 != 0 || fld c 14 2 != 0 || 6 ≤ cmdScope c || 5 ≤ cmdRm c || (!rounds && (cmdRm c != 0 || cmdSat c))

/-! ## Regions and cluster cores (R258, R274, R279) -/

/-- The core of the submitting core's cluster with a cluster core index. -/
def State.clusterCore (s : State) (cid k : Nat) : Nat :=
  let b := coreNo cid
  s.memberCid (s.lidOf cid) (b / 4096 * 4096 + (locY b / 2 * 2 + k / 4) * 64 + locX b / 4 * 4 + k % 4)

/-- The cluster core index of a core. -/
def coreIndex (cid : Nat) : Nat := locY (coreNo cid) % 2 * 4 + locX (coreNo cid) % 4

/-- The format of the region that holds a local offset of a core, 0 for raw or none. -/
def Core.formatAt (c : Core) (off : Nat) : Nat :=
  match ((List.range c.nrgn).map fun i => vget c.regions i 0).find? fun r => rgnBase r ≤ off && off < rgnBase r + rgnSize r with
  | some r => rgnFmt r
  | none => 0

/-- A command's explicit format against a region's: none where they disagree. -/
def pickFmt (region code : Nat) : Option Nat :=
  if code != 0 && region != 0 && code != region then none else some (if code != 0 then code else region)

/-- An address of a command after the rewriting of R134. -/
def State.jobEa (s : State) (cid : Nat) (a : W64) : W64 := rewriteEa s.pkg cid a

/-- A range of this package or another meets the control space (R369). -/
def ctlRange (a : W64) (n : Nat) : Bool := a.getLsbD 63 && n != 0 && ctlBase < fld a 0 53 + n

/-- A malformed address: in form, or in the control space. A partitioned address with bit 35 set has a non-zero bit among [34:19]
or names a debug window, which no job reaches. DEDUCED (log 32): unsafe. -/
def addrBad (a : W64) : Bool := formBad a || (!a.getLsbD 63 && a.getLsbD 35) || (a.getLsbD 63 && inCtl (fld a 0 53))

/-- The region format that an address takes part with; virtual addresses and those of other packages are raw. DEDUCED (log 32):
unsafe. -/
def State.regionAt (s : State) (cid : Nat) (a : W64) : Nat :=
  match placeOf (s.jobEa cid a) with
  | .localMem none core self _ off => (s.core (if self then cid else s.targetCid (s.lidOf cid) core)).formatAt off
  | _ => 0

/-! ## Matrix operands (R279 to R283, R285) -/

/-- A scratchpad descriptor. -/
structure Desc where
  core  : Nat
  base  : Nat
  rowp  : Nat
  skew  : Nat
  pitch : Int
  deriving DecidableEq, Repr

/-- The descriptor at byte `i` of a command. -/
def cmdDesc (c : W512) (i : Nat) : Desc :=
  let w := cmdB c i 8
  let rot := w / 2 ^ 45 % 8
  { core := w / 2 ^ 42 % 8, base := w % 2 ^ 19, rowp := w / 2 ^ 48, skew := if rot == 0 then 0 else 2 * rot - 1
    pitch := sextN 20 (cmdB c (i + 8) 8) }

def descBad (c : W512) (i : Nat) : Bool := fld c (8 * i + 19) 23 != 0 || fld c (8 * i + 84) 44 != 0

/-- The offset of row `r` of K step `st`. -/
def Desc.row (d : Desc) (r st : Nat) : Int := (d.base + r * d.rowp + 64 * (r * d.skew % 16) : Nat) + (st : Int) * d.pitch

/-- A row of `n` bytes lies outside local memory or meets the L1 range of its core. -/
def Core.rowBad (c : Core) (off : Int) (n : Nat) : Bool :=
  off < 0 || (0x80000 : Int) < off + n || c.inL1 off.toNat n

/-- The K step, the group size and the row bytes of an operand format. -/
def mmaClass (t : Nat) : Option (Nat × Nat × Nat) :=
  if t == 0x0B then some (16, 8, 64)
  else if t == 0x0C || t == 0x0D then some (32, 8, 64)
  else if t == 0x0E || t == 0x0F then some (64, 16, 64)
  else if t == 0x11 then some (64, 16, 66)
  else if t == 0x12 then some (128, 32, 72)
  else none

/-- An operand of an MMA: a vector's first register, or a descriptor, with its resolved format. -/
structure MmaOp where
  vec  : Option Nat
  desc : Desc
  fmt  : Nat
  deriving DecidableEq, Repr

/-- The operand of an MMA at descriptor byte `at_`, with its vector and format fields; none where it is malformed. -/
def State.mmaOp (s : State) (cid : Nat) (c : W512) (vec : Bool) (at_ vb fmt : Nat) : Option MmaOp :=
  if vec then
    if cmdB c at_ 16 != 0 || (vb != 0 && vb != 16) || isBlock fmt then none else some ⟨some vb, ⟨0, 0, 0, 0, 0⟩, fmt⟩
  else if descBad c at_ then none
  else
    let d := cmdDesc c at_
    (pickFmt ((s.core (s.clusterCore cid d.core)).formatAt d.base) fmt).map fun f => ⟨none, d, f⟩

/-- The rows that a mask selects. -/
def maskRows (m : Nat) : List Nat := (List.range 16).filter m.testBit

/-- The two operands of an MMA, where they are legal (R280 to R283). -/
def State.mmaOps (s : State) (cid : Nat) (c : W512) : Option (MmaOp × MmaOp) :=
  let ks := cmdB c 5 1
  let av := fld c 36 1 == 1
  let bv := fld c 37 1 == 1
  if cmdB c 48 16 != 0 || cmdB c 6 2 != 0 || fld c 38 2 != 0 || 16 ≤ ks || [12, 13, 14, 15].any (fun i => 32 ≤ cmdB c i 1) then none
  else match s.mmaOp cid c av 16 (cmdB c 14 1) (cmdB c 12 1), s.mmaOp cid c bv 32 (cmdB c 15 1) (cmdB c 13 1) with
    | some a, some b =>
      match mmaClass a.fmt, mmaClass b.fmt with
      | some x, some y =>
        if x.1 != y.1 || (av && bv && a.vec == b.vec) || (ks != 0 && (av || bv || a.fmt == 0x12 || b.fmt == 0x12)) then none
        else some (a, b)
      | _, _ => none
    | _, _ => none

/-- The rows of a scratchpad operand that an MMA uses are legal. DEDUCED (log 32): unsafe. -/
def State.rowsOk (s : State) (cid : Nat) (o : MmaOp) (rows : List Nat) (steps : Nat) : Bool :=
  o.vec.isSome ||
  match mmaClass o.fmt with
  | none => false
  | some k =>
    (List.range steps).all fun st => rows.all fun r =>
      let off := o.desc.row r st
      !(s.core (s.clusterCore cid o.desc.core)).rowBad off k.2.2 && (isBlock o.fmt || off % 64 == 0)

/-- The tiles that a matrix command names, as a mask. -/
def cmdTiles (c : W512) : Nat :=
  let op := cmdOp c
  if op == 1 || op == 3 || op == 4 then 2 ^ fld c 32 4 else if op == 2 || op == 5 || op == 6 then cmdB c 4 2 else 0

def Cluster.tile (cl : Cluster) (t : Nat) : Tile := vget cl.tiles t {}
def Cluster.setTile (cl : Cluster) (t : Nat) (x : Tile) : Cluster := { cl with tiles := vset cl.tiles t x }

/-- The core with a cluster core index is a member of a launch. -/
def State.isMember (s : State) (cid k : Nat) : Bool :=
  match (s.core cid).lid with
  | none => false
  | some l => (s.core (s.clusterCore cid k)).lid == some l

/-- A matrix command breaks a rule. DEDUCED (log 32): unsafe. -/
def State.matrixBad (s : State) (cid : Nat) (c : W512) : Bool :=
  let op := cmdOp c
  let cl := s.cluster (s.clusterId cid)
  let named := maskRows (cmdTiles c)
  let mine := named.all fun t => (cl.tile t).owner.toNat == coreIndex cid
  if isSvc cid || headerBad c (op == 4) then true
  else if op == 1 then
    match s.mmaOps cid c with
    | none => true
    | some (a, b) =>
      let steps := cmdB c 5 1 + 1
      !mine || !s.rowsOk cid a (if cmdB c 10 2 == 0 then [] else maskRows (cmdB c 8 2)) steps ||
      !s.rowsOk cid b (if cmdB c 8 2 == 0 then [] else maskRows (cmdB c 10 2)) steps
  else if op == 3 || op == 4 then
    let d := cmdDesc c 16
    let core := s.core (s.clusterCore cid d.core)
    match pickFmt (core.formatAt d.base) (cmdB c 5 1) with
    | none => true
    | some f =>
      let w := tyBytes f
      cmdB c 56 8 != 0 || cmdB c 32 16 != 0 || cmdB c 12 4 != 0 || cmdB c 6 2 != 0 || fld c 37 3 != 0 || 32 ≤ cmdB c 5 1 ||
      (op == 3 && fld c 36 1 != 0) || descBad c 16 || d.pitch != 0 || !(0x0B ≤ f && f ≤ (if op == 3 then 0x0D else 0x0F)) || !mine ||
      (if cmdB c 10 2 == 0 then [] else maskRows (cmdB c 8 2)).any fun r => core.rowBad (d.row r 0) (16 * w) || d.row r 0 % w != 0
  else
    cmdB c 7 57 != 0 || fld c 52 4 != 0 ||
    (if op == 5 then
      8 ≤ fld c 48 4 || !s.isMember cid (fld c 48 4) || named.any fun t => !s.isMember cid (cl.tile t).owner.toNat
    else fld c 48 4 != 0 || !mine)

/-! ## Copy commands (R286, R287) -/

def cpCount (c : W512) : Nat := cmdB c 32 4
def cpDst (c : W512) : W64 := BitVec.ofNat 64 (cmdB c 24 8)
def cpSrc (c : W512) : W64 := BitVec.ofNat 64 (cmdB c 16 8)
def cpAux (c : W512) : W64 := BitVec.ofNat 64 (cmdB c 40 8)

/-- What a copy command does, with its formats resolved: the bytes of COPY, converted elements, quantised blocks, or the others. -/
inductive CopyPlan where
  | bytes
  | conv (sf df n : Nat)
  | quant (sf df n : Nat)
  | gather
  | scatter
  | fill
  deriving DecidableEq, Repr

/-- The bytes of `n` elements of a format. -/
def spanBytes (t n : Nat) : Nat := if isBlock t then n / 32 * blockBytes t else n * tyBytes t

/-- The bytes that a plan reads at SRC and at AUX and writes at DST, as far as the command alone gives them (R286). -/
def CopyPlan.spans (c : W512) : CopyPlan → Nat × Nat × Nat
  | .bytes => (cpCount c, 0, cpCount c)
  | .conv sf df n => (spanBytes sf n, 0, spanBytes df n)
  | .quant sf df n => (spanBytes sf n, 0, spanBytes df n)
  | .gather => (0, 4 * cpCount c, cpCount c * 2 ^ cmdB c 6 1)
  | .scatter => (cpCount c * 2 ^ cmdB c 6 1, 4 * cpCount c, 0)
  | .fill => (0, 0, cpCount c)

/-- A format whose elements are converted one by one. -/
def elemFmt (t : Nat) : Bool := (1 ≤ t && t ≤ 8) || (0x0A ≤ t && t ≤ 0x10)

/-- The limits of CONV. -/
def convPlan (sf df n : Nat) : Option CopyPlan :=
  if !(elemFmt sf || isBlock sf) || !elemFmt df || (isBlock sf && n % 32 != 0) then none else some (.conv sf df n)

/-- The plan of a copy command, its formats and addresses judged; none where it is malformed. DEDUCED (log 32): unsafe. -/
def State.copyForm (s : State) (cid : Nat) (c : W512) : Option CopyPlan :=
  let op := cmdOp c
  let move := op == 0x13 || op == 0x14
  let n := cpCount c
  if headerBad c (op == 0x10 || op == 0x11 || op == 0x12) || cmdB c 56 8 != 0 || cmdB c 36 4 != 0 || cmdB c 7 9 != 0 ||
      (if move then 12 < cmdB c 6 1 else cmdB c 6 1 != 0) || 32 ≤ cmdB c 4 1 || 32 ≤ cmdB c 5 1 ||
      (op != 0x11 && op != 0x12 && cmdB c 4 2 != 0) || (op != 0x15 && !move && cpAux c != 0) || (op == 0x15 && cpSrc c != 0) ||
      addrBad (s.jobEa cid (cpDst c)) || (op != 0x15 && addrBad (s.jobEa cid (cpSrc c))) || (move && addrBad (s.jobEa cid (cpAux c))) then none
  else if op == 0x15 then some .fill
  else if op == 0x13 then some .gather
  else if op == 0x14 then some .scatter
  else match pickFmt (s.regionAt cid (cpSrc c)) (cmdB c 4 1), pickFmt (s.regionAt cid (cpDst c)) (cmdB c 5 1) with
    | some sf, some df =>
      if op == 0x10 then
        if sf == 0 || df == 0 || sf == df then (if cmdRm c != 0 || cmdSat c then none else some .bytes)
        else
          let w := inBytes sf
          if n % w != 0 then none else convPlan sf df (n / w * (if isBlock sf then 32 else 1))
      else if op == 0x11 then convPlan sf df n
      else if !(0x0B ≤ sf && sf ≤ 0x0D) || !isBlock df || n % 32 != 0 then none
      else some (.quant sf df n)
    | _, _ => none

/-- The plan of a copy command; none where it is malformed, a range that meets the control space among the reasons (R274, R369).
DEDUCED (log 32): unsafe. -/
def State.copyPlan (s : State) (cid : Nat) (c : W512) : Option CopyPlan :=
  match s.copyForm cid c with
  | none => none
  | some p =>
    let n := p.spans c
    if ctlRange (s.jobEa cid (cpSrc c)) n.1 || ctlRange (s.jobEa cid (cpAux c)) n.2.1 || ctlRange (s.jobEa cid (cpDst c)) n.2.2 then none else some p

/-- A command to a cluster's queue is malformed at acceptance. -/
def State.jobBad (s : State) (cid : Nat) (c : W512) : Bool :=
  if isMatrixOp (cmdOp c) then s.matrixBad cid c
  else if isCopyOp (cmdOp c) then (s.copyPlan cid c).isNone
  else true

/-! ## Acceptance (R269, R273, R280) -/

/-- The history of a core with a job added; the 64 most recent are kept. -/
def Core.addJob (c : Core) (h : JobHist) : Core :=
  let l := c.jobs ++ [h]
  { c with jobs := l.drop (l.length - 64), nextJob := c.nextJob + 1 }

/-- The history entry of a job changed, while the history still holds it. -/
def Core.modJob (c : Core) (j : Job) (f : JobHist → JobHist) : Core :=
  { c with jobs := c.jobs.map fun h => if h.jid == j.jid && h.seq == j.seq then f h else h }

/-- JOBL set in every slot of a core. DEDUCED (log 58): unsafe. -/
def Core.raiseJobl (c : Core) : Core := { c with slots := c.slots.map fun sl => { sl with jobl := true } }

/-- The requests and multicasts that a job's acquire waits for, after the slot's dirty lines have been written back. -/
def State.acqList (s : State) (cid k : Nat) : List Nat × State :=
  let s1 := s.l1Sweep cid none (fun l => relLine (s.core cid).fused cid k l && !l.loose) false
  (((s1.reqs.filter fun r => (r.isOf cid k || r.by_.contains (cid, k)) && r.op.isStore && r.attr.ord != 2).map (·.id)) ++
   ((s1.accs.filter fun a => a.cid == cid && a.slot == k && !a.isLoad && !a.chk && !a.acq).map (·.gid)), s1)

/-- A number of an engine or a window is that of an S-die's. -/
def isColl (eng : Nat) : Bool := eng == 8192 || eng == 8193

/-- The address of a window's SUBMIT. -/
def winEa (win : Nat) : W64 :=
  packFields 64 [(63, 1, 1), (53, 10, 0x3FF), (0, 53, if !isColl win then ctlBase + 128 * (win % 8192) else ctlBase + 0x1000000 + 128 * (win - 8192))]

/-- A job enters a queue: a cluster's, or a collective engine's. -/
def State.enqueueJob (s : State) (win : Nat) (j : Job) : State :=
  if !isColl win then s.setCluster win { s.cluster win with queue := (s.cluster win).queue ++ [j] }
  else { s with colls := vset s.colls (win - 8192) (vget s.colls (win - 8192) [] ++ [j]) }

/-- A command accepted for a slot, whose CLK it has raised: its job id, its history entry, and its place in the queue. A malformed
command is done at once. DEDUCED (log 58): unsafe. -/
def State.takeJob (s : State) (win cid k : Nat) (bad : Bool) (j : Job) : State :=
  let id := (s.core cid).nextJob
  let h : JobHist := if bad then { jid := id, state := 2, status := 5, seq := s.nextId } else { jid := id, seq := s.nextId }
  let s1 := { s with nextId := s.nextId + 1 }.modCore cid fun c => let c1 := c.addJob h; if bad then c1.raiseJobl else c1
  if bad then s1
  else
    let (ids, s2) := if cmdAcq j.cmd then s1.acqList cid k else ([], s1)
    s2.enqueueJob win { j with jid := id, acqIds := ids, seq := s.nextId }

/-- What a slot's command records. -/
def State.newJob (s : State) (cid k : Nat) (sl : Slot) (c : W512) : Job :=
  { cid := cid, slot := k, did := sl.did, lid := s.lidOf cid, ctx := s.ctxOf cid, pc := sl.pc, clk := sl.clk, cmd := c
    vecs := if (cmdVecs c).isEmpty then [] else (List.range 32).map fun i => (vget sl.v i {}).val
    hzn := sl.hzn, hznUse := sl.hznUse, hznev := sl.hznev, gen := sl.gen
    seed := if cmdB c 48 8 == 0 then 1 else BitVec.ofNat 64 (cmdB c 48 8) }

/-- A stalled STV of a slot has every register that it reads. -/
def State.subReady (s : State) (cid k : Nat) : Bool :=
  let sl := s.slotAt cid k
  match sl.run with
  | .sleeping (.submit _ d _ _ _ _) =>
    let vs := cmdVecs (sl.readV d).val
    !(vs.any (fun r => (sl.readV r).pending) || (sl.readV d).pending)
  | _ => false

/-- A stalled STV of a slot is accepted: none while it waits for a register, or a fault of one is taken instead (R20, R280). -/
def State.acceptFrom (s : State) (win cid k : Nat) (bad : W512 → Bool) : Option State :=
  let sl := s.slotAt cid k
  match sl.run with
  | .sleeping (.submit w d len clr warn inc) =>
    let c := (sl.readV d).val
    let vs := cmdVecs c
    if w != win || !s.subReady cid k then none
    else if (sl.readV d).bad || vs.any (fun r => (sl.readV r).bad) then
      some ((s.modSlot cid k fun x => { x with run := .running }).freeze cid k { cause := cUNCORR })
    else if vs.any (fun r => (sl.readV r).expired != 0) then
      some ((s.modSlot cid k fun x => { x with run := .running }).preciseFault cid k { cause := cEXPIRED })
    else
      let b := bad c
      let sl0 := { sl with mbp := sl.mbp &&& ~~~clr, warn := sl.warn ||| warn, run := .running }
      let sl1 := if inc then sl0.incClk else sl0
      let sl2 := if cmdRel c && !b then sl1.incClk else sl1
      let j := s.newJob cid k sl2 c
      let s1 := s.takeJob win cid k b j
      let s2 := if sl.isRoot then s1.addRoot (s.ctxOf cid) sl.did { job := some j, win := win } (if isColl win then 2 else 1) 0 (winEa win) (bytesOf c 64)
        else s1
      some (s2.retire cid k { sl2 with jobl := (s2.slotAt cid k).jobl } len none)
  | _ => none

/-- Cores with an STV stalled at a window, with the slot. -/
def State.submitters (s : State) (win : Nat) : List (Nat × Nat) :=
  s.cores.flatMap fun p => if s.frozen p.1 then [] else [0, 1, 2, 3].filterMap fun k => match (p.2.slot k).run with
    | .sleeping (.submit w _ _ _ _ _) => if w == win then some (p.1, k) else none
    | _ => none

/-- The submission accepted next of those that have their registers: round robin by cluster core index after the core accepted last,
and a core's own in the order of its memory pipeline; an S-die takes them in that order (R269, R305). -/
def State.nextSubmit (s : State) (win : Nat) : Option (Nat × Nat) :=
  let rr (cid : Nat) : Nat := if isColl win then 0 else (coreIndex cid + 8 - ((s.cluster win).lastAcc + 1) % 8) % 8
  argMin (fun (w : Nat × Nat) => rr w.1 * (s.nextId + 1) + (s.slotAt w.1 w.2).seq) ((s.submitters win).filter fun w => s.subReady w.1 w.2)

/-! ## Completion (R271, R276, R289, R290) -/

/-- A job's release, as a JWAIT learns it: statuses OK, TILE_BUSY and FAULT perform it. -/
def Job.relInfo (j : Job) (st : BitVec 8) : Option (BitVec 18 × BitVec 32 × BitVec 3) :=
  if cmdRel j.cmd && st.toNat ≤ 2 then some (identOf j.cid j.slot, j.clk, BitVec.ofNat 3 (cmdScope j.cmd)) else none

/-- A job recorded as done in its core's history. -/
def State.jobDone (s : State) (j : Job) (st : BitVec 8) : State :=
  s.modCore j.cid fun c => (c.modJob j fun h =>
    { h with state := 2, status := st, bytes := BitVec.ofNat 32 j.bytes, rel := j.relInfo st }).raiseJobl

/-- Two entries are one job. -/
def Job.same (a b : Job) : Bool := a.cid == b.cid && a.jid == b.jid && a.seq == b.seq

/-- A job of an engine replaced; the history shows that it runs and the bytes it has completed. -/
def State.putJob (s : State) (eng : Nat) (j : Job) : State :=
  let f (l : List Job) : List Job := replaceFirst j.same (fun _ => j) l
  let s1 := if !isColl eng then s.setCluster eng { s.cluster eng with queue := f (s.cluster eng).queue }
    else { s with colls := vset s.colls (eng - 8192) (f (vget s.colls (eng - 8192) [])) }
  s1.modCore j.cid fun c => c.modJob j fun h => if h.state == 2 then h else
    { h with state := if j.running then 1 else 0, bytes := BitVec.ofNat 32 j.bytes }

def State.engineJobs (s : State) (eng : Nat) : List Job := if !isColl eng then (s.cluster eng).queue else vget s.colls (eng - 8192) []

/-- A job taken off its queue. -/
def State.dropJob (s : State) (eng : Nat) (j : Job) : State :=
  let f (l : List Job) : List Job := removeFirst j.same l
  if !isColl eng then s.setCluster eng { s.cluster eng with queue := f (s.cluster eng).queue }
  else { s with colls := vset s.colls (eng - 8192) (f (vget s.colls (eng - 8192) [])) }

/-- What opens each packet of a collective: the status that a member ended with (0: a partial), and its parameters (R307). -/
def collHead (j : Job) (st : BitVec 8) : List W64 :=
  packFields 64 [(0, 8, st.toNat), (8, 8, cmdOp j.cmd), (16, 8, cmdB j.cmd 5 1), (24, 8, cmdB j.cmd 4 1), (32, 32, cmdB j.cmd 12 4)] ::
  packFields 64 [(0, 16, cmdB j.cmd 6 2), (16, 48, j.ctx)] :: j.coll.pkgs.map (BitVec.ofNat 64)

/-- A packet of a collective sent to a member. -/
def State.collSend (s : State) (j : Job) (p : Nat) (st : BitVec 8) (ws : List W64) : State :=
  { s with out := s.out ++ [.partial_ p (BitVec.ofNat 32 (cmdB j.cmd 8 4)) (collHead j st ++ ws)] }

/-- The other members of a collective learn of a member that completes MALFORMED or KILLED (R307, R313). -/
def State.collNotice (s : State) (j : Job) (st : BitVec 8) : State :=
  if j.coll.told || (st != 4 && st != 5) then s
  else ((j.coll.pkgs ++ j.coll.also).eraseDups.filter fun p => p != s.pkg.toNat && p < 993 && !j.coll.heard.contains p).foldl (fun s p => s.collSend j p (j.coll.tell.getD st) []) s

/-- A collective command that was killed before its list was read: the list is read first, so that the other members are told (R312,
R313). -/
def Job.untold (j : Job) : Bool :=
  0x20 ≤ cmdOp j.cmd && cmdOp j.cmd ≤ 0x23 && j.ended == some 4 && !j.coll.listOk && !j.coll.told && j.coll.tell.isNone

/-- JOB_COMPLETE: the job at a place of an engine's queue, whose effect has ended and whose accesses are over, completes. -/
def execJobComplete (eng k : Nat) (s : State) : Res :=
  match (s.engineJobs eng)[k]? with
  | none => .next s
  | some j =>
    match j.ended with
    | none => .next s
    | some st => .next (if j.beat.ids.isEmpty && !j.beat.more && !j.untold then ((s.dropJob eng j).jobDone j st).collNotice j st else s)

/-- Every job of a core accepted before another, of any engine. -/
def State.earlierJob (s : State) (j : Job) : Bool :=
  s.anyJob fun x => x.cid == j.cid && x.seq < j.seq

/-- What a job waits for before its first read has ended (R270, R273). -/
def State.mayStart (s : State) (j : Job) : Bool :=
  !(s.reqs.any (fun r => j.acqIds.contains r.id) || s.accs.any (fun a => j.acqIds.contains a.gid)) && !(cmdAfter j.cmd && s.earlierJob j)

/-- The job that an engine of a cluster runs, or would run next: the first of its kind in acceptance order. -/
def State.current (s : State) (cl : Nat) (kind : Nat → Bool) : Option Job :=
  (s.cluster cl).queue.find? fun j => kind (cmdOp j.cmd)

/-- No other logical cluster's job runs on the engine of a cluster's physical cluster (R270, R363). -/
def State.engineFree (s : State) (cl : Nat) (kind : Nat → Bool) : Bool :=
  s.clusters.all fun p => p.1 == cl || !p.2.queue.any (fun j => j.running && j.ended.isNone && kind (cmdOp j.cmd)) ||
    s.physCluster p.1 != s.physCluster cl

/-- An uncorrectable error in a job's data, or a residue mismatch: charged to its domain; without one the job ends with `st`. -/
def State.jobError (s : State) (eng : Nat) (j : Job) (st : BitVec 8) : State :=
  (s.putJob eng { j with ended := some st }).chargeDom j.ctx j.did

/-! ## Accesses of engines (R274, R289, R338, R475) -/

/-- What a request of a job carries. -/
def engineReq (j : Job) (reft : W64) : Req :=
  { cid := j.cid, slot := 8 + j.slot, lid := j.lid, ctx := j.ctx, pc := j.pc, did := j.did, since := reft, gen := j.gen
    hzn := j.hzn, hznev := j.hznev, stamp := j.clk, remote := false }

/-- The stage at which a request of an address begins. -/
def firstStage (ea : W64) : Stage :=
  match placeOf ea with
  | .localMem none _ _ _ _ => .core
  | .virt none _ => .walk
  | _ => .fabric

/-- Requests of a job for the lines of a range: reads, or writes of some bytes. They are one access, all of whose parts are checked
before one performs (R338). -/
def State.engineAsk (s : State) (j : Job) (ea : W64) (n : Nat) (wr : Option (List Byte)) : List Nat × State :=
  (lineParts ea n).foldl (fun (a : List Nat × State) p =>
    let r0 := { engineReq j s.reft with grp := s.nextId, logs := s.raceLogs j.ctx }
    let r : Req := match wr with
      | none => { r0 with op := .load, ea := p.ea, n := p.len, stage := if addrBad p.ea then .refused xWINDOW else firstStage p.ea }
      | some bs =>
        let x := ({ p with off := 0 } : Piece).inLine (ofBytes 512 ((bs.drop p.off).take p.len))
        { r0 with op := .store, ea := p.ea, n := p.len, data := x.1, mask := x.2
                  stage := if addrBad p.ea then .refused sfWINDOW else firstStage p.ea }
    (a.1 ++ [a.2.nextId], a.2.addReq r)) ([], s)

/-- What has become of a job's requests: some still under way, one refused with a cause (for a race the one that met it), or all
done. -/
inductive Asked where
  | open_
  | refused (r : Req) (cause : BitVec 8)
  | done (bs : List Byte)

/-- The bytes of a finished read; bytes marked as expired have no stated value. -/
def reqBytes (fresh : Nat) (r : Req) : List Byte :=
  let sh := r.ea.toNat % 64
  (List.range r.n).map fun i => if r.mask.getLsbD (sh + i) then Config.lostByte fresh (sh + i) else (r.data >>> (8 * (sh + i))).extractLsb' 0 8

def State.askedOf (s : State) (ids : List Nat) : Asked :=
  let rs := ids.filterMap s.reqAt
  let no (own : Bool) : Option (Req × BitVec 8) := rs.findSome? fun r => match r.stage with
    | .refused c => if own && c == sfRACE && r.race.isNone then none else some (r, c)
    | _ => none
  if rs.any Req.open? then .open_
  else match (no true).or (no false) with
    | some (r, c) => .refused r c
    | none => .done (rs.flatMap (reqBytes s.fresh))

/-- A job's requests taken off. -/
def State.dropAsked (s : State) (ids : List Nat) : State :=
  { s with reqs := s.reqs.filter (fun r => !ids.contains r.id), fresh := s.fresh + 1 }

/-- A job's write is confined to the output set of its domain. -/
def State.jobConfined (s : State) (j : Job) (ea : W64) (n : Nat) : Bool := ea.getLsbD 63 && !s.admits j.ctx j.did ea n

/-- CAUSE of the software interrupt for a refusal, or none where the job ends MALFORMED (R289, R290). DEDUCED (log 33): unsafe.
-/
def faultCause (write : Bool) (c : BitVec 8) : Option Nat :=
  if c == sfMIGFULL then some 3
  else if write then
    (if c == sfNOTPRESENT || c == sfBADXLATE then some 1 else if c == sfPERM then some 2 else if c == sfUNREACH then some 4 else none)
  else if c == xNOTPRESENT || c == xMALFORMED || c == xBADFRAME || c == xNOCTX then some 1
  else if c == xUNREACH || c == sfUNREACH then some 4
  else none

/-- The payload of the software interrupt. -/
def interruptPayload (j : Job) (cause : Nat) (faddr : W64) : List Byte :=
  bytesOf (packFields 256 [(0, 16, j.jid.toNat), (16, 8, cmdOp j.cmd), (24, 8, cause), (64, 64, faddr.toNat), (128, 32, j.bytes)]) 32 ++
  bytesOf j.cmd 64

/-- The software interrupt of a job: a message to channel 31 of the submitting core, held by the engine until it is accepted. -/
def State.interrupt (s : State) (j : Job) (cause : Nat) (faddr : W64) : State :=
  let m : Msg :=
    { mid := s.nextId, cid := j.cid, origin := 3, spkg := s.pkg, score := BitVec.ofNat 16 (coreNo j.cid), sslot := BitVec.ofNat 2 j.slot
      lid := j.lid, ctx := j.ctx, pc := j.pc, addr := coreAddr (coreNo j.cid) 31, payload := interruptPayload j cause faddr
      sent := s.reft, sclk := j.clk, scope := BitVec.ofNat 3 (if cmdRel j.cmd then cmdScope j.cmd else scCORE), did := j.did
      inFlight := true }
  let cl := s.clusterId j.cid
  let c := s.cluster cl
  if isSvc j.cid then
    (s.modCore j.cid fun c => { c with engineLost := ofBytes 768 m.payload }).freeze j.cid j.slot { cause := cENGINE_LOST }
  else { s.setCluster cl { c with held := c.held ++ [m] } with nextId := s.nextId + 1, msgs := s.msgs ++ [m] }

/-- A job stops at a refused access. -/
def State.jobRefused (s : State) (eng : Nat) (j : Job) (r : Req) (c : BitVec 8) : State :=
  let s0 := s.dropAsked j.beat.ids
  let j0 := { j with beat := {} }
  let wr := r.op.isStore
  if c == sfRACE then
    let t : Trap := { cause := cRACE, addr := r.ea, race := r.race }
    ((s0.putJob eng { j0 with ended := some (j.ended.getD 4) }).freeze j.cid j.slot t)
  else if c == sfUNCORR then s0.jobError eng j0 4
  else match faultCause wr c with
    | some k => (s0.putJob eng { j0 with ended := some (j.ended.getD 2) }).interrupt j k r.ea
    | none => s0.putJob eng { j0 with ended := some (j.ended.getD 5) }

/-! ## JOB_ACCEPT -/

/-- The command of S-die collectives is malformed at acceptance (R305, R306, R311, R312). DEDUCED (log 33): unsafe. -/
def State.collBad (s : State) (cid : Nat) (c : W512) : Bool :=
  let op := cmdOp c
  let ea (i : Nat) : W64 := s.jobEa cid (BitVec.ofNat 64 (cmdB c i 8))
  let far (i n : Nat) : Bool := !(ea i).getLsbD 63 || fld (ea i) 53 10 != 0x3FF || ctlRange (ea i) n
  if headerBad c false then true
  else if 0x20 ≤ op && op ≤ 0x23 then
    let f := cmdB c 5 1
    let all := cmdB c 12 4 * tyBytes f
    fld c 33 1 != 0 || fld c 36 4 != 0 || fld c 34 2 == 3 || !(f == 3 || f == 4 || (0x0B ≤ f && f ≤ 0x0D)) ||
    cmdB c 6 2 == 0 || 993 < cmdB c 6 2 || cmdB c 12 4 == 0 || far 16 (if op == 0x22 then 1 else all) ||
    far 32 (2 * cmdB c 6 2) || (if op == 0x21 then far 24 1 else if op == 0x22 then far 24 all else cmdB c 24 8 != 0) ||
    (cmdB c 40 8 != 0 && (far 40 8 || cmdB c 40 8 % 8 != 0)) || (cmdB c 56 8 != 0 && far 56 8) ||
    s.colls.toList.any (fun l => l.any fun j => 0x20 ≤ cmdOp j.cmd && cmdOp j.cmd ≤ 0x23 && j.ctx == s.ctxOf cid && cmdB j.cmd 8 4 == cmdB c 8 4)
  else if op == 0x24 then
    let w := cmdB c 4 1
    cmdB c 12 52 != 0 || cmdB c 6 2 != 0 || w % 16 == 0 || w / 16 == 0 || cmdB c 5 1 == 0 || 16 < cmdB c 5 1
  else if op == 0x25 then cmdB c 5 59 != 0 || 2 ≤ cmdB c 4 1
  else true

/-- JOB_ACCEPT: one STV stalled at a window is accepted while an entry is free: of a cluster's cores in turn. -/
def execJobAccept (win : Nat) (s : State) : Res :=
  match (if (if isColl win then s.cqFree (win - 8192) else s.jqFree win) == 0 then none else s.nextSubmit win) with
  | none => .next s
  | some (cid, k) =>
    match s.acceptFrom win cid k (if isColl win then s.collBad cid else s.jobBad cid) with
    | none => .next s
    | some s1 => .next (if isColl win then s1 else s1.setCluster win { s1.cluster win with lastAcc := coreIndex cid })

end Sys2Proof.Machine
end

