-- ==== Sys2Proof/Machine/Matrix.lean ====
section
/-! DEFINITION. The matrix engine: tiles with residues, MMA, MZERO, MLOAD, MSTORE, MTCFG and MTREL, power tokens, and the tiles of
logical clusters that share a physical one (R66, R275 to R285, R290, R363). -/
namespace Sys2Proof.Machine

/-! ## Tiles (R275, R276, R278) -/

def Tile.word (t : Tile) (i j : Nat) : BitVec 32 := tblGetD t.words (16 * i + j) 0
def Tile.residue (t : Tile) (i j : Nat) : BitVec 2 := tblGetD t.residues (16 * i + j) 0

/-- A word written, with its residue. -/
def Tile.put (t : Tile) (i j : Nat) (x : BitVec 32) : Tile :=
  { t with words := tblSet (16 * i + j) x t.words, residues := tblSet (16 * i + j) (BitVec.ofNat 2 (x.toNat % 3)) t.residues }

def Tile.zero (t : Tile) : Tile := { t with words := [], residues := [] }

/-- The selected words of masks, in increasing row and column. -/
def selected (mm nm : Nat) : List (Nat × Nat) := (maskRows mm).flatMap fun i => (maskRows nm).map fun j => (i, j)

def cmdSel (c : W512) : List (Nat × Nat) := selected (cmdB c 8 2) (cmdB c 10 2)

/-- The residues of the selected words hold. -/
def Tile.sound (t : Tile) (sel : List (Nat × Nat)) : Bool := sel.all fun x => (t.residue x.1 x.2).toNat == (t.word x.1 x.2).toNat % 3

/-- WARN.TILEREL in a job's slot when it reads words of a released tile (R278). -/
def State.tileRead (s : State) (j : Job) (t : Tile) : State :=
  if t.released && !(cmdSel j.cmd).isEmpty then s.modSlot j.cid j.slot fun sl => sl.addWarn wTILEREL else s

/-! ## Tiles of shared physical clusters (R363) -/

/-- The address of a logical cluster's save record: its index within its launch's rectangle. -/
def Launch.saveAt (l : Launch) (saveb : W64) (core : Nat) : W64 :=
  let i := (gblY core - l.oy) / 2 * max 1 (l.w / 4) + (gblX core - l.ox) / 4
  saveb + BitVec.ofNat 64 (20480 * i)

/-- The first core of a logical cluster. -/
def clusterCorner (cl : Nat) : Nat := cl % 8192 / 512 * 4096 + (cl % 512 / 16 * 2) * 64 + cl % 16 * 4

/-- The 20 KiB record of 16 tiles. -/
def tileBytes (cl : Cluster) : List Byte :=
  let ts := (List.range 16).map cl.tile
  let at2 (n : Nat) : Nat × Nat := (n / 16, n % 16)
  (ts.flatMap fun t => (List.range 256).flatMap fun n => bytesOf (t.word (at2 n).1 (at2 n).2) 4) ++
  (ts.flatMap fun t => (List.range 64).map fun b => packFields 8 ((List.range 4).map fun q =>
    (2 * q, 2, (t.residue (at2 (4 * b + q)).1 (at2 (4 * b + q)).2).toNat))) ++
  bytesOf (packFields 16 ((List.range 16).map fun t => (t, 1, b2n (cl.tile t).released))) 2 ++
  bytesOf (packFields 64 ((List.range 16).map fun t => (4 * t, 4, (cl.tile t).owner.toNat))) 8 ++ List.replicate 3062 0

/-- Tiles read back from a record. -/
def tilesFrom (bs : List Byte) : Vector Tile 16 :=
  Vector.ofFn fun t =>
    let w (n : Nat) : BitVec 32 := ofBytes 32 ((bs.drop (0x400 * t.val + 4 * n)).take 4)
    let r (n : Nat) : BitVec 2 := BitVec.ofNat 2 (((bs.getD (0x4000 + 64 * t.val + n / 4) 0).toNat) / 4 ^ (n % 4))
    { words := (List.range 256).filterMap fun n => if w n == 0 then none else some (n, w n)
      residues := (List.range 256).filterMap fun n => if r n == 0 then none else some (n, r n)
      owner := BitVec.ofNat 3 ((bs.getD (0x4402 + t.val / 2) 0).toNat / 16 ^ (t.val % 2))
      released := (bs.getD (0x4400 + t.val / 8) 0).getLsbD (t.val % 8) }

/-- A core's logical cluster has its tiles in the physical cluster that holds the core, not in its save record. -/
def State.tilesHere (s : State) (cid : Nat) : Bool :=
  let me := s.clusterId cid
  me < 8192 || (s.cluster (clusterOf (s.core cid).phys)).resident.contains me

/-- A job of a logical cluster whose tiles its physical cluster does not hold: the resident tiles go to their record, its own come
from theirs. DEDUCED (log 32): unsafe. -/
def State.swapTiles (s : State) (j : Job) : State :=
  match s.launches.find? fun l => l.lid == j.lid with
  | none => s
  | some l =>
    let me := s.clusterId j.cid
    let ph := clusterOf (s.core j.cid).phys
    if s.tilesHere j.cid then s
    else
      let saveb := (s.ctx l.ctx).saveb
      let old := (s.cluster ph).resident.find? fun c => c / 8192 == me / 8192
      let s0 := match old with
        | some c => s.vaWrite l.ctx (l.saveAt saveb (clusterCorner c)) (tileBytes (s.cluster c))
        | none => s
      let s1 := s0.vaTouches l.ctx (l.saveAt saveb (clusterCorner me)) 20480
      let s2 := s1.setCluster me { s1.cluster me with tiles := tilesFrom (s1.vaRead l.ctx (l.saveAt saveb (clusterCorner me)) 20480) }
      let p := s2.cluster ph
      s2.setCluster ph { p with resident := p.resident.filter (fun c => c / 8192 != me / 8192) ++ [me] }

/-! ## Power tokens (R284) -/

/-- Tokens that MMAs of a die hold. -/
def State.tokensHeld (s : State) (die : Nat) : Nat :=
  (s.clusters.filter fun p => s.physCluster p.1 / 512 == die && p.2.queue.any (·.token)).length

def State.tokenFree (s : State) (die : Nat) : Bool := s.tokensHeld die < (s.die die).tokens

/-! ## Operand rows (R279, R280) -/

/-- What an engine's read of local memory gives. -/
inductive EngRead where
  | ok (bs : List Byte)
  | refused
  | bad

/-- Bytes of a cluster core's local memory read by a job; bytes marked as expired have no stated value. DESIGN CHOICE (log 5):
safe. -/
def State.engineRead (s : State) (j : Job) (core off n : Nat) : EngRead :=
  let cid := s.clusterCore j.cid core
  if !(s.core cid).admits? false j.lid off n false false then .refused
  else if errIn s.errs (lmKey cid off) n 8 true then .bad
  else .ok (((s.lmRead cid off n).zip (List.range n)).map fun x => if s.lmExpired cid (off + x.2) then Config.lostByte s.fresh (off + x.2) else x.1)

/-- The elements of an operand row. -/
def rowElems (t : Nat) (bs : List Byte) : List FVal :=
  match mmaClass t with
  | none => []
  | some k =>
    if isBlock t then (List.range k.1).map fun n => decodeBlock t ((bs.drop (n / 32 * blockBytes t)).take (blockBytes t)) (n % 32)
    else (List.range k.1).map fun n => decodeF t (leNat ((bs.drop (n * tyBytes t)).take (tyBytes t)))

/-- A row of an operand in a K step. -/
def State.operandRow (s : State) (j : Job) (o : MmaOp) (r st : Nat) : EngRead :=
  match o.vec with
  | some vb => .ok (bytesOf (j.vecs.getD (vb + r) 0) 64)
  | none => s.engineRead j o.desc.core (o.desc.row r st).toNat (((mmaClass o.fmt).map (·.2.2)).getD 64)

/-- Rows of an operand by number, or what stopped the reading. -/
def State.operandRows (s : State) (j : Job) (o : MmaOp) (st : Nat) : List Nat → Except EngRead (Tbl (List FVal))
  | [] => .ok []
  | r :: rs =>
    match s.operandRow j o r st with
    | .ok bs =>
      match s.operandRows j o st rs with
      | .ok t => .ok ((r, rowElems o.fmt bs) :: t)
      | .error e => .error e
    | e => .error e

/-! ## The arithmetic of R66 -/

/-- The exact sum of the products of a group. DEDUCED (log 32): unsafe. -/
def groupSum : List (FVal × FVal) → FVal
  | [] => .fin false 0 0 false
  | (a, b) :: rest => rest.foldl (fun acc p => (addF false acc (mulF p.1 p.2).1).1) (mulF a b).1

/-- A tile word after one group. -/
def groupAcc (acc : BitVec 32) (g : List (FVal × FVal)) : BitVec 32 :=
  let r := (roundF 0x0B 0 false false 0 (groupSum g)).bits
  BitVec.ofNat 32 (roundF 0x0B 0 false false 0 (addF false (decodeF 0x0B acc.toNat) (decodeF 0x0B r)).1).bits

/-- A tile word after a K step's groups of `g` elements. -/
def stepAcc (g : Nat) (a b : List FVal) (acc : BitVec 32) : BitVec 32 :=
  let ps := a.zip b
  (List.range (ps.length / g)).foldl (fun acc n => groupAcc acc ((ps.drop (n * g)).take g)) acc

/-! ## Running (R270, R283, R290) -/

/-- The matrix job that may run now on a cluster: the first of the queue, started. -/
def State.matrixJob (s : State) (cl op : Nat) : Option Job :=
  match s.current cl isMatrixOp with
  | none => none
  | some j =>
    if cmdOp j.cmd != op || j.ended.isSome || !s.dieRuns (s.physCluster cl / 512) || !(j.running || s.mayStart j && s.engineFree cl isMatrixOp) then none
    else some { j with running := true }

/-- A stopped matrix job. -/
def State.matrixStop (s : State) (cl : Nat) (j : Job) (e : EngRead) : State :=
  let j1 := { j with token := false }
  match e with
  | .bad => s.jobError cl j1 4
  | _ => s.putJob cl { j1 with ended := some 5 }

/-- A tile replaced in a cluster. -/
def State.putTile (s : State) (cl t : Nat) (x : Tile) : State := s.setCluster cl ((s.cluster cl).setTile t x)

/-- One K step of an MMA over the selected words. -/
def mmaStep (g : Nat) (t : Tile) (a b : Tbl (List FVal)) (sel : List (Nat × Nat)) : Tile :=
  sel.foldl (fun t x => t.put x.1 x.2 (stepAcc g (tblGetD a x.1 []) (tblGetD b x.2 []) (t.word x.1 x.2))) t

/-- The corrected errors that reading rows of an operand meets are counted (R250). -/
def State.countRows (s : State) (j : Job) (o : MmaOp) (st : Nat) (rows : List Nat) : State :=
  if o.vec.isSome then s
  else rows.foldl (fun s r => s.countCorr (s.clusterCore j.cid o.desc.core) (o.desc.row r st).toNat (((mmaClass o.fmt).map (·.2.2)).getD 64)) s

/-- MMA: the engine captures a token and checks the residues, then runs one K step. -/
def execMma (cl : Nat) (s : State) : Res :=
  match s.matrixJob cl 1 with
  | none => .next s
  | some j =>
    let d := s.physCluster cl / 512
    if !j.token && !s.tokenFree d then .next s
    else
      let s0 := if j.pos == 0 then s.swapTiles j else s
      let c := j.cmd
      let ti := fld c 32 4
      let sel := cmdSel c
      let t := (s0.cluster cl).tile ti
      let s1 := if j.pos == 0 then s0.tileRead j t else s0
      if j.pos == 0 && !t.sound sel then .next (s1.jobError cl { j with token := false } 3)
      else match s0.mmaOps j.cid c with
        | none => .next (s0.putJob cl { j with ended := some 5, token := false })
        | some (a, b) =>
          let rows := if sel.isEmpty then [] else maskRows (cmdB c 8 2)
          let cols := if sel.isEmpty then [] else maskRows (cmdB c 10 2)
          match s1.operandRows j a j.pos rows, s1.operandRows j b j.pos cols with
          | .error e, _ => .next (s1.matrixStop cl j e)
          | .ok _, .error e => .next (s1.matrixStop cl j e)
          | .ok ra, .ok rb =>
            let g := ((mmaClass a.fmt).map (·.2.1)).getD 8
            let s2 := ((s1.countRows j a j.pos rows).countRows j b j.pos cols).putTile cl ti { mmaStep g t ra rb sel with released := t.released && sel.isEmpty }
            let last := j.pos == cmdB c 5 1
            .next { s2.putJob cl { j with pos := j.pos + 1, token := !last, ended := if last then some 0 else none } with fresh := s2.fresh + 1 }

/-- A whole-tile command: an effect on every named tile. -/
def State.eachTile (s : State) (cl : Nat) (c : W512) (f : Tile → Tile) : State :=
  (maskRows (cmdTiles c)).foldl (fun s t => s.putTile cl t (f ((s.cluster cl).tile t))) s

/-- MZERO. -/
def execMzero (cl : Nat) (s : State) : Res :=
  match s.matrixJob cl 2 with
  | none => .next s
  | some j =>
    let s1 := (s.swapTiles j).eachTile cl j.cmd fun t => { t.zero with released := false }
    .next (s1.putJob cl { j with ended := some 0 })

/-- MTREL. -/
def execMtrel (cl : Nat) (s : State) : Res :=
  match s.matrixJob cl 6 with
  | none => .next s
  | some j =>
    let s1 := (s.swapTiles j).eachTile cl j.cmd fun t => { t.zero with released := true }
    .next (s1.putJob cl { j with ended := some 0 })

/-- MTCFG: refused while another job names a tile that is not released. -/
def execMtcfg (cl : Nat) (s : State) : Res :=
  match s.matrixJob cl 5 with
  | none => .next s
  | some j =>
    let s0 := s.swapTiles j
    let named := maskRows (cmdTiles j.cmd)
    let busy := named.any fun t => !((s0.cluster cl).tile t).released &&
      (s0.cluster cl).queue.any fun x => !x.same j && x.ended.isNone && (cmdTiles x.cmd).testBit t
    if busy then .next (s0.putJob cl { j with ended := some 1 })
    else
      let s1 := s0.eachTile cl j.cmd fun t => { t.zero with released := false, owner := BitVec.ofNat 3 (fld j.cmd 48 4) }
      .next (s1.putJob cl { j with ended := some 0 })

/-- The format of an MLOAD's or MSTORE's row words. -/
def State.rowFmt (s : State) (j : Job) : Nat :=
  (pickFmt ((s.core (s.clusterCore j.cid (cmdDesc j.cmd 16).core)).formatAt (cmdDesc j.cmd 16).base) (cmdB j.cmd 5 1)).getD 0

/-- The columns selected in a row. -/
def cmdCols (c : W512) (i : Nat) : List Nat := if (cmdB c 8 2).testBit i then maskRows (cmdB c 10 2) else []

/-- MLOAD's words of one row. -/
def State.loadRow (s : State) (j : Job) (fmt i : Nat) (t : Tile) : List Nat → Except EngRead Tile
  | [] => .ok t
  | k :: ks =>
    let w := tyBytes fmt
    match s.engineRead j (cmdDesc j.cmd 16).core (((cmdDesc j.cmd 16).row i 0).toNat + k * w) w with
    | .ok bs => s.loadRow j fmt i (t.put i k (BitVec.ofNat 32 (roundF 0x0B 0 false false 0 (decodeF fmt (leNat bs))).bits)) ks
    | e => .error e

/-- MLOAD: one tile row. -/
def execMload (cl : Nat) (s : State) : Res :=
  match s.matrixJob cl 3 with
  | none => .next s
  | some j =>
    let s0 := if j.pos == 0 then s.swapTiles j else s
    let ti := fld j.cmd 32 4
    match s0.loadRow j (s0.rowFmt j) j.pos ((s0.cluster cl).tile ti) (cmdCols j.cmd j.pos) with
    | .error e => .next (s0.matrixStop cl j e)
    | .ok t =>
      let d := cmdDesc j.cmd 16
      let w := tyBytes (s0.rowFmt j)
      let s1 := ((cmdCols j.cmd j.pos).foldl (fun s k => s.countCorr (s.clusterCore j.cid d.core) ((d.row j.pos 0).toNat + k * w) w) s0).putTile cl ti { t with released := t.released && (cmdCols j.cmd j.pos).isEmpty }
      .next { s1.putJob cl { j with pos := j.pos + 1, ended := if j.pos == 15 then some 0 else none } with fresh := s1.fresh + 1 }

/-- MSTORE's words of one row: the sequence of its draws, and the state; an error where the protection unit refuses. -/
def State.storeRow (s : State) (j : Job) (fmt i : Nat) (t : Tile) (seed : W64) : List Nat → Except State (W64 × State)
  | [] => .ok (seed, s)
  | k :: ks =>
    let w := tyBytes fmt
    let cid := s.clusterCore j.cid (cmdDesc j.cmd 16).core
    let off := ((cmdDesc j.cmd 16).row i 0).toNat + k * w
    if !(s.core cid).admits? false j.lid off w true false then .error s
    else
      let r := roundF fmt (cmdRm j.cmd) false (cmdSat j.cmd && satApplies fmt) seed (decodeF 0x0B (t.word i k).toNat)
      (s.lmWrite cid off (leBytes w r.bits)).storeRow j fmt i t r.seed ks

/-- MSTORE: the residues are checked first, then one tile row is written; CLR zeroes the tile at the end. -/
def execMstore (cl : Nat) (s : State) : Res :=
  match s.matrixJob cl 4 with
  | none => .next s
  | some j =>
    let s0 := if j.pos == 0 then s.swapTiles j else s
    let ti := fld j.cmd 32 4
    let t := (s0.cluster cl).tile ti
    if j.pos == 0 && !t.sound (cmdSel j.cmd) then .next (s0.jobError cl j 3)
    else
      let cols := cmdCols j.cmd j.pos
      let s1 := if j.pos == 0 then s0.tileRead j t else s0
      match s1.storeRow j (s1.rowFmt j) j.pos t j.seed cols with
      | .error s2 => .next (s2.putJob cl { j with ended := some 5 })
      | .ok (seed, s2) =>
        let last := j.pos == 15
        let s3 := if last && fld j.cmd 36 1 == 1 then s2.putTile cl ti t.zero else s2
        .next (s3.putJob cl { j with pos := j.pos + 1, seed := seed, bytes := j.bytes + tyBytes (s1.rowFmt j) * cols.length
                                     ended := if last then some 0 else none })

end Sys2Proof.Machine
end

