-- ==== Sys2Proof/Machine/Copy.lean ====
section
/-! DEFINITION. The copy unit: COPY, CONV, QUANT, GATHER, SCATTER and FILL, one destination position at a time (R286 to R290). A
position's reads are asked for, answered, and its writes performed before the next position begins. -/
namespace Sys2Proof.Machine

/-! ## Positions -/

/-- One access of a copy command: an index to read, the range to read, the range to write within a line of 64 bytes or one element,
and the positions that it completes. -/
structure Unit_ where
  index : Option W64
  src   : Option (W64 × Nat)
  dst   : W64
  n     : Nat
  pos   : Nat
  deriving DecidableEq, Repr

def addN (a : W64) (n : Nat) : W64 := a + BitVec.ofNat 64 n

/-- At most `lim`, where that is a limit. -/
def limited (lim n : Nat) : Nat := if lim == 0 then n else min lim n

/-- The bytes of a destination line from an address on. -/
def lineRest (a : W64) : Nat := 64 - a.toNat % 64

/-- The access that a copy job stands at: what lies in one destination line, or the one element or block that runs over its end (R288);
of a QUANT one block, of a GATHER or SCATTER one element, whose lines are one access (R338). A COPY onto bytes that it is yet to read
repeats those before them. None at the end. DEDUCED (log 33): unsafe. -/
def copyUnit (p : CopyPlan) (c : W512) (src dst aux : W64) (pos bytes : Nat) (b : Beat) : Option Unit_ :=
  match p with
  | .bytes =>
    if cpCount c ≤ bytes then none
    else
      let n := limited b.lim (min (cpCount c - bytes) (lineRest (addN dst bytes)))
      let d := (dst - src).toNat
      some ⟨none, some (addN src bytes, if 0 < d && d < n then d else n), addN dst bytes, n, 1⟩
  | .fill =>
    if cpCount c ≤ bytes then none
    else some ⟨none, none, addN dst bytes, min (cpCount c - bytes) (lineRest (addN dst bytes)), 1⟩
  | .conv sf df n =>
    if n ≤ pos then none
    else
      let dst1 := addN dst (pos * tyBytes df)
      let k := limited b.lim (min (n - pos) (max 1 (lineRest dst1 / tyBytes df)))
      let from_ := if isBlock sf then (addN src (pos / 32 * blockBytes sf), ((pos + k - 1) / 32 - pos / 32 + 1) * blockBytes sf)
        else (addN src (pos * tyBytes sf), k * tyBytes sf)
      some ⟨none, some from_, dst1, k * tyBytes df, k⟩
  | .quant sf df n =>
    if n ≤ 32 * pos then none
    else some ⟨none, some (addN src (pos * 32 * tyBytes sf), 32 * tyBytes sf), addN dst (pos * blockBytes df), blockBytes df, 1⟩
  | .gather =>
    if cpCount c ≤ pos then none
    else
      let z : Nat := 2 ^ cmdB c 6 1
      some ⟨some (addN aux (4 * pos)), some (src + BitVec.ofInt 64 (b.idx * (z : Int)), z), addN dst (pos * z), z, 1⟩
  | .scatter =>
    if cpCount c ≤ pos then none
    else
      let z : Nat := 2 ^ cmdB c 6 1
      some ⟨some (addN aux (4 * pos)), some (addN src (pos * z), z), dst + BitVec.ofInt 64 (b.idx * (z : Int)), z, 1⟩

/-- The positions of an access that lie before a byte of its source that cannot be read (R289). -/
def goodBefore (p : CopyPlan) (u : Unit_) (pos : Nat) (ea : W64) : Nat :=
  let off := match u.src with
    | some (a, _) => (ea - a).toNat
    | none => 0
  match p with
  | .bytes => off
  | .conv sf _ _ => if isBlock sf then (pos / 32 + off / blockBytes sf) * 32 - pos else off / tyBytes sf
  | .quant _ _ _ => 0
  | .gather => 0
  | .scatter => 0
  | .fill => 0

/-- A value delivered in an element format by a mode, without flush or flag; with the state of the command's own sequence. -/
def copyElem (dst : Nat) (mode : RMode) (sat : Bool) (seed : W64) (v : FVal) : Nat × W64 :=
  if intFmt dst then
    let r := toIntF (8 * tyBytes dst) (dst ≤ 4) mode seed v
    (truncI (8 * tyBytes dst) r.1, r.2.2)
  else if dst == 0x10 then ((toE8M0 v).1, seedAfter mode seed)
  else
    let r := roundF dst mode false (sat && satApplies dst) seed v
    (r.bits, r.seed)

/-- A converted element, from the bytes that hold it or its block, with the state of the sequence after it. -/
def convOne (c : W512) (sf df k : Nat) (seed : W64) (bs : List Byte) : List Byte × W64 :=
  let x := leNat bs
  if isBlock sf then
    let r := copyElem df (cmdRm c) (cmdSat c) seed (decodeBlock sf bs k)
    (leBytes (tyBytes df) r.1, r.2)
  else if intFmt sf && intFmt df then (leBytes (tyBytes df) (truncI (8 * tyBytes df) (intVal sf x)), seed)
  else
    let r := copyElem df (cmdRm c) (cmdSat c) seed (elemVal sf x)
    (leBytes (tyBytes df) r.1, r.2)

/-- The bytes that an access writes, from the bytes it read. -/
def copyBytes (p : CopyPlan) (c : W512) (u : Unit_) (pos : Nat) (seed : W64) (bs : List Byte) : List Byte × W64 :=
  match p with
  | .conv sf df _ =>
    (List.range u.pos).foldl (fun (a : List Byte × W64) i =>
      let at_ := if isBlock sf then ((pos + i) / 32 - pos / 32) * blockBytes sf else i * tyBytes sf
      let r := convOne c sf df ((pos + i) % 32) a.2 ((bs.drop at_).take (if isBlock sf then blockBytes sf else tyBytes sf))
      (a.1 ++ r.1, r.2)) ([], seed)
  | .quant sf df _ =>
    let w := tyBytes sf
    ((quantise df (cmdSat c) ((List.range 32).map fun k => decodeF sf (leNat ((bs.drop (k * w)).take w)))).1, seed)
  | .fill => ((List.range u.n).map fun b => (cpAux c).extractLsb' (8 * ((u.dst.toNat + b) % 8)) 8, seed)
  | .bytes => ((List.range u.n).map fun b => bs.getD (b % bs.length) 0, seed)
  | .gather => (bs, seed)
  | .scatter => (bs, seed)

/-! ## One move of the copy unit -/

/-- Whether an access ends inside the beat that it began in: 128 bytes of the wider of source and destination (R288, R290). -/
def Job.inBeat (j : Job) (p : CopyPlan) (u : Unit_) : Bool :=
  let same (a n w : Nat) : Bool := a / w == (a + n) / w
  match p with
  | .bytes => j.bytes + u.n < cpCount j.cmd && same u.dst.toNat u.n 128
  | .fill => j.bytes + u.n < cpCount j.cmd && same u.dst.toNat u.n 128
  | .conv sf df n => j.pos + u.pos < n && same u.dst.toNat u.n (128 / max 1 (if isBlock sf then 1 else tyBytes sf / tyBytes df))
  | .quant sf _ n => 32 * (j.pos + 1) < n && same (32 * tyBytes sf * j.pos) (32 * tyBytes sf) 128
  | .gather => j.pos + 1 < cpCount j.cmd && same u.dst.toNat u.n 128
  | .scatter => j.pos + 1 < cpCount j.cmd && same (u.n * j.pos) u.n 128

/-- An access is over: its positions are done. A job that is killed goes on to the end of its beat of 128 bytes (R290). -/
def Job.doneUnit (j : Job) (p : CopyPlan) (u : Unit_) : Job :=
  { j with beat := { more := j.inBeat p u }, pos := j.pos + u.pos, bytes := j.bytes + u.n }

/-- Writes of a position asked for, or the end of the job where they leave its domain's output set. -/
def State.copyWrite (s : State) (cl : Nat) (j : Job) (u : Unit_) (bs : List Byte) : State :=
  if addrBad (s.jobEa j.cid u.dst) || s.jobConfined j u.dst u.n then s.putJob cl { j with beat := {}, ended := some (j.ended.getD 5) }
  else
    let a := s.engineAsk j u.dst u.n (some bs)
    a.2.putJob cl { j with beat := { j.beat with stage := 3, ids := a.1 } }

/-- The reads of a position asked for, or its writes where it reads nothing. -/
def State.copyRead (s : State) (cl : Nat) (j : Job) (p : CopyPlan) (u : Unit_) : State :=
  match u.src with
  | none => s.copyWrite cl j u (copyBytes p j.cmd u j.pos j.seed []).1
  | some (ea, n) =>
    if addrBad (s.jobEa j.cid ea) then s.putJob cl { j with beat := {}, ended := some (j.ended.getD 5) }
    else
      let a := s.engineAsk j (s.jobEa j.cid ea) n none
      a.2.putJob cl { j with beat := { j.beat with stage := 2, ids := a.1 } }

/-- A copy job with its addresses as rewritten. -/
def State.copyAt (s : State) (j : Job) (p : CopyPlan) : Option Unit_ :=
  copyUnit p j.cmd (s.jobEa j.cid (cpSrc j.cmd)) (s.jobEa j.cid (cpDst j.cmd)) (s.jobEa j.cid (cpAux j.cmd)) j.pos j.bytes j.beat

/-- An access of a copy job is refused: the positions before it are done first, one after the other, and then the job stops (R289). -/
def State.copyRefused (s : State) (cl : Nat) (j : Job) (p : CopyPlan) (u : Unit_) (r : Req) (c : BitVec 8) : State :=
  let k := if j.beat.stage == 2 then goodBefore p u j.pos r.ea else 0
  if k == 0 then s.jobRefused cl j r c
  else (s.dropAsked j.beat.ids).putJob cl { j with beat := { j.beat with stage := 0, ids := [], lim := k } }

/-- A killed job's element of more than one beat stops after the beat that it is writing (R290): the lines of the other beats are not
written, and the element is not done. DEDUCED (log 33): unsafe. -/
def State.cutBeat (s : State) (j : Job) (u : Unit_) : State :=
  if j.ended.isNone || u.n ≤ 128 || j.beat.stage != 3 then s
  else
    let mine := j.beat.ids.filterMap s.reqAt
    let begun := (mine.filter fun r => !r.open?).map fun r => r.ea.toNat / 128
    let now := if begun.isEmpty then [u.dst.toNat / 128] else begun
    { s with reqs := s.reqs.filter fun r => !j.beat.ids.contains r.id || now.contains (r.ea.toNat / 128) || r.stage == .fabric }

/-- The copy unit moves on: a position begins, its index or data arrives, or its writes are done. -/
def State.copyMove (s : State) (cl : Nat) (j : Job) (p : CopyPlan) : State :=
  match s.copyAt j p with
  | none => s.putJob cl { j with ended := some (j.ended.getD 0) }
  | some u =>
    if j.beat.stage == 0 then
      if j.ended.isSome && !j.beat.more then s
      else match u.index with
        | some ea =>
          let a := s.engineAsk j ea 4 none
          a.2.putJob cl { j with beat := { stage := 1, ids := a.1 } }
        | none => s.copyRead cl j p u
    else match s.askedOf j.beat.ids with
      | .open_ => s
      | .refused r c => s.copyRefused cl j p u r c
      | .done bs =>
        let s1 := s.dropAsked j.beat.ids
        if j.beat.stage == 1 then
          let j1 := { j with beat := { j.beat with idx := sextN 32 (leNat bs), ids := [] } }
          match s1.copyAt j1 p with
          | some u1 => s1.copyRead cl j1 p u1
          | none => s1
        else if j.beat.stage == 2 then
          let r := copyBytes p j.cmd u j.pos j.seed bs
          s1.copyWrite cl { j with seed := r.2 } u r.1
        else if j.beat.ids.all fun i => (s.reqAt i).isSome then s1.putJob cl (j.doneUnit p u)
        else s1.putJob cl { j with beat := {} }

/-- A move of the copy job at the head of a cluster's queue, if it is of the given kind. -/
def copyOp (op cl : Nat) (s : State) : Res :=
  match s.current cl isCopyOp with
  | none => .next s
  | some j =>
    if cmdOp j.cmd != op || !s.dieRuns (s.physCluster cl / 512) || (j.ended.isSome && j.beat.stage == 0 && !j.beat.more) ||
        !(j.running || s.mayStart j && s.engineFree cl isCopyOp) then .next s
    else match s.copyPlan j.cid j.cmd with
      | none => .next (s.putJob cl { j with ended := some (j.ended.getD 5), beat := {} })
      | some p =>
        let s1 := ((s.copyAt j p).map (s.cutBeat j)).getD s
        .next (s1.copyMove cl { j with running := true } p)

def execCopy (cl : Nat) (s : State) : Res := copyOp 0x10 cl s
def execConv (cl : Nat) (s : State) : Res := copyOp 0x11 cl s
def execQuant (cl : Nat) (s : State) : Res := copyOp 0x12 cl s
def execGather (cl : Nat) (s : State) : Res := copyOp 0x13 cl s
def execScatter (cl : Nat) (s : State) : Res := copyOp 0x14 cl s
def execFill (cl : Nat) (s : State) : Res := copyOp 0x15 cl s

end Sys2Proof.Machine
end

