-- ==== Sys2Proof/Machine/Collect.lean ====
section
/-! DEFINITION. Collective commands (R305 to R314): the list and the gate, the ring and tree algorithms step by step with the
packets that members exchange, arbitration settings and fences. -/
namespace Sys2Proof.Machine

/-! ## Parameters -/

def clNp (j : Job) : Nat := cmdB j.cmd 6 2
def clCount (j : Job) : Nat := cmdB j.cmd 12 4
def clFmt (j : Job) : Nat := cmdB j.cmd 5 1
def clTree (j : Job) : Bool := fld j.cmd 32 2 == 1
def clOp (j : Job) : Nat := fld j.cmd 34 2
def clBytes (j : Job) : Nat := tyBytes (clFmt j)
def clAddr (s : State) (j : Job) (i : Nat) : W64 := s.jobEa j.cid (BitVec.ofNat 64 (cmdB j.cmd i 8))
/-- A command that combines. -/
def clReduces (j : Job) : Bool := cmdOp j.cmd == 0x20 || cmdOp j.cmd == 0x21

/-- The package at a rank. -/
def clPkg (j : Job) (i : Nat) : Nat := j.coll.pkgs.getD (i % clNp j) 0

/-- The rank of this package. -/
def clRank (s : State) (j : Job) : Nat := (indexOf? (· == s.pkg.toNat) j.coll.pkgs).getD 0

/-- The first element of a chunk and its elements (R307). DEDUCED (log 33): unsafe. -/
def clChunk (j : Job) (c : Nat) : Nat × Nat :=
  let l := (clCount j + clNp j - 1) / clNp j
  (min (c * l) (clCount j), min ((c + 1) * l) (clCount j) - min (c * l) (clCount j))

/-- The lowest set bit of a rank. -/
def lowBit (i : Nat) : Nat := (List.range 16).foldr (fun b acc => if i.testBit b then 2 ^ b else acc) 65536

/-- The parent and the children of a rank in the binomial tree (R310). -/
def clParent (i : Nat) : Nat := i - lowBit i
def clKids (j : Job) (i : Nat) : List Nat :=
  ((List.range 10).filter fun b => 2 ^ b < (if i == 0 then 1024 else lowBit i) && i + 2 ^ b < clNp j).map fun b => i + 2 ^ b

/-- The ranks below a rank in the tree, itself among them. -/
def clBelow (j : Job) (i c : Nat) : Bool := i ≤ c && c < i + (if i == 0 then clNp j else lowBit i)

/-! ## Elements (R309) -/

/-- Elements as they travel: FP16 and BF16 of a reduction as FP32. -/
def clWords (j : Job) (bs : List Byte) : List W64 :=
  let w := clBytes j
  (List.range (bs.length / w)).map fun i =>
    let x := leNat ((bs.drop (i * w)).take w)
    BitVec.ofNat 64 (if clReduces j && (clFmt j == 0x0C || clFmt j == 0x0D) then (roundF 0x0B 0 false false 0 (decodeF (clFmt j) x)).bits else x)

/-- Finished elements of a reduction, in the command's format. -/
def clFinal (j : Job) (ws : List W64) : List W64 :=
  if !clReduces j || clFmt j < 0x0B then ws
  else ws.map fun x => BitVec.ofNat 64 (roundF (clFmt j) 0 false false 0 (decodeF 0x0B x.toNat)).bits

/-- The bytes of finished elements. -/
def clOut (j : Job) (ws : List W64) : List Byte := ws.flatMap fun x => leBytes (clBytes j) x.toNat

/-- Two elements combined. -/
def clCombine (j : Job) (x y : W64) : W64 :=
  let t := clFmt j
  BitVec.ofNat 64 <|
    if t < 0x0B then
      let a := intVal t x.toNat
      let b := intVal t y.toNat
      truncI (8 * tyBytes t) (if clOp j == 0 then a + b else if clOp j == 1 then min a b else max a b)
    else if clOp j == 0 then addRne 0x0B x.toNat y.toNat
    else (minMaxF 0x0B (clOp j == 2) false x.toNat y.toNat).1

def clMerge (j : Job) (a b : List W64) : List W64 := List.zipWith (clCombine j) a b

/-- Chunks placed in a whole vector: those that `own` admits from the first list, the others from the second. DEDUCED (log 33):
unsafe. -/
def clPlace (j : Job) (own : Nat → Bool) (a b : List W64) : List W64 :=
  (List.range (clCount j)).map fun e =>
    let l := (clCount j + clNp j - 1) / clNp j
    if own (e / l) then a.getD e 0 else b.getD e 0

/-! ## Steps

Step numbers of the ring: 0 sends the first chunk, 1 to NP − 1 reduce, NP writes the own chunk, NP + 1 to 2 NP − 1 gather. Of the
tree: 0 reads, 1 awaits the children, 2 the parent. `clEnd` is past the last of either, `clDone` past the store to DONEADDR. -/

def clEnd (j : Job) : Nat := 2 * clNp j + 2
def clDone (j : Job) : Nat := 2 * clNp j + 3

def clRing (j : Job) : Bool := !clTree j && cmdOp j.cmd != 0x23

/-- No more than the store to DONEADDR remains. -/
def clOver (j : Job) : Bool :=
  2 * clNp j ≤ j.coll.step && clRing j || clEnd j ≤ j.coll.step || (clRing j && cmdOp j.cmd == 0x21 && j.coll.step == clNp j + 1)

/-- The range of BUF that a step reads first: its offset and bytes. -/
def clRead (s : State) (j : Job) : Option (Nat × Nat) :=
  let i := clRank s j
  let n := clNp j
  let chunk (c : Nat) : Nat × Nat := ((clChunk j c).1 * clBytes j, (clChunk j c).2 * clBytes j)
  let whole : Nat × Nat := (0, clCount j * clBytes j)
  let st := j.coll.step
  if cmdOp j.cmd == 0x23 then (if i == 0 && st == 0 then some whole else none)
  else if cmdOp j.cmd == 0x22 then (if st == 0 then some (chunk i) else none)
  else if clTree j then (if st == 0 then some whole else none)
  else if st == 0 then some (chunk ((i + n - 1) % n))
  else if st < n then some (chunk ((i + 2 * n - st - 1) % n))
  else none

/-- A job with a write to make: `ws` from element `e` of BUF or OUT. -/
def clWrite (s : State) (j : Job) (e : Nat) (ws : List W64) : Job :=
  let base := clAddr s j (if cmdOp j.cmd == 0x20 || cmdOp j.cmd == 0x23 then 16 else 24)
  { j with coll := { j.coll with wr := some (addN base (e * clBytes j), clOut j ws) }, beat := { stage := 3 } }

def State.collSendAll (s : State) (j : Job) (ranks : List Nat) (ws : List W64) : State :=
  ranks.foldl (fun s r => s.collSend j (clPkg j r) 0 ws) s

def Job.toStep (j : Job) (st : Nat) : Job := { j with coll := { j.coll with step := st }, beat := {} }

/-- A finished whole result at a node of the tree: passed down and written. -/
def State.treeDown (s : State) (j : Job) (ws : List W64) : State × Job :=
  let i := clRank s j
  let s1 := s.collSendAll j (clKids j i) ws
  let j1 := j.toStep (clEnd j)
  if cmdOp j.cmd == 0x21 then
    let c := clChunk j i
    (s1, clWrite s j1 c.1 ((ws.drop c.1).take c.2))
  else (s1, clWrite s j1 0 ws)

/-- A node of the tree whose children have all sent: the root finishes, another node sends to its parent. -/
def State.treeUp (s : State) (j : Job) : State × Job :=
  let i := clRank s j
  if !(clKids j i).all j.coll.seen.contains then (s, j)
  else if i == 0 then s.treeDown j (clFinal j j.coll.acc)
  else (s.collSendAll j [clParent i] j.coll.acc, j.toStep 2)

/-- The data of a step's read arrives: what it sends first, and where it goes on. -/
def State.collHave (s : State) (j0 : Job) (bs : List Byte) : State × Job :=
  let i := clRank s j0
  let n := clNp j0
  let ws := clWords j0 bs
  let j := { j0 with coll := { j0.coll with acc := ws } }
  let st := j.coll.step
  if cmdOp j.cmd == 0x23 then
    (s.collSendAll j (if clTree j then clKids j 0 else if 1 < n then [1] else []) ws, j.toStep (clEnd j))
  else if clTree j then
    let acc := if cmdOp j.cmd == 0x22 then List.replicate (clChunk j i).1 0 ++ ws else ws
    s.treeUp ({ j with coll := { j.coll with acc := acc } }.toStep 1)
  else if cmdOp j.cmd == 0x22 then (s, j.toStep n)
  else if n == 1 then (s, ({ j with coll := { j.coll with acc := clFinal j ws } }).toStep 1)
  else if st == 0 then (s.collSendAll j [(i + 1) % n] ws, j.toStep 1)
  else (s, { j with beat := { stage := 4 } })

/-- A packet with partial or finished elements from a member, combined or passed on; none where it is not awaited yet. -/
def State.collTake (s : State) (j : Job) (peer : Nat) (ws : List W64) : Option (State × Job) :=
  let i := clRank s j
  let n := clNp j
  let st := j.coll.step
  if (!clTree j && peer != clPkg j (i + n - 1)) || j.beat.stage != (if clRing j && st < n then 4 else 0) then none
  else if cmdOp j.cmd == 0x23 then
    if i == 0 || st != 0 || (clTree j && peer != clPkg j (clParent i)) then none
    else some (s.collSendAll j (if clTree j then clKids j i else if i + 1 < n then [i + 1] else []) ws, clWrite s (j.toStep (clEnd j)) 0 ws)
  else if clTree j then
    if st == 1 then
      match (clKids j i).find? fun k => clPkg j k == peer && !j.coll.seen.contains k with
      | none => none
      | some k =>
        let acc := if cmdOp j.cmd == 0x22 then clPlace j (clBelow j k) ws j.coll.acc else clMerge j j.coll.acc ws
        some (s.treeUp { j with coll := { j.coll with acc := acc, seen := j.coll.seen ++ [k] } })
    else if st == 2 && peer == clPkg j (clParent i) then some (s.treeDown j ws)
    else none
  else if st < n then
    let acc := clMerge j ws j.coll.acc
    if st + 1 < n then some (s.collSendAll j [(i + 1) % n] acc, ({ j with coll := { j.coll with acc := acc } }).toStep (st + 1))
    else some (s, ({ j with coll := { j.coll with acc := clFinal j acc } }).toStep n)
  else if n < st && st < 2 * n then
    some ((if st + 1 < 2 * n then s.collSendAll j [(i + 1) % n] ws else s), clWrite s (j.toStep (st + 1)) (clChunk j ((i + 2 * n - st) % n)).1 ws)
  else none

/-! ## Ends -/

def engOf (sd : Nat) : Nat := 8192 + sd

/-- A member ends with a status; the others are told `tell`. -/
def Job.endColl (j : Job) (st tell : BitVec 8) : Job :=
  { j with beat := {}, ended := some (j.ended.getD st), coll := { j.coll with tell := some tell } }

/-- Bytes of its own buffers that a write under way of a collective command has written: none in the write of DONEADDR. -/
def State.collPart (s : State) (j : Job) : Nat :=
  if j.beat.stage != 3 || j.coll.step == clDone j then 0
  else (j.beat.ids.filterMap s.reqAt).foldl (fun n r => if r.stage == .done then n + r.n else n) 0

/-- A refused access of a collective command (R313): a translation fault suspends it, another refusal ends it. A race at the read of
LIST leaves the members to be told once the list has been read for that alone (R338). DEDUCED (log 33): unsafe. -/
def State.collRefused (s : State) (sd : Nat) (j : Job) (r : Req) (c : BitVec 8) : State :=
  let s0 := s.dropAsked j.beat.ids
  let wr := r.op.isStore
  let here := j.bytes + s.collPart j
  let cause := if wr && c == sfPERM then none else faultCause wr c
  if c == sfRACE then
    let j1 := if j.coll.listOk then j.endColl 4 4 else { j with beat := {}, ended := some (j.ended.getD 4) }
    (s0.putJob (engOf sd) j1).freeze j.cid j.slot { cause := cRACE, addr := r.ea, race := r.race }
  else if c == sfUNCORR then (s0.putJob (engOf sd) (j.endColl 4 4)).chargeDom j.ctx j.did
  else match cause with
    | some k =>
      let kept := { j with beat := { stage := if j.coll.wr.isSome then 3 else 0 }, ended := none, running := false }
      let s1 := s0.putJob (engOf sd) { j with beat := {}, ended := some (j.ended.getD 2), coll := { j.coll with told := true }, bytes := here }
      (if j.ended.isSome then s1 else { s1 with suspd := s1.suspd ++ [kept] }).interrupt { j with bytes := here } k r.ea
    | none => s0.putJob (engOf sd) (j.endColl 5 4)

/-- The command at a place of a collective engine's queue. -/
def State.collJob (s : State) (sd k : Nat) : Option Job := if 2 ≤ sd then none else (s.engineJobs (engOf sd))[k]?

/-- Eight commands run already (R305). -/
def State.collFull (s : State) (sd : Nat) : Bool := 8 ≤ ((s.engineJobs (engOf sd)).filter fun j => j.running && j.ended.isNone).length

def isCollOp (op : Nat) : Bool := 0x20 ≤ op && op ≤ 0x23

/-! ## The list and the gate (R306, R308) -/

/-- A suspended member taken up again by the same command. DEDUCED (log 33): unsafe. -/
def State.resumed (s : State) (j : Job) : Option Job := s.suspd.find? fun x => x.ctx == j.ctx && x.cmd == j.cmd

/-- The package list as its bytes give it, and whether it is well formed. -/
def listOf (bs : List Byte) : List Nat := (List.range (bs.length / 2)).map fun i => leNat ((bs.drop (2 * i)).take 2)
def listBad (own : Nat) (ps : List Nat) : Bool := !ps.Nodup || ps.any (fun p => 992 < p) || !ps.contains own

/-- COLLECTIVE_LIST_READ: the list is asked for, and judged when it has been read. -/
def execCollectiveListRead (sd k : Nat) (s : State) : Res :=
  match s.collJob sd k with
  | none => .next s
  | some j =>
    let eng := engOf sd
    if !isCollOp (cmdOp j.cmd) || j.coll.listOk || !(j.untold || s.mayStart j) then .next s
    else if j.beat.stage == 0 then
      if j.ended.isSome && !j.untold then .next s
      else match (if j.untold then none else s.resumed j) with
        | some x =>
          let s1 := { s with suspd := s.suspd.filter fun (y : Job) => !(y.ctx == j.ctx && y.cmd == j.cmd) }
          if x.coll.listOk then .next (s1.putJob eng { j with coll := { x.coll with wr := x.coll.wr }, beat := x.beat, bytes := x.bytes }) else .next s1
        | none =>
          let a := s.engineAsk j (clAddr s j 32) (2 * clNp j) none
          let s1 := if j.untold then a.1.foldl (fun s id => s.modReq id fun r => { r with checked := true }) a.2 else a.2
          .next (s1.putJob eng { j with beat := { stage := 1, ids := a.1 } })
    else if j.beat.stage != 1 then .next s
    else match s.askedOf j.beat.ids with
      | .open_ => .next s
      | .refused r c => .next (s.collRefused sd j r c)
      | .done bs =>
        let ps := listOf bs
        let j1 := { j with beat := {}, coll := { j.coll with pkgs := ps } }
        let lost := ps.any fun p => s.fab.lost.contains (.package p)
        .next ((s.dropAsked j.beat.ids).putJob eng
          (if listBad s.pkg.toNat ps then j1.endColl 5 5
          else if lost then { j1 with ended := some (j.ended.getD 4), coll := { j1.coll with listOk := true, told := true } }
          else { j1 with coll := { j1.coll with listOk := true } }))

/-- What a job learns of the signal word that it read with acquire: the entry that came with the value (R338). -/
def Job.learn (j : Job) (r : Req) : Job :=
  if !r.attr.rc then j
  else
    let sl := ({ gen := j.gen, hzn := j.hzn, hznUse := j.hznUse, hznev := j.hznev } : Slot).learnMeta r.meta_ r.scope
    { j with hzn := sl.hzn, hznUse := sl.hznUse, hznev := sl.hznev }

/-- COLLECTIVE_GATE_POLL: the signal word is asked for, and compared when it has been read. -/
def execCollectiveGatePoll (sd k : Nat) (s : State) : Res :=
  match s.collJob sd k with
  | none => .next s
  | some j =>
    let eng := engOf sd
    if !isCollOp (cmdOp j.cmd) || cmdB j.cmd 40 8 == 0 || !j.coll.listOk || j.coll.gateOk then .next s
    else if j.beat.stage == 0 then
      if j.ended.isSome || s.reft.toNat < j.coll.pollAt.toNat then .next s
      else
        let a := s.engineAsk j (clAddr s j 40) 8 none
        let s1 := a.1.foldl (fun s id => s.modReq id fun r => { r with acq := true, scope := 4 }) a.2
        .next (s1.putJob eng { j with beat := { stage := 1, ids := a.1 }, coll := { j.coll with pollAt := s.reft + 256 } })
    else if j.beat.stage != 1 then .next s
    else match s.askedOf j.beat.ids with
      | .open_ => .next s
      | .refused r c => .next (s.collRefused sd j r c)
      | .done bs =>
        let j1 := { j with beat := {} }
        let j2 := match (j.beat.ids.filterMap s.reqAt).head? with
          | some r => j1.learn r
          | none => j1
        let open_ := cmdB j.cmd 48 8 ≤ leNat bs
        .next ((s.dropAsked j.beat.ids).putJob eng (if open_ then { j2 with coll := { j2.coll with gateOk := true } } else j1))

/-! ## The engine's own moves -/

/-- A write of a member asked for, or the member's end where confinement refuses it. -/
def State.collAskWrite (s : State) (sd : Nat) (j : Job) (w : W64 × List Byte) : State :=
  if s.jobConfined j w.1 w.2.length then s.putJob (engOf sd) (j.endColl 5 4)
  else
    let a := s.engineAsk j w.1 w.2.length (some w.2)
    let last := j.coll.step == clDone j
    let s1 := if last then a.1.foldl (fun s id => s.modReq id fun r => { r with rel := true, scope := 4 }) a.2 else a.2
    s1.putJob (engOf sd) { j with beat := { stage := 3, ids := a.1 } }

/-- The writes of a step are done. -/
def State.collWritten (s : State) (j : Job) (n : Nat) : State × Job :=
  let own := clRing j && j.coll.step == clNp j
  let j1 := { j with beat := {}, bytes := if j.coll.step == clDone j then j.bytes else j.bytes + n, coll := { j.coll with wr := none } }
  if !own then (s, j1)
  else
    let j2 := j1.toStep (clNp j + 1)
    ((if cmdOp j.cmd == 0x21 || clNp j == 1 then s else s.collSendAll j [(clRank s j + 1) % clNp j] j.coll.acc), j2)

/-- The engine's next move for a member that runs. -/
def State.collMove (s : State) (sd : Nat) (j : Job) : State :=
  let eng := engOf sd
  if j.beat.stage == 3 then
    match j.coll.wr with
    | none => s.putJob eng { j with beat := {} }
    | some w =>
      if j.beat.ids.isEmpty && !w.2.isEmpty then s.collAskWrite sd j w
      else match s.askedOf j.beat.ids with
        | .open_ => s
        | .refused r c => s.collRefused sd j r c
        | .done _ =>
          let x := (s.dropAsked j.beat.ids).collWritten j w.2.length
          x.1.putJob eng x.2
  else if j.beat.stage == 2 then
    match s.askedOf j.beat.ids with
    | .open_ => s
    | .refused r c => s.collRefused sd j r c
    | .done bs =>
      let x := (s.dropAsked j.beat.ids).collHave { j with beat := {} } bs
      x.1.putJob eng x.2
  else if j.beat.stage != 0 then s
  else if clOver j then
    if cmdB j.cmd 56 8 == 0 || j.coll.step == clDone j then s.putJob eng { j with ended := some 0 }
    else
      let w : W64 × List Byte := (clAddr s j 56, leBytes 8 (cmdB j.cmd 48 8))
      s.putJob eng { j with coll := { j.coll with step := clDone j, wr := some w }, beat := { stage := 3 } }
  else if clRing j && j.coll.step == clNp j then s.putJob eng (clWrite s j (clChunk j (clRank s j)).1 j.coll.acc)
  else match clRead s j with
    | none => s
    | some (off, n) =>
      let a := s.engineAsk j (addN (clAddr s j 16) off) n none
      a.2.putJob eng { j with beat := { stage := 2, ids := a.1 } }

/-- A member that has ended with accesses under way waits for them. -/
def State.collDrain (s : State) (sd : Nat) (j : Job) : State :=
  match s.askedOf j.beat.ids with
  | .open_ => s
  | _ => (s.dropAsked j.beat.ids).putJob (engOf sd) { j with beat := {} }

/-- A move of the collective at a place of an engine's queue, if it is of the given kind: it starts when its list and gate allow
and fewer than eight run (R305). -/
def collOp (op sd k : Nat) (s : State) : Res :=
  match s.collJob sd k with
  | none => .next s
  | some j =>
    if cmdOp j.cmd != op || s.halted then .next s
    else if j.ended.isSome then .next (if j.beat.ids.isEmpty || j.untold then s else s.collDrain sd j)
    else if !j.running && (!s.mayStart j || !j.coll.listOk || !(cmdB j.cmd 40 8 == 0 || j.coll.gateOk) || s.collFull sd) then .next s
    else .next (s.collMove sd { j with running := true })

def execAreduce (sd k : Nat) (s : State) : Res := collOp 0x20 sd k s
def execRscatter (sd k : Nat) (s : State) : Res := collOp 0x21 sd k s
def execAgather (sd k : Nat) (s : State) : Res := collOp 0x22 sd k s
def execBcast (sd k : Nat) (s : State) : Res := collOp 0x23 sd k s

/-- COLLECTIVE_STEP: a packet from a member's package: its end, a member whose parameters differ, its list among them, or data (R307 to
R310). A member that ends for a mismatch tells those that the packet's sender has not told. DEDUCED (log 33): unsafe. -/
def execCollectiveStep (sd k peer : Nat) (data : List W64) (s : State) : Res :=
  match s.collJob sd k with
  | none => .next s
  | some j =>
    let eng := engOf sd
    let h := collHead j 0
    let st : BitVec 8 := (data.getD 0 0).extractLsb' 0 8
    let theirs := peer :: ((data.drop 2).take (fld (data.getD 1 0) 0 16)).map (·.toNat)
    if !isCollOp (cmdOp j.cmd) || j.ended.isSome || !j.coll.listOk || peer == s.pkg.toNat then .next s
    else if st == 5 then .next (s.putJob eng { j with ended := some 5, coll := { j.coll with tell := some 5, heard := theirs } })
    else if st == 4 && j.coll.pkgs.contains peer then .next (s.putJob eng { j with ended := some st, coll := { j.coll with told := true } })
    else if data.take h.length != h then .next (s.putJob eng { j with ended := some 5, coll := { j.coll with tell := some 5, also := theirs } })
    else if !j.running then .next s
    else match s.collTake j peer (data.drop h.length) with
      | none => .next s
      | some x => .next (x.1.putJob eng x.2)

/-- Members of collectives with a package that is declared lost (R313). -/
def State.collLoss (s : State) (p : Nat) : State :=
  let f (j : Job) : Job := if j.coll.pkgs.contains p && j.ended.isNone then { j with ended := some 4, coll := { j.coll with told := true } } else j
  { s with colls := s.colls.map fun l => l.map f, suspd := s.suspd.filter fun (j : Job) => !j.coll.pkgs.contains p }

/-! ## Arbitration and fences (R311, R312) -/

/-- A port's next window of 256 flit times begins, under the settings that wait for it (R311, R314). -/
def Port.newWindow (p : Port) : Port :=
  let q := { p with win := 0, winColl := 0 }
  match p.newArb with
  | none => q
  | some (c, o, n) => { q with wcoll := c, wother := o, share := n, newArb := none }

/-- CEARB: weights and share for the named ports, which each applies from its next window on (R314). The command completes when all do;
where no flits pass, idle flit times bring the window about. DEDUCED (log 34): unsafe. -/
def execCearb (sd k : Nat) (s : State) : Res :=
  match s.collJob sd k with
  | none => .next s
  | some j =>
    if cmdOp j.cmd != 0x24 || j.ended.isSome || !(j.running || s.mayStart j && !s.collFull sd) then .next s
    else
      let w := cmdB j.cmd 4 1
      let new : BitVec 4 × BitVec 4 × Nat := (BitVec.ofNat 4 w, BitVec.ofNat 4 (w / 16), cmdB j.cmd 5 1)
      let set (p : Port) : Port := if j.running then (if p.newArb.isSome then p.newWindow else p) else { p with newArb := some new }
      let ports := ((List.range 32).filter (cmdB j.cmd 8 4).testBit).foldl (fun t q => tblSet q (set (tblGetD t q {})) t) s.fab.ports
      .next ({ s with fab := { s.fab with ports := ports } }.putJob (engOf sd) { j with running := true, ended := if j.running then some 0 else none })

/-- CEFENCE: earlier commands of its engine are awaited; under ABORT those that are gated or run are killed. -/
def execCefence (sd k : Nat) (s : State) : Res :=
  match s.collJob sd k with
  | none => .next s
  | some j =>
    if cmdOp j.cmd != 0x25 || j.ended.isSome || !(j.running || s.mayStart j) then .next s
    else
      let before := (s.engineJobs (engOf sd)).take k
      let j1 := { j with running := true }
      let s1 := if cmdB j.cmd 4 1 == 1 then before.foldl (fun s x => if s.mayStart x then s.putJob (engOf sd) x.kill else s) s else s
      .next (s1.putJob (engOf sd) (if before.isEmpty then { j1 with ended := some 0 } else j1))

end Sys2Proof.Machine
end

