-- ==== Sys2Proof/Machine/HbmEv.lean ====
section
/-! DEFINITION. HBM controllers and their refresh, and fills of the LLC (R399, R404 to R411). -/
namespace Sys2Proof.Machine

/-! ## Places (R404) -/

/-- Where a physical address lies in its M-die: stack, pseudo-channel, bank and row. -/
structure HbmPlace where
  stack : Nat
  q     : Nat
  bank  : Nat
  row   : Nat
  deriving DecidableEq, Repr

def hbmPlace (pa : Nat) : HbmPlace :=
  { stack := pa / 2 ^ 6 % 2
    q := pa / 2 ^ 7 % 32 * 2 + pa / 2 ^ 12 % 2
    bank := pa / 2 ^ 13 % 16 * 4 + pa / 2 ^ 17 % 4
    row := pa / 2 ^ 23 % 2 ^ 14 }

def State.hbm (s : State) (m st : Nat) : Hbm := vget (s.mdie m).hbms st {}
def State.modHbm (s : State) (m st : Nat) (f : Hbm → Hbm) : State :=
  let d := s.mdie m
  s.setMdie m { d with hbms := vset d.hbms st (f (vget d.hbms st {})) }
def State.pchan (s : State) (m st q : Nat) : PChan := tblGetD (s.hbm m st).pchans q {}
def State.setPchan (s : State) (m st q : Nat) (p : PChan) : State := s.modHbm m st fun h => { h with pchans := tblSet q p h.pchans }

/-- An event counter of a stack (R403): the index at stack 0. -/
def State.countH (s : State) (m st i : Nat) : State := s.countM m (i + 8 * st)

/-- A request that waits for a pseudo-channel, or for its data to come from there. -/
def Req.inChan (r : Req) (m st q : Nat) : Bool :=
  let p := hbmPlace r.pa
  paMdie r.pa == m && p.stack == st && p.q == q

/-- Requests queued at a controller, in order of arrival. -/
def State.hbmQueue (s : State) (m : Nat) : List Req := s.reqs.filter fun r => r.stage == .hbm && paMdie r.pa == m

/-- The request that is first in its bank. -/
def State.firstInBank (s : State) (r : Req) : Bool :=
  let p := hbmPlace r.pa
  ((s.hbmQueue (paMdie r.pa)).find? fun x => hbmPlace x.pa == { p with row := (hbmPlace x.pa).row }).map (·.id) == some r.id

/-- HBM_REQUEST: a queued request that is first in its bank is served, unless a refresh blocks it. -/
def execHbmRequest (md k : Nat) (s : State) : Res :=
  match (s.hbmQueue md)[k]? with
  | none => .next s
  | some r =>
    let p := hbmPlace r.pa
    let c := s.pchan md p.stack p.q
    if (s.mdie md).lost || c.forced.isSome || (tblGet (p.bank / 4) c.blocked).isSome || !s.firstInBank r then .next s
    else
      let s1 := s.setPchan md p.stack p.q { c with rows := tblSet p.bank p.row c.rows }
      let s2 := s1.modHbm md p.stack fun h => { h with lastReq := s.reft.toNat, down := false }
      let s3 := if r.attr.lat then s2.countH md p.stack 0x1D else s2
      let next (x : Req) : Req :=
        if x.id == r.id then { x with stage := .fill }
        else if x.stage == .hbm && paMdie x.pa == md && (hbmPlace x.pa).bank == p.bank && x.inChan md p.stack p.q then { x with since := s.reft }
        else x
      .next { s3 with reqs := s3.reqs.map next }

/-- A corrected error of a line's cells is corrected in place and counted. -/
def State.correctCells (s : State) (line : Nat) : State :=
  [0, 1].foldl (fun s u =>
    let e := (unitKey line u, false)
    if s.errs.contains e then { s.countH (line * 64 / 2 ^ 37) (line % 2) 0x1E with errs := s.errs.filter (· != e) } else s) s

/-- LLC_FILL: the data of the served request at a place arrives at the LLC. A line of an ERASE page that HBM cannot correct waits for
its repair (R489). -/
def execLlcFill (k : Nat) (s : State) : Res :=
  match (s.reqs.filter fun r => r.stage == .fill)[k]? with
  | none => .next s
  | some r =>
    if r.attr.erase && (s.llcHome (r.pa / 64)).isNone && s.errs.contains (cellKey (r.pa / 64), true) && !s.errs.contains (poisonKey (r.pa / 64), true) then .next s
    else .next (((s.correctCells (r.pa / 64)).llcFillHome (r.pa / 64) r.attr.cmp r.egrp (s.dirState (r.pa / 64) != stI)).modReq r.id fun q => { q with stage := .home })

/-! ## Refresh -/

/-- A latency-critical request is queued for, or in service in, a bank group. -/
def State.latIn (s : State) (m st q g : Nat) : Bool :=
  s.reqs.any fun r => (r.stage == .hbm || r.stage == .fill) && r.attr.lat && r.inChan m st q && (hbmPlace r.pa).bank / 4 == g

/-- A per-bank refresh begins: its row is closed and its group blocked. -/
def PChan.refresh (c : PChan) (bank now : Nat) : PChan :=
  { c with rows := tblErase bank c.rows, blocked := tblSet (bank / 4) (max (now + 200) (tblGetD c.blocked (bank / 4) 0)) c.blocked }

/-- REFWAIT of the requests that were first in their banks while these were blocked (R411). DEDUCED (log 42): unsafe. -/
def State.addRefwait (s : State) (m st q from_ goTo : Nat) (test : Nat → Bool) : State :=
  let rs := s.reqs.filter fun r => r.stage == .hbm && r.inChan m st q && test (hbmPlace r.pa).bank && s.firstInBank r
  rs.foldl (fun s r =>
    let w := goTo - max from_ r.since.toNat
    let s1 := s.modReq r.id fun x => { x with refwait := x.refwait + w }
    let d := s1.mdie m
    let i := 0x1C + 8 * st
    s1.setMdie m { d with count := tblSet i (tblGetD d.count i 0 + BitVec.ofNat 64 w) d.count }) s

/-- A per-bank refresh issued: what its group's requests waited for an earlier one of the group is counted first. -/
def State.issueRefresh (s : State) (m st q bank now : Nat) : State :=
  let c := s.pchan m st q
  let s1 := match tblGet (bank / 4) c.blocked with
    | some u => s.addRefwait m st q (u - 200) (min u now) fun b => b / 4 == bank / 4
    | none => s
  s1.setPchan m st q (c.refresh bank now)

/-- At most one owed refresh is issued (R408). -/
def State.payOne (s : State) (m st q g now : Nat) : State :=
  let c := s.pchan m st q
  match c.owed.find? fun b => b / 4 != g && !s.latIn m st q (b / 4) with
  | none => s
  | some b => ((s.setPchan m st q { c with owed := c.owed.erase b }).issueRefresh m st q b now).countH m st 0x1A

/-- The decision at a slot (R407, R409). -/
def State.slotDecide (s : State) (m st q k now : Nat) : State :=
  let g := k % 16
  let bank := 4 * g + k / 16 % 4
  let c := s.pchan m st q
  if s.latIn m st q g then
    if c.owed.length < 8 then (s.setPchan m st q { c with owed := c.owed ++ [bank] }).countH m st 0x19
    else (s.setPchan m st q { c with owed := [], forced := some (now, false) }).countH m st 0x1B
  else ((s.issueRefresh m st q bank now).countH m st 0x18).payOne m st q g now

/-- REFRESH_SLOT: a slot of a pseudo-channel's schedule. -/
def execRefreshSlot (md st q : Nat) (s : State) : Res :=
  let now := s.reft.toNat
  let k := (now - q) / 61
  let c := s.pchan md st q
  if 6 ≤ md || 2 ≤ st || 64 ≤ q || now < q || (now - q) % 61 != 0 || k < c.slot then .next s
  else
    let c1 := { c with slot := k + 1 }
    if (s.hbm md st).down then .next (s.setPchan md st q c1)
    else if c.forced.isSome then .next (s.setPchan md st q { c1 with defer_ := c1.defer_ ++ [k] })
    else .next ((s.setPchan md st q c1).slotDecide md st q k now)

/-- PER_BANK_REFRESH_END: the group is unblocked, and the refreshed bank's row is closed. -/
def execPerBankRefreshEnd (md st q bank : Nat) (s : State) : Res :=
  let c := s.pchan md st q
  match tblGet (bank / 4) c.blocked with
  | none => .next s
  | some until_ =>
    if s.reft.toNat < until_ then .next s
    else
      let s1 := s.addRefwait md st q (until_ - 200) until_ fun b => b / 4 == bank / 4
      .next (s1.setPchan md st q { c with rows := tblErase bank c.rows, blocked := tblErase (bank / 4) c.blocked })

/-- ALLBANK_REFRESH_START: 52 ticks after a forced slot; the per-bank refreshes under way, which end before it does, block no longer of
their own. -/
def execAllbankRefreshStart (md st q : Nat) (s : State) : Res :=
  let c := s.pchan md st q
  match c.forced with
  | some (t, false) =>
    if s.reft.toNat < t + 52 then .next s
    else
      let s1 := c.blocked.foldl (fun s x => s.addRefwait md st q (x.2 - 200) (min x.2 (t + 52)) fun b => b / 4 == x.1) s
      .next (s1.setPchan md st q { c with rows := [], blocked := [], forced := some (t, true) })
  | _ => .next s

/-- ALLBANK_REFRESH_END: 402 ticks after the slot; the slots that fell within it are performed. -/
def execAllbankRefreshEnd (md st q : Nat) (s : State) : Res :=
  let c := s.pchan md st q
  match c.forced with
  | some (t, true) =>
    if s.reft.toNat < t + 402 then .next s
    else
      let s1 := s.addRefwait md st q (t + 52) (t + 402) fun _ => true
      let s2 := s1.setPchan md st q { c with rows := [], forced := none, defer_ := [] }
      .next (c.defer_.foldl (fun s k => s.slotDecide md st q k s.reft.toNat) s2)
  | _ => .next s

/-- HBM_RANK_POWER_DOWN: lever 5 is applied, and the stack had no request for 1 µs. -/
def execHbmRankPowerDown (md st : Nat) (s : State) : Res :=
  .next (if s.power.notch == 20 && s.reft.toNat - (s.hbm md st).lastReq ≥ 1000 && !(s.hbmQueue md).any (fun r => (hbmPlace r.pa).stack == st) then
      s.modHbm md st fun h => { h with down := true }
    else s)

end Sys2Proof.Machine
end

