-- ==== Sys2Proof/Machine/DirEv.lean ====
section
/-! DEFINITION. Directory messages as they reach a package, requests for foreign lines that get no answer, and invalidations of
translations with their acknowledgements (R383, R414 to R421). -/
namespace Sys2Proof.Machine

/-! ## At the home (R416) -/

/-- A directory message from another package is taken up: an S-die lives, and neither package is fenced. -/
def State.dirTakes (s : State) (r : Nat) : Bool :=
  s.dir.live.toList.any id && r < 993 && r != s.pkg.toNat && !s.fab.fenced && !s.fab.lost.contains (.package r)

/-- A request reaches the directory after those that wait have had their turn. -/
def State.dirEvent (s : State) (r : Nat) (q : DirReq) : Res := .next (if s.dirTakes r then s.dirDrain.dirOffer q else s)

def execGets (r pline ctx vpn : Nat) (s : State) : Res := s.dirEvent r (.gets r pline ctx vpn)
def execGetm (r pline ctx vpn : Nat) (s : State) : Res := s.dirEvent r (.getm r pline ctx vpn)
def execPutm (r pline : Nat) (dat : W512 × BitVec 4) (s : State) : Res := s.dirEvent r (.put r pline (some dat))
def execPuto (r pline : Nat) (dat : W512 × BitVec 4) (s : State) : Res := s.dirEvent r (.put r pline (some dat))
def execPute (r pline : Nat) (s : State) : Res := s.dirEvent r (.put r pline none)
def execPuts (r pline : Nat) (s : State) : Res := s.dirEvent r (.puts r pline)

/-- INVALIDATE_ACK. -/
def execInvalidateAck (p pline : Nat) (dirty : Option (W512 × BitVec 4)) (s : State) : Res := .next (s.invAck p pline dirty).dirDrain

/-- The package that may hold the only copy of a line is among those awaited. -/
def State.ownerAwaited (s : State) (t : Trans) : Bool :=
  (s.dirGet t.pline).any fun e => (e.state == stE || e.state == stO || e.state == stM) && t.wait_.contains e.owner

/-- DIRECTORY_OWNER_TIMEOUT: after both copies of an entry were lost, packages that do not answer within 50 µs are no longer waited for; what an
owner among them held is lost. -/
def execDirectoryOwnerTimeout (pline : Nat) (s : State) : Res :=
  match s.transAt pline with
  | none => .next s
  | some t =>
    if !t.lost || t.wait_.isEmpty || (s.reft - t.since).toNat < 50000 then .next s
    else
      let t1 := { t with wait_ := [] }
      let s1 := if s.ownerAwaited t then s.poison pline else s
      .next ({ s1 with dir := { s1.dir with trans := replaceFirst (·.pline == pline) (fun _ => t1) s1.dir.trans } }.settle pline).dirDrain

/-! ## At a holder (R419) -/

def execDirectoryForward (h ctx vline r : Nat) (excl : Bool) (s : State) : Res := .next (s.forwardLine h ctx vline r excl)
def execDirectoryInvalidate (h ctx vline : Nat) (s : State) : Res := .next (s.invalidateLine h ctx vline)

/-- PUT_ACK: the write-back buffer's entry is freed. -/
def execPutAck (h vline ctx : Nat) (s : State) : Res :=
  .next { s with dir := { s.dir with wbBuf := removeFirst (fun (x : WbEnt) => x.pkg == h && x.ctx == ctx && x.line == vline) s.dir.wbBuf } }

/-- FOREIGN_REQUEST_REISSUE: a request for a foreign line, one of a page that its home maps as coherent-global, without an answer for 50 µs
is sent again unchanged (R420). -/
def execForeignRequestReissue (id : Nat) (s : State) : Res :=
  match s.reqAt id with
  | none => .next s
  | some r =>
    .next (if r.org == 0x3FF && r.stage == .fabric && r.sent && r.ea.getLsbD 63 && r.attr.cg && 50000 ≤ (s.reft - r.since).toNat then
        s.modReq id fun q => { q with sent := false, since := s.reft }
      else s)

/-! ## Invalidations of translations (R224, R383) -/

/-- REMOTE_L1_FLUSH: package `p` has its lines of a page flushed here; the acknowledgement follows the write-backs. -/
def execRemoteL1Flush (p ctx : Nat) (va : W64) (size : Nat) (s : State) : Res :=
  let s1 := s.flushPage false ctx va.toNat size p
  .next { s1 with
    nextId := s1.nextId + 1
    invs := s1.invs ++ [{ k := s1.nextId, cid := p, slot := 4, ctx := ctx, va := va.toNat, level := size, upTo := s1.nextId, wait_ := [s.pkg.toNat] }] }

/-- A request that an invalidation must wait for: it uses the page's old translation, or writes one of its lines back. DEDUCED
(log 35): unsafe. -/
def Inv.awaits (x : Inv) (r : Req) : Bool :=
  r.id < x.upTo && r.ctx == x.ctx && r.ea.getLsbD 63 &&
  (x.all || fld r.ea 0 53 / 2 ^ pageBits x.level == x.va / 2 ^ pageBits x.level) &&
  (if x.slot == 4 then r.op == .writeBack && fld r.ea 53 10 == x.cid
   else fld r.ea 53 10 == 0x3FF && (r.stage != .walk || r.op == .writeBack) && (r.open? || r.op == .writeBack))

/-- An invalidation with the packages still to acknowledge and those counted; with none left it ends. -/
def State.invStep (s : State) (x : Inv) (left : List Nat) (acks : Nat) : State :=
  if !left.isEmpty then { s with invs := replaceFirst (fun (y : Inv) => y.k == x.k) (fun _ => { x with wait_ := left, acks := acks }) s.invs }
  else
    let s1 := { s with invs := s.invs.filter (fun (y : Inv) => y.k != x.k) }
    if x.slot == 4 then { s1 with out := s1.out ++ [Out.ack x.cid] }
    else
      let sl := s1.slotAt x.cid x.slot
      match sl.run with
      | .sleeping (.tlbinv d j) =>
        if j != x.k then s1
        else if !s.canWake x.cid x.slot then
          { s with invs := replaceFirst (fun (y : Inv) => y.k == x.k) (fun _ => { x with wait_ := [], acks := acks }) s.invs }
        else s1.retire x.cid x.slot ({ sl with run := .running }.putG d acks) 8 none
      | _ => s1

/-- TLBINV_ACK: this package's units, or another package, acknowledge an invalidation. -/
def execTlbinvAck (k p : Nat) (s : State) : Res :=
  match s.invs.find? (·.k == k) with
  | none => .next s
  | some x =>
    if !x.wait_.contains p || (p == s.pkg.toNat && s.reqs.any x.awaits) then .next s
    else .next (s.invStep x (x.wait_.filter fun q => q != p && !s.fab.lost.contains (.package q)) (x.acks + 1))

/-- A lost package is no longer waited for. -/
def State.invLoss (s : State) (p : Nat) : State :=
  s.invs.foldl (fun s x => if x.wait_.contains p then s.invStep x (x.wait_.filter (· != p)) x.acks else s) s

end Sys2Proof.Machine
end

