-- ==== Sys2Proof/Machine/Fabric.lean ====
section
/-! DEFINITION. The fabric at this package: routing tables, packets and their routes, flits with replay, slot returns and
synchronisation, links that go down and come up, and the die map (R454 to R471). -/
namespace Sys2Proof.Machine

/-! ## Routes (R458, R459) -/

def State.port (s : State) (q : Nat) : Port := tblGetD s.fab.ports q {}
def State.setPort (s : State) (q : Nat) (p : Port) : State := { s with fab := { s.fab with ports := tblSet q p s.fab.ports } }

/-- A package that has been declared lost or fenced. -/
def State.pkgLost (s : State) (p : Nat) : Bool := s.fab.lost.contains (.package p)

/-- The S-die of a port of this package has been declared lost. -/
def State.sdieOut (s : State) (q : Nat) : Bool := s.fab.lost.contains (.sdie (q / 16))

/-- A port of this package carries traffic. -/
def State.portUp (s : State) (q : Nat) : Bool := (s.port q).state == 1 && !s.sdieOut q

/-- The link between two packages is live as far as this package knows. DEDUCED (log 34): unsafe. -/
def State.linkLive (s : State) (a b : Nat) : Bool :=
  joined a b && !s.pkgLost a && !s.pkgLost b &&
  (if a == s.pkg.toNat then ((portTo a b).map s.portUp).getD false
   else if b == s.pkg.toNat then ((portTo b a).map s.portUp).getD false else true)

/-- Hops over live links, up to 2; 9 where there is no such path. -/
def State.liveHops (s : State) (a b : Nat) : Nat :=
  if a == b then 0
  else if s.linkLive a b then 1
  else
    let m := middle a b
    if s.linkLive a m && s.linkLive m b then 2 else 9

/-- The minimal path to a destination: its hops and first port, ties to the lower port. -/
def State.minRoute (s : State) (d : Nat) : Option (Nat × Nat) :=
  let own := s.pkg.toNat
  let via := (List.range 32).filterMap fun q => match portPeer own q with
    | some n => if s.portUp q && !s.pkgLost n then some (1 + s.liveHops n d, q) else none
    | none => none
  match argMin (fun (x : Nat × Nat) => x.1) via with
  | some x => if x.1 ≤ 3 then some x else none
  | none => none

/-- The intermediates drawn for a destination: at most eight, within 64 draws. -/
def drawInts (ok : Nat → Bool) : Nat → W64 → List Nat → List Nat
  | 0, _, acc => acc
  | n + 1, x, acc =>
    if acc.length == 8 then acc
    else
      let x1 := seedNext x
      let p := fld x1 32 32 % 993
      drawInts ok n x1 (if acc.contains p || !ok p then acc else acc ++ [p])

/-- The entry of the routing table for a destination, given every minimal path. -/
def routeEntry (own d : Nat) (mins : Tbl (Nat × Nat)) : Route :=
  match tblGet d mins with
  | none => {}
  | some (h, q) =>
    let x0 := BitVec.ofNat 64 (own * 1024 ||| d ||| 1)
    { v := true, hops := h, mport := q
      ints := drawInts (fun p => p != own && p != d && (tblGet p mins).isSome) 64 x0 [] }

/-- The routing table over live links. -/
def State.buildRoutes (s : State) : State :=
  let own := s.pkg.toNat
  let mins := (List.range 993).filterMap fun d => if d == own || s.pkgLost d then none else (s.minRoute d).map fun x => (d, x)
  { s with fab := { s.fab with routes := mins.map fun m => (m.1, routeEntry own m.1 mins) } }

def State.route (s : State) (d : Nat) : Option Route := (tblGet d s.fab.routes).filter (·.v)

/-- The packages whose minimal path begins at a port (R302, R459). -/
def State.reachMask (s : State) (q : Nat) : BitVec 1024 :=
  s.fab.routes.foldl (fun m x => if x.2.v && x.2.mport == q then m ||| BitVec.twoPow 1024 x.1 else m) 0

/-! ## Flits (R462) -/

def crcBit (c : BitVec 32) : BitVec 32 := if c.getLsbD 0 then (c >>> 1) ^^^ 0x82F63B78 else c >>> 1
def crcByte (c : BitVec 32) (b : Byte) : BitVec 32 := (List.range 8).foldl (fun c _ => crcBit c) (c ^^^ b.zeroExtend 32)
/-- CRC-32C (Castagnoli). -/
def crc32c (bs : List Byte) : BitVec 32 := bs.foldl crcByte 0xFFFFFFFF ^^^ 0xFFFFFFFF

def flitSeq (f : BitVec 1024) : BitVec 12 := f.extractLsb' 52 12
def flitAck (f : BitVec 1024) : BitVec 12 := f.extractLsb' 40 12
def flitVc (f : BitVec 1024) : Nat := fld f 27 3
def flitType (f : BitVec 1024) : Nat := fld f 16 4
def flitSop (f : BitVec 1024) : Bool := f.getLsbD 26
def flitEop (f : BitVec 1024) : Bool := f.getLsbD 25
def flitBody (f : BitVec 1024) : BitVec 928 := f.extractLsb' 64 928

/-- The CRC of a flit holds. -/
def flitIntact (f : BitVec 1024) : Bool := (crc32c (bytesOf f 124)).toNat == fld f 992 32

/-- A flit as it leaves a port, with the ACK, NAK and slot returns of this moment. -/
def Port.flit (p : Port) (ty seq vc : Nat) (sop eop : Bool) (body : BitVec 928) : Port × BitVec 1024 :=
  let rv := ((List.range 8).find? fun v => vget p.returns v 0 != 0).getD 0
  let rn := min 63 (vget p.returns rv 0)
  let f : BitVec 1024 := packFields 1024 [(52, 12, seq), (40, 12, p.ack.toNat), (39, 1, b2n p.nakDue), (36, 3, rv), (30, 6, rn), (27, 3, vc), (26, 1, b2n sop),
    (25, 1, b2n eop), (16, 4, ty), (64, 928, body.toNat)]
  ({ p with nakDue := false, returns := vset p.returns rv (vget p.returns rv 0 - rn) }, setFld f 992 32 (crc32c (bytesOf f 124)).toNat)

/-- A sequenced flit leaves: it is numbered, counted and kept for replay. -/
def Port.sendSeq (p : Port) (ty vc : Nat) (sop eop : Bool) (body : BitVec 928) : Port × BitVec 1024 :=
  let x := p.flit ty p.seq.toNat vc sop eop body
  let q := x.1
  ({ q with seq := p.seq + 1, replay := q.replay ++ [(p.seq, x.2)], sinceSync := if ty == 1 then 0 else q.sinceSync + 1, count := bump q.count 0x04 }, x.2)

/-- A buffered flit resent with the header fields of this moment. -/
def Port.resend (p : Port) (f : BitVec 1024) : Port × BitVec 1024 :=
  p.flit (flitType f) (flitSeq f).toNat (flitVc f) (flitSop f) (flitEop f) (flitBody f)

/-- The collective share of a port in sixteenths: the smaller of CEARB's and that of the second lever (R311, R505). -/
def State.collShare (s : State) (q : Nat) : Nat := min (s.port q).share (16 / 2 ^ min (s.power.notch - 5) 3)

/-- A flit time of a port's window of 256: a collective flit beyond the share waits for the next window, which idle flits bring about
(R311). DEDUCED (log 34): unsafe. -/
def Port.flitTime (p0 : Port) (share : Nat) (coll : Bool) : Port :=
  let p := if coll && 16 * share ≤ p0.winColl then p0.newWindow else p0
  if 256 ≤ p.win + 1 then p.newWindow else { p with win := p.win + 1, winColl := p.winColl + b2n coll }

/-- A flit leaves a port. -/
def State.outFlit (s : State) (q : Nat) (f : BitVec 1024) : State :=
  { s.setPort q ((s.port q).flitTime (s.collShare q) (flitType f == 0 && flitVc f == 5)) with out := s.out ++ [.flit q f] }

/-- Every buffered flit resent in order (R464). -/
def State.replayAll (s : State) (q : Nat) : State :=
  let p := s.port q
  if p.replay.isEmpty then s
  else
    let x := p.replay.foldl (fun (a : Port × List (BitVec 1024)) e => let y := a.1.resend e.2; (y.1, a.2 ++ [y.2])) ({ p with count := bump p.count 0x01 }, [])
    x.2.foldl (fun s f => s.outFlit q f) (s.setPort q x.1)

/-! ## Sending (R461, R465, R311) -/

/-- The first packet of a channel that waits at a port. -/
def State.waiting (s : State) (q v : Nat) : Option Packet := s.fab.packets.find? fun k => k.port == some q && k.vc == v

/-- The channel that an output serves next: 3, 6 and 7 first; then collectives and the others by their weights, the others in
turn, and collectives beyond the share of the window after the others. -/
def State.nextVc (s : State) (q : Nat) : Option Nat :=
  let p := s.port q
  let can (v : Nat) : Bool := (s.waiting q v).isSome && vget p.credits v 0 != 0
  match [3, 6, 7].find? can with
  | some v => some v
  | none =>
    let others := ([0, 1, 2, 4].filter (fun v => p.lastVc < v) ++ [0, 1, 2, 4].filter (fun v => v ≤ p.lastVc)).find? can
    match can 5, others with
    | true, some v => if p.turn < p.wcoll.toNat && p.winColl < 16 * s.collShare q then some 5 else some v
    | true, none => some 5
    | false, o => o

/-- One flit of the packet that an output serves next. DEDUCED (log 34): unsafe. -/
def State.pumpOne (s : State) (q : Nat) : Option State :=
  let p := s.port q
  if p.state != 1 || p.dead || 512 ≤ p.replay.length || 256 ≤ p.sinceSync then none
  else match s.nextVc q with
    | none => none
    | some v =>
      match s.waiting q v with
      | none => none
      | some k =>
        let last := k.sent + 1 == k.body.length
        let x := p.sendSeq 0 v (k.sent == 0) last (k.body.getD k.sent 0)
        let low : Bool := v == 0 || v == 1 || v == 2 || v == 4
        let p1 := { x.1 with
          credits := vset x.1.credits v (vget x.1.credits v 0 - 1)
          turn := if v == 5 || low then (x.1.turn + 1) % (p.wcoll.toNat + p.wother.toNat) else x.1.turn
          lastVc := if low then v else x.1.lastVc
          sentPk := if last then x.1.sentPk ++ [(p.seq, { k with sent := k.sent + 1 })] else x.1.sentPk }
        let k1 := { k with sent := k.sent + 1 }
        let here (y : Packet) : Bool := y == k
        let s1 := (s.setPort q p1).outFlit q x.2
        let s2 := { s1 with fab := { s1.fab with packets := if last then removeFirst here s1.fab.packets else replaceFirst here (fun _ => k1) s1.fab.packets } }
        some (match k.inPort with
          | none => s2
          | some i =>
            let pi := s2.port i
            s2.setPort i { pi with returns := vset pi.returns v (vget pi.returns v 0 + 1), free := vset pi.free v (vget pi.free v 0 + 1) })

/-- Flits leave a port while credits, the replay buffer and the next synchronisation allow. -/
def State.pump (q : Nat) : Nat → State → State
  | 0, s => s
  | n + 1, s => match s.pumpOne q with
    | none => s
    | some s1 => State.pump q n s1

def State.send (s : State) (q : Nat) : State := State.pump q 512 s

/-! ## Packets (R460 to R463, R302) -/

/-- The flits of a packet of a length: the packet header, the destination string of a multicast, and bits of the packet's kind.
DESIGN CHOICE (log 5): safe. -/
def packetBody (k : Packet) (len serial : Nat) (dests : BitVec 1024) : List (BitVec 928) :=
  (List.range len).map fun i =>
    let b := Config.packetBits serial i
    if i == 0 then
      ([(42, 6, len), (41, 1, b2n k.epoch), (40, 1, b2n k.mc), (39, 1, b2n k.min), (38, 1, b2n k.ph), (28, 10, k.ipkg), (18, 10, k.spkg), (10, 8, 0),
        (0, 10, k.dpkg)] : List (Nat × Nat × Nat)).foldl (fun b f => setFld b f.1 f.2.1 f.2.2) b
    else if k.mc && i < 3 then setFld b 0 512 (fld dests (512 * (i - 1)) 512)
    else b

/-- The first flit's header with the routing fields of a packet as they stand. -/
def Packet.stamp (k : Packet) : Packet :=
  match k.body with
  | [] => k
  | b :: t => { k with body := setFld (setFld (setFld b 38 1 (b2n k.ph)) 28 10 k.ipkg) 39 1 (b2n k.min) :: t }

/-- The choice of a route at the source (R460): the first hop, and the intermediate if there is one. -/
def State.chooseRoute (s : State) (d vc : Nat) (min : Bool) : Option (Nat × Option Nat) :=
  match s.route d with
  | none => none
  | some r =>
    let depth (q : Nat) : Nat := 256 - vget (s.port q).credits vc 0 + 1
    if min then some (r.mport, none)
    else
      let cands := r.ints.filterMap fun i => (s.route i).map fun ri => ((ri.hops + s.liveHops i d) * depth ri.mport, ri.mport, some i)
      (argMin (fun (x : Nat × Nat × Option Nat) => x.1) ((r.hops * depth r.mport, r.mport, none) :: cands)).map (·.2)

/-- A packet of this package enters the fabric. DEDUCED (log 34): unsafe. -/
def State.inject (s : State) (d vc len : Nat) (min : Bool) : Option State :=
  match s.chooseRoute d vc (min || vc == 3 || vc == 4 || vc == 6) with
  | none => none
  | some (q, i) =>
    let k : Packet := { dpkg := d, spkg := s.pkg.toNat, ipkg := i.getD d, ph := i.isNone, min := i.isNone, epoch := s.fab.epoch
                        vc := vc, port := some q }
    let k1 := { k with body := packetBody k (Nat.min 40 len) s.fresh 0 }
    some (({ s with fresh := s.fresh + 1, fab := { s.fab with packets := s.fab.packets ++ [k1] } }).send q)

/-- A multicast packet of this package enters the fabric with its destination string, split over the ports by their reachability masks
(R302). DEDUCED (log 34): unsafe. -/
def State.injectMc (s : State) (len : Nat) (dests : BitVec 1024) : Option State :=
  let ports := (List.range 32).filter fun q => dests &&& s.reachMask q != 0
  if ports.isEmpty then none
  else some (ports.foldl (fun (t : State) q =>
    let m := dests &&& s.reachMask q
    let d := ((List.range 993).find? fun p => m.getLsbD p).getD 0
    let k : Packet := { dpkg := d, spkg := s.pkg.toNat, ipkg := d, ph := true, min := true, mc := true, epoch := s.fab.epoch, vc := 0, port := some q }
    let k1 := { k with body := packetBody k (Nat.min 40 len) s.fresh m }
    ({ t with fab := { t.fab with packets := t.fab.packets ++ [k1] } }).send q) { s with fresh := s.fresh + 1 })

/-- What an output of the package becomes as a packet: its destination, its channel, its flits, and whether it is minimal only.
DEDUCED (log 34): unsafe. -/
def Out.packet : Out → Option (Nat × Nat × Nat × Bool)
  | .message m => some (fld m.addr 53 10, 0, (48 + m.payload.length + 115) / 116, false)
  | .verdict p _ _ _ => some (p, 1, 1, false)
  | .directory _ p _ _ _ => some (p, 4, 1, true)
  | .answer r => some (r.org.toNat, 1, 1, r.attr.ord == 0)
  | .heartbeat p => some (p, 6, 1, true)
  | .declare_ p _ => some (p, 6, 1, true)
  | .linkAck p _ _ => some (p, 6, 1, true)
  | .delta p _ _ _ _ _ _ => some (p, 2, 1, false)
  | .deltaAck p _ _ _ => some (p, 2, 1, false)
  | .partial_ p _ ws => some (p, 5, (16 + 8 * ws.length + 115) / 116, false)
  | .flush p _ _ _ => some (p, 6, 1, true)
  | .ack p => some (p, 6, 1, true)
  | .notice p _ _ => some (p, 6, 1, true)
  | .domain p _ _ _ _ _ _ => some (p, 6, 1, true)
  | .irq _ => none
  | .request _ => none
  | .flit _ _ => none
  | .hostData _ _ => none

/-- Requests of this package that wait to be sent to another. -/
def State.unsent (s : State) : List Req := s.reqs.filter fun r => r.org == 0x3FF && r.stage == .fabric && !r.sent && (match r.op with
  | .mcast _ _ => false
  | _ => true)

/-- Outputs that wait to become packets, by their place. -/
def State.unpacked (s : State) : List Nat :=
  (List.range s.out.length).filter fun i => !s.fab.injected.contains i && ((s.out[i]?).bind Out.packet).isSome

/-- The copies of one multicast, of the same line, that wait to be sent and can be reached. -/
def State.mcSiblings (s : State) (r : Req) : List Req :=
  s.unsent.filter fun q => q.mc && q.grp == r.grp && setFld q.ea 53 10 0 == setFld r.ea 53 10 0 && (s.route (fld q.ea 53 10)).isSome

/-- PACKET_INJECT: the packet at a place among those that wait, requests first, at an S-die that lives. The copies of a multicast leave in one
packet, at S-die 0, or at S-die 1 when that is lost (R302). -/
def execPacketInject (sd k : Nat) (s : State) : Res :=
  if !vget s.dir.live sd false || s.halted then .next s
  else match s.unsent[k]? with
    | some r =>
      let d := fld r.ea 53 10
      if r.mc then
        if sd != 0 && vget s.dir.live 0 false then .next s
        else
          let cs := s.mcSiblings r
          let s0 := cs.foldl (fun (s : State) c => s.modReq c.id fun q => { q with sent := true, since := s.reft }) { s with out := s.out ++ cs.map Out.request }
          .next ((s0.injectMc 3 (cs.foldl (fun m c => m ||| BitVec.twoPow 1024 (fld c.ea 53 10)) 0)).getD s)
      else
        let s0 := { s.modReq r.id (fun q => { q with sent := true, since := s.reft }) with out := s.out ++ [Out.request r] }
        .next ((s0.inject d (if r.isEngine then 2 else 0) 1 (r.attr.ord == 0)).getD s)
    | none =>
      match s.unpacked[k - s.unsent.length]? with
      | none => .next s
      | some i =>
        match (s.out[i]?).bind Out.packet with
        | none => .next s
        | some (d, vc, len, min) =>
          let s0 := { s with fab := { s.fab with injected := s.fab.injected ++ [i] } }
          .next ((s0.inject d vc len min).getD s)

/-- Slots of an input port given back when a packet has left its buffer. -/
def State.giveBack (s : State) (q v n : Nat) : State :=
  let p := s.port q
  s.setPort q { p with returns := vset p.returns v (vget p.returns v 0 + n), free := vset p.free v (vget p.free v 0 + n) }

/-- The slots of its input port that a packet still takes given back. -/
def State.freeSlots (s : State) (k : Packet) : State :=
  match k.inPort with
  | some i => s.giveBack i k.vc (k.body.length - k.sent)
  | none => s

/-- A packet at a router of this package: delivered, held for its intermediate step, or sent on. DEDUCED (log 34): unsafe. -/
def State.forwardPacket (s : State) (k : Packet) : State :=
  let own := s.pkg.toNat
  let back (s : State) : State := s.freeSlots k
  if k.mc then
    let d : BitVec 1024 := BitVec.ofNat 1024 (fld (k.body.getD 1 0) 0 512 + 2 ^ 512 * fld (k.body.getD 2 0) 0 512)
    (List.range 32).foldl (fun s q =>
      let m := d &&& s.reachMask q
      if m == 0 then s
      else
        let body := match k.body with
          | a :: b :: c :: t => a :: setFld b 0 512 (fld m 0 512) :: setFld c 0 512 (fld m 512 512) :: t
          | l => l
        ({ s with fab := { s.fab with packets := s.fab.packets ++ [{ k with body := body, port := some q, inPort := none, sent := 0 }] } }).send q) (back s)
  else if k.dpkg == own then back s
  else if !k.ph && k.ipkg == own then { s with fab := { s.fab with packets := s.fab.packets ++ [{ k with port := none }] } }
  else
    let go (s : State) (k : Packet) (q : Nat) : State := ({ s with fab := { s.fab with packets := s.fab.packets ++ [{ k with port := some q }] } }).send q
    match s.route (if k.ph then k.dpkg else k.ipkg), s.route k.dpkg with
    | some r, _ => go s k r.mport
    | none, some r => go (back s) ({ k with ph := true, min := true, ipkg := k.dpkg, vc := 7, inPort := none } : Packet).stamp r.mport
    | none, none => back s

/-- INTERMEDIATE_FORWARD: the packet at a place, at its intermediate package, is sent on to its destination. -/
def execIntermediateForward (k : Nat) (s : State) : Res :=
  match s.fab.packets[k]? with
  | none => .next s
  | some x =>
    if x.ph || x.ipkg != s.pkg.toNat || x.port.isSome then .next s
    else .next (({ s with fab := { s.fab with packets := removeFirst (· == x) s.fab.packets } }).forwardPacket ({ x with ph := true } : Packet).stamp)

/-! ## Receiving (R464 to R466) -/

/-- A sequence number lies after another, within the window of the replay buffer. -/
def seqAfter (a b : BitVec 12) : Bool := 0 < (a - b).toNat && (a - b).toNat ≤ 512

/-- What the ACK, NAK and slot returns of an intact flit do. -/
def State.flitFields (s : State) (q : Nat) (f : BitVec 1024) : State :=
  let p := s.port q
  let a := flitAck f
  let v := fld f 36 3
  let p1 := { p with
    replay := p.replay.filter fun e => seqAfter e.1 a
    sentPk := p.sentPk.filter fun e => seqAfter e.1 a
    credits := vset p.credits v (vget p.credits v 0 + fld f 30 6)
    lastOk := s.reft }
  let s1 := s.setPort q p1
  if f.getLsbD 39 then s1.replayAll q else s1

/-- A flit is discarded and a NAK becomes due, one until the expected SEQ arrives. -/
def Port.nak (p : Port) (expected : Bool) : Port :=
  if p.nakSent && !expected then p else { p with nakSent := true, nakDue := true, naks := p.naks + 1 }

/-- The free slots that a sync flit reports are compared with the credits (R466). -/
def Port.sync (p : Port) (f : BitVec 1024) : Port :=
  (List.range 8).foldl (fun (p : Port) v =>
    let n := (p.replay.filter fun e => flitType e.2 == 0 && flitVc e.2 == v).length
    let c := fld (flitBody f) (16 * v) 16 - n
    if vget p.credits v 0 == c then p else { p with credits := vset p.credits v c, count := bump p.count 0x02 }) p

/-- The packet of a channel whose last flit has arrived. -/
def packetOf (fs : List (BitVec 1024)) (q v : Nat) : Packet :=
  let b := fs.map flitBody
  let h := b.getD 0 0
  { dpkg := fld h 0 10, spkg := fld h 18 10, ipkg := fld h 28 10, ph := h.getLsbD 38, min := h.getLsbD 39, mc := h.getLsbD 40, epoch := h.getLsbD 41
    vc := v, inPort := some q, body := b }

/-- A data flit in order enters the input buffer; a whole packet is taken up. -/
def State.dataFlit (s : State) (q : Nat) (f : BitVec 1024) : State :=
  let p := s.port q
  let v := flitVc f
  let mine (x : BitVec 1024) : Bool := flitVc x == v
  let rx := p.rx ++ [f]
  let p1 := { p with free := vset p.free v (vget p.free v 0 - 1), rx := if flitEop f then rx.filter (fun x => !mine x) else rx }
  let s1 := s.setPort q p1
  if flitEop f then s1.forwardPacket (packetOf (rx.filter mine) q v) else s1

/-- An idle flit carries a NAK that nothing else carries. -/
def State.sendNak (s : State) (q : Nat) : State :=
  let p := s.port q
  if !p.nakDue then s
  else
    let x := p.flit 2 0 0 false false 0
    (s.setPort q x.1).outFlit q x.2

/-- A flit arrives at a port. -/
def State.recvFlit (s : State) (q : Nat) (f : BitVec 1024) : State :=
  let p := s.port q
  if p.state != 1 || p.dead then s
  else
    let expected := flitSeq f == p.ack + 1
    if !flitIntact f then (s.setPort q (({ p with count := bump p.count 0x00 }).nak expected)).send q |>.sendNak q
    else if 4 ≤ flitType f then s.setPort q { p with count := bump p.count 0x00 }
    else
      let s1 := s.flitFields q f
      let p1 := s1.port q
      let s2 :=
        if 2 ≤ flitType f then s1
        else if !expected then s1.setPort q (p1.nak false)
        else
          let p2 := { p1 with ack := flitSeq f, nakSent := false, naks := 0 }
          if flitType f == 1 then s1.setPort q (p2.sync f) else (s1.setPort q p2).dataFlit q f
      (s2.send q).sendNak q

/-- FLIT_RECEIVE. -/
def execFlitReceive (port : Nat) (flit : BitVec 1024) (s : State) : Res := .next (s.recvFlit port flit)

/-- SYNC_RECEIVE: a flit of type sync. -/
def execSyncReceive (port : Nat) (flit : BitVec 1024) (s : State) : Res := .next (if flitType flit == 1 then s.recvFlit port flit else s)

/-- SYNC_SEND: after 256 sequenced flits, the free slots of each channel are sent. -/
def execSyncSend (port : Nat) (s : State) : Res :=
  let p := s.port port
  if p.state != 1 || p.dead || p.sinceSync < 256 || 512 ≤ p.replay.length then .next s
  else
    let body : BitVec 928 := packFields 928 ((List.range 8).map fun v => (16 * v, 16, vget p.free v 0))
    let x := p.sendSeq 1 0 false false body
    .next (((s.setPort port x.1).outFlit port x.2).send port)

/-! ## Links (R467) -/

/-- LINK_LOSS: a link corrupts a flit, or stops carrying flits. -/
def execLinkLoss (port : Nat) (dead : Bool) (s : State) : Res :=
  let p := s.port port
  .next (if p.state != 1 then s
    else if dead then s.setPort port { p with dead := true }
    else ((s.setPort port (({ p with count := bump p.count 0x00 }).nak true)).send port).sendNak port)

/-- A packet injected again by a live route: on channel 7 when some of it had left. A multicast goes where the masks send it. DEDUCED
(log 34): unsafe. -/
def State.reinject (s : State) (k : Packet) : State :=
  let s0 := if k.sent == 0 then s else s.freeSlots k
  let k1 : Packet := if k.sent == 0 then k else { k with vc := 7, sent := 0, inPort := none }
  let go (s : State) (k : Packet) (q : Nat) : State := ({ s with fab := { s.fab with packets := s.fab.packets ++ [{ k with port := some q }] } }).send q
  if k.mc then s0.forwardPacket k1
  else match s.minRoute (if k.ph then k.dpkg else k.ipkg), s.minRoute k.dpkg with
    | some r, _ => go s0 k1 r.2
    | none, some r => go (s0.freeSlots k1) ({ k1 with vc := 7, inPort := none, ph := true, min := true, ipkg := k.dpkg } : Packet).stamp r.2
    | none, none => s0.freeSlots k1

/-- Packets held for a link that is down go by the routes of the new table (R467). -/
def State.releaseHeld (s : State) : State :=
  let down (k : Packet) : Bool := k.port.any fun q => !s.portUp q
  (s.fab.packets.filter down).foldl (fun s k => s.reinject k)
    { s with fab := { s.fab with packets := s.fab.packets.filter fun (k : Packet) => !down k } }

/-- ROUTE_TABLE_BUILD: the table over live links, and what was held for it. -/
def execRouteTableBuild (s : State) : Res := .next s.buildRoutes.releaseHeld

/-- A link stopped at this end: what its peer has not received goes another way. -/
def State.stopLink (s : State) (q : Nat) (peerAck : BitVec 12) : State :=
  let p := s.port q
  let again := (p.sentPk.filter fun e => seqAfter e.1 peerAck).map (·.2)
  let held := s.fab.packets.filter fun (k : Packet) => k.port == some q
  let s1 := s.setPort q { p with state := 0, count := bump p.count 0x03, replay := [], sentPk := [], rx := [], nakDue := false, nakSent := false, naks := 0 }
  let s2 := { s1 with fab := { s1.fab with packets := s1.fab.packets.filter fun (k : Packet) => k.port != some q } }
  let s3 := (again ++ held).foldl (fun s k => s.reinject k) s2
  match portPeer s.pkg.toNat q with
  | some n => { s3 with out := s3.out ++ [.linkAck n q p.ack] }
  | none => s3

/-- LINK_DOWN: eight NAKs for one SEQ, or 2 µs without an intact flit; the peer's ACK is known. -/
def execLinkDown (port : Nat) (peerAck : BitVec 12) (s : State) : Res :=
  let p := s.port port
  .next (if p.state == 1 && (8 ≤ p.naks || 2000 ≤ (s.reft - p.lastOk).toNat) then s.stopLink port peerAck else s)

/-- LINK_RETRAIN: the Owls retrain a link that is down, and then bring it up. -/
def execLinkRetrain (port : Nat) (s : State) : Res :=
  let p := s.port port
  .next (if 32 ≤ port || (portPeer s.pkg.toNat port).isNone || p.state == 1 then s
    else if p.state == 0 then s.setPort port { p with state := 2 }
    else s.setPort port { ({ } : Port) with state := 1, count := p.count, wcoll := p.wcoll, wother := p.wother, share := p.share, newArb := p.newArb, lastOk := s.reft })

/-- Packets whose intermediate is lost go minimally, on channel 7 (R471). -/
def State.fabLoss (s : State) (p : Nat) : State :=
  let gone := s.fab.packets.filter fun (k : Packet) => !k.ph && k.ipkg == p && k.sent == 0
  let s1 := { s with fab := { s.fab with packets := s.fab.packets.filter fun (k : Packet) => !(!k.ph && k.ipkg == p && k.sent == 0) } }
  gone.foldl (fun s k => (s.freeSlots k).reinject ({ k with inPort := none, ph := true, min := true, ipkg := k.dpkg, sent := 1 } : Packet).stamp) s1

/-! ## The die map (R469, R470) -/

/-- DIE_MAP_UPDATE: an entry of the inactive copy. -/
def execDieMapUpdate (entry : Nat) (val : BitVec 16) (s : State) : Res :=
  .next (if s.fab.draining then s
    else if s.fab.epoch then { s with fab := { s.fab with map0 := vset s.fab.map0 entry val } }
    else { s with fab := { s.fab with map1 := vset s.fab.map1 entry val } })

/-- The die map of the current epoch (R469). -/
def Fabric.map (f : Fabric) : Vector (BitVec 16) 16 := if f.epoch then f.map1 else f.map0

def Fabric.mapBytes (f : Fabric) : List Byte := (List.range 16).flatMap fun k => bytesOf (vget f.map k 0) 2

/-- Where the die map lies in board flash (R512). -/
def flashMap : Nat := 0x04000000

/-- EPOCH_FLIP: the other copy becomes the current one, and board flash gets it. -/
def execEpochFlip (s : State) : Res :=
  let f := { s.fab with epoch := !s.fab.epoch, draining := true }
  .next (if s.fab.draining then s else { s.writeBytes (flashKey flashMap) f.mapBytes with fab := f })

/-- EPOCH_DRAINED: no packet of the old epoch remains. DESIGN CHOICE (log 2): safe. -/
def execEpochDrained (s : State) : Res :=
  .next (if s.fab.packets.all fun k => k.epoch == s.fab.epoch then { s with fab := { s.fab with draining := false } } else s)

end Sys2Proof.Machine
end

