-- ==== Sys2Proof/Machine/Observe.lean ====
section
/-! DEFINITION. Fault packets and collectors, core dumps, trace records and their sinks, power-gated clusters, race sweeps and the
start of service cores (R346, R427 to R429, R437 to R439, R443 to R447, R451). -/
namespace Sys2Proof.Machine

/-! ## Fault packets (R428, R429) -/

def pktType (p : BitVec 256) : Nat := fld p 248 8

/-- Two packets that a router merges: of one page, cause and subject. -/
def pktMerges (a b : Nat × BitVec 256) : Bool :=
  a.1 == b.1 && pktType a.2 == pktType b.2 &&
  (if pktType a.2 == 1 then fld a.2 80 48 == fld b.2 80 48 && fld a.2 144 16 == fld b.2 144 16 && fld a.2 160 16 == fld b.2 160 16
   else fld a.2 16 48 == fld b.2 16 48 && fld a.2 184 8 == fld b.2 184 8 && fld a.2 200 6 == fld b.2 200 6 && fld a.2 208 10 == fld b.2 208 10)

/-- The merged packet: the first one with the bitmaps, and for page faults the slots, of both. -/
def pktMerge (a b : BitVec 256) : BitVec 256 :=
  if pktType a == 1 then setFld (setFld a 0 64 (fld a 0 64 ||| fld b 0 64)) 200 1 1
  else setFld (setFld a 64 64 (fld a 64 64 ||| fld b 64 64)) 192 4 (fld a 192 4 ||| fld b 192 4)

/-- FAULT_PACKET_MERGE: two packets on their way, by their places; the first was received first. -/
def execFaultPacketMerge (j k : Nat) (s : State) : Res :=
  match s.fpkts[j]?, s.fpkts[k]? with
  | some a, some b =>
    .next (if j < k && pktMerges a b then { s with fpkts := (s.fpkts.set j (a.1, pktMerge a.2 b.2)).eraseIdx k } else s)
  | _, _ => .next s

/-- The neighbour of a service core (R439). -/
def neighbourSc (n : Nat) : Nat := if n % 64 == 63 then n - 1 else n + 1

/-- The service core that takes a row's packets: its neighbour while it is frozen, or while its dump was taken over. -/
def State.collectorOf (s : State) (row : Nat) : Nat :=
  let c := s.core (svcBase + row)
  if c.frz.frozen || fld c.dmpc 12 4 == 4 then neighbourSc row else row

/-- COLLECTOR_ENQUEUE: the packet on its way at a place reaches its collector's queue, if that has room. -/
def execCollectorEnqueue (k : Nat) (s : State) : Res :=
  match s.fpkts[k]? with
  | none => .next s
  | some p =>
    let cid := svcBase + s.collectorOf p.1
    let c := s.core cid
    if 128 ≤ c.collector.length then .next s
    else
      let ring (sl : Slot) : Slot := { sl with msgl := true }
      let s1 := { s with fpkts := s.fpkts.eraseIdx k }
      .next (s1.setCore cid { c with collector := c.collector ++ [p.2], slots := c.slots.map ring })

/-! ## Dumps (R437 to R439) -/

/-- DUMP_START. -/
def execDumpStart (sc : Nat) (s : State) : Res := .next (s.dumpStart (svcBase + sc))

/-- The number of the dumped core. -/
def dumpCore (c : Core) : Nat := fld c.dmpc 16 16

/-- The body of a dump image: the debug window, and local memory when it is asked for. DEDUCED (log 27): unsafe. -/
def State.dumpBody (s : State) (core : Nat) (lmem : Bool) : List Byte :=
  ((List.range (0xC000 / 8)).flatMap fun j => bytesOf (s.debugWord core (8 * j)) 8) ++ (if lmem then s.lmRead core 0 0x80000 else [])

/-- The header of a dump image. DEDUCED (log 27): unsafe. -/
def State.dumpHeader (s : State) (sc : Nat) (flash : Bool) : List Byte :=
  let c := s.core (svcBase + sc)
  let n := s.dumpCid c
  let x := s.core n
  bytesOf (packFields 2048 [(0, 16, 1), (80, 16, dumpCore c), (96, 10, s.pkg.toNat), (112, 16, (s.lidOf n).toNat), (128, 64, c.dumpBeg.toNat), (192, 64, s.reft.toNat),
    (264, 8, x.nests), (272, 8, x.ncause.toNat), (280, 1, b2n (c.dmpc.getLsbD 2)), (281, 1, b2n (c.dumpBy != sc)), (282, 1, b2n flash),
    (288, 16, c.dumpBy), (304, 16, sc), (512, 512, x.faultRec.toNat)]) 256

/-- A range can be written through the translations of a context. -/
def State.vaWritable (s : State) (ctx : Nat) (ea : W64) (n : Nat) : Bool :=
  (lineParts ea n).all fun p => match s.vaLeaf ctx p.ea with
    | some (pa, e) => permOk e .write && !s.lineBad pa
    | none => false

def flashDump : Nat := 0x08000000

/-- DUMP_COMPLETE: the body and then the header are written, at the target, or in a slot of board flash where the target cannot be
written, and LMEM is then cleared (R439; the 512 KiB fit the slot and none is omitted); with no slot free, the header alone goes to
the oldest. DEDUCED (log 27): unsafe. -/
def execDumpComplete (sc : Nat) (s : State) : Res :=
  let cid := svcBase + sc
  let c := s.core cid
  if !c.dmpc.getLsbD 1 || s.frozen cid then .next s
  else
    let n := s.dumpCid c
    let ctx := s.ctxOf n
    let body := s.dumpBody n (c.dmpc.getLsbD 2)
    let fin (st : Nat) (s : State) : State := s.modCore cid fun c => { c with dmpc := setFld (setFld c.dmpc 12 4 st) 1 1 0 }
    if s.vaWritable ctx c.dmpt (256 + body.length) then
      .next (fin 0 ((s.vaWrite ctx (addN c.dmpt 256) body).vaWrite ctx c.dmpt (s.dumpHeader sc false)))
    else
      let k := s.host.dumpSlot
      let at_ := flashKey (flashDump + k % 64 * 2 ^ 20)
      let s1 := if k < 64 then s.writeBytes (at_ + 256) body else s
      let s0 := s1.modCore cid fun c => { c with dmpc := setFld c.dmpc 2 1 0 }
      let s2 := s0.writeBytes at_ (s0.dumpHeader sc true)
      .next (fin 3 { s2 with host := { s2.host with dumpSlot := k + 1 } })

/-- DUMP_TAKEOVER: the neighbour of a service core that froze during a dump begins it again, to the same target, and takes
the failed core's packets, as far as its queue holds them. -/
def execDumpTakeover (sc : Nat) (s : State) : Res :=
  let cid := svcBase + sc
  let c := s.core cid
  let nb := svcBase + neighbourSc sc
  let x := s.core nb
  if !s.frozen cid || !c.dmpc.getLsbD 1 || x.dmpc.getLsbD 1 || s.frozen nb then .next s
  else
    let room := 128 - x.collector.length
    let ring (sl : Slot) : Slot := { sl with msgl := true }
    let s1 := s.setCore nb { x with
      dmpt := c.dmpt, dmpc := c.dmpc, dumpBeg := c.dumpBeg, dumpBy := c.dumpBy, collector := x.collector ++ c.collector.take room
      slots := if c.collector.isEmpty then x.slots else x.slots.map ring }
    .next (s1.modCore cid fun c => { c with dmpc := setFld (setFld c.dmpc 12 4 4) 1 1 0, collector := c.collector.drop room })

/-! ## Trace records and sinks (R443 to R447) -/

/-- TRACE_SAMPLE: a sampling period has passed; the next running slot is named. -/
def execTraceSample (cid : Nat) (s : State) : Res :=
  let c := s.core cid
  let now := s.cycOf cid
  if !c.trcc.getLsbD 3 || now.toNat < c.sampleAt.toNat then .next s
  else
    let s1 := s.modCore cid fun c => { c with sampleAt := now + BitVec.ofNat 64 (2 ^ fld c.trcc 4 5) }
    match [1, 2, 3, 4].find? fun d => slotState (c.slot ((c.sampled + d) % 4)) (s.frozen cid) == 1 with
    | none => .next s1
    | some d =>
      let k := (c.sampled + d) % 4
      let s2 := s1.modCore cid fun c => { c with sampled := k }
      .next (s2.traceRec cid k true 0x04 (c.slot k).pc.toNat (s.debugWord cid (0x2000 * k + 0x460)).toNat 0)

def State.sink (s : State) (ctx : Nat) : Sink := tblGetD s.host.sinks ctx {}
def State.setSink (s : State) (ctx : Nat) (k : Sink) : State := { s with host := { s.host with sinks := tblSet ctx k s.host.sinks } }

/-- TSH (R446). -/
def Sink.tsh (k : Sink) : W64 := BitVec.ofNat 64 (k.head.toNat + 2 ^ 32 * k.lost.toNat)

def Sink.logn (k : Sink) : Nat := fld k.tsb 0 5
def Sink.valid (k : Sink) : Bool := 6 ≤ k.logn && k.logn ≤ 24
def Sink.drop (k : Sink) : Sink := { k with lost := if k.lost == 0xFFFFFFFF then k.lost else k.lost + 1 }

/-- A record appended to a context's sink ring, or lost and counted (R446). -/
def State.sinkAppend (s : State) (ctx : Nat) (rec_ : W512) : State :=
  let k := s.sink ctx
  let lost := s.setSink ctx k.drop
  if !k.valid || (k.head - k.tail).toNat == 2 ^ k.logn then lost
  else
    let ea : W64 := BitVec.ofNat 64 (k.tsb.toNat / 4096 * 4096 + k.head.toNat % 2 ^ k.logn * 64)
    if !s.vaWritable ctx ea 64 then lost
    else (s.vaWrite ctx ea (bytesOf rec_ 64)).setSink ctx { k with head := k.head + 1 }

/-- The context whose sink takes a cluster's record: that of its launch, or of a launch that runs on the cluster. DEDUCED (log 58): unsafe. -/
def State.traceCtx (s : State) (cl : Nat) (rec_ : W512) : Nat :=
  match s.launches.find? fun l => l.lid.toNat == fld rec_ 48 16 with
  | some l => l.ctx
  | none =>
    match s.cores.find? fun p => p.2.lid.isSome && clusterOf (coreNo p.2.phys) == cl with
    | some p => s.ctxOf p.1
    | none => 0

/-- TRACE_DRAIN: the oldest record of a cluster's buffer reaches the sink. -/
def execTraceDrain (cl : Nat) (s : State) : Res :=
  let c := s.cluster cl
  match c.trace with
  | [] => .next s
  | r :: t => .next ((s.setCluster cl { c with trace := t }).sinkAppend (s.traceCtx cl r) r)

/-- A PERIOD record. -/
def periodRecord (reft : W64) (old new : BitVec 5) : W512 :=
  packFields 512 [(0, 8, 0x09), (64, 64, reft.toNat), (256, 64, old.toNat), (320, 64, new.toNat)]

/-- LOSS records of the gated clusters whose records the context's sink takes, made by their row collectors (R445). DEDUCED (log 58): unsafe. -/
def State.gatedLoss (s : State) (ctx : Nat) : State :=
  s.clusters.foldl (fun s p =>
    if p.2.gated && p.2.loss != 0 && s.traceCtx p.1 (lossRecord s.reft p.1 p.2.loss) == ctx then (s.setCluster p.1 { p.2 with loss := 0 }).sinkAppend ctx (lossRecord s.reft p.1 p.2.loss) else s) s

/-- SINK_EVALUATE: every 65,536 ticks the period follows the fill of the ring. DEDUCED (log 58): unsafe. -/
def execSinkEvaluate (ctx : Nat) (s : State) : Res :=
  let k := s.sink ctx
  if s.reft.toNat < k.evalAt.toNat then .next s
  else
    let s1 := (s.setSink ctx { k with evalAt := s.reft + 65536 }).gatedLoss ctx
    let k1 := s1.sink ctx
    let f := (k1.head - k1.tail).toNat
    let n := 2 ^ k1.logn
    let cur := if 3 * n < 4 * f && k1.cur.toNat < 24 then k1.cur + 1 else if 4 * f < n && k1.min.toNat < k1.cur.toNat then k1.cur - 1 else k1.cur
    if !k1.adapt || !k1.valid || cur == k1.cur then .next s1
    else
      let put (p : Nat × Core) : Nat × Core :=
        if p.2.lid.isSome && s1.ctxOf p.1 == ctx then (p.1, { p.2 with trcc := setFld p.2.trcc 4 5 cur.toNat }) else p
      .next (({ s1.setSink ctx { k1 with cur := cur } with cores := s1.cores.map put }).sinkAppend ctx (periodRecord s.reft k1.cur cur))

/-- TSH_READ: LOST is cleared by the read. -/
def execTshRead (ctx : Nat) (s : State) : Res := .next ((s.setSink ctx { s.sink ctx with lost := 0 }).readOut (s.sink ctx).tsh)

/-! ## Power-gated clusters (R445) -/

/-- CLUSTER_GATE: a cluster without an activation is gated when its buffer is empty; when gating is forced, the records still held
are lost. -/
def execClusterGate (cl : Nat) (forced : Bool) (s : State) : Res :=
  let c := s.cluster cl
  let busy := s.cores.any fun p => clusterOf (coreNo p.2.phys) == cl && !isSvc p.1 && p.2.slots.toList.any Slot.live
  if c.gated || busy || !c.queue.isEmpty || (!forced && !c.trace.isEmpty) then .next s
  else .next (s.setCluster cl { c with gated := true, trace := [], loss := BitVec.ofNat 32 (min 0xFFFFFFFF (c.loss.toNat + c.trace.length)) })

/-- CLUSTER_WAKE: the LOSS record, if one is due, is the first of the buffer. -/
def execClusterWake (cl : Nat) (s : State) : Res :=
  let c := s.cluster cl
  .next (if !c.gated then s
    else s.setCluster cl { c with gated := false, trace := if c.loss == 0 then [] else [lossRecord s.reft cl c.loss], loss := 0 })

/-! ## Race control (R346) -/

/-- RLOGH_READ: LOST is returned and cleared by the read. -/
def execRloghRead (ctx : Nat) (s : State) : Res :=
  .next ((s.sidePut (s.raceCtl ctx + 20) 4 0).readOut (BitVec.ofNat 64 (s.pocNat (s.raceCtl ctx + 16) 8)))

/-- RACE_SWEEP: the sweep of a context begins, unless one runs. -/
def execRaceSweep (ctx : Nat) (s : State) : Res := .next (s.raceSweep ctx)

/-- RACE_SWEEP_DONE: BUSY is cleared. -/
def execRaceSweepDone (ctx : Nat) (s : State) : Res :=
  let c := s.ctx ctx
  let at_ := s.raceCtl ctx
  .next (if !c.sweep then s
    else (s.sidePut at_ 8 (setFld (BitVec.ofNat 64 (s.pocNat at_ 8)) 1 1 0).toNat).setCtx ctx { c with sweep := false })

/-! ## Service cores (R451) -/

/-- SERVICE_CORE_START: slot 0 of a service core begins its resident program; what it ran before ends, a dump of it stops, and all its
other registers are zero. It is also how the Owls resume a frozen one. DEDUCED (log 27): unsafe. -/
def execServiceCoreStart (sc : Nat) (pcc : W128) (entry : W64) (caps : List W128) (s : State) : Res :=
  if 1024 ≤ sc then .next s
  else
    let cid := svcBase + sc
    let g4 : GReg := { val := BitVec.ofNat 128 sc }
    let give (sl : Slot) (i : Nat) (c : W128) : Slot := { sl with g := vset sl.g (56 + i) { val := c, tag := true }, mbp := sl.mbp ||| BitVec.twoPow 8 i }
    let sl0 : Slot := { run := .running, pc := entry, pcc := pcc, pccTag := true }
    let sl1 := (caps.take 8).zipIdx.foldl (fun sl x => give sl x.2 x.1) { sl0 with g := vset sl0.g 4 g4 }
    let s1 := [0, 1, 2, 3].foldl (fun (s : State) k => if (s.slotAt cid k).live then s.endSlot cid k else s) s
    let c1 := { s1.core cid with
      slots := Vector.replicate 4 {}, frz := {}, sfq := [], sfqOvf := false, prot := Vector.replicate 8 0, dmpt := 0, dmpc := 0 }
    .next (s1.setCore cid (c1.setSlot 0 sl1))

end Sys2Proof.Machine
end

