-- ==== Sys2Proof/Machine/Rings.lean ====
section
/-! DEFINITION. The host command rings: their packets, completions and halts, and what each packet does short of narrowing a launch
(R350, R352 to R357, R519). -/
namespace Sys2Proof.Machine

/-! ## Host memory and interrupts -/

def State.hostRead (s : State) (a n : Nat) : List Byte := s.bytesAt (hostKey a) n
def State.hostWrite (s : State) (a : Nat) (bs : List Byte) : State := s.writeBytes (hostKey a) bs

/-! ## Registers that a summary holds -/

def State.gstat (s : State) : W64 :=
  packFields 64 [(3, 1, b2n s.fab.fenced), (2, 1, b2n s.host.pfvalid), (1, 1, b2n s.host.fwbad), (0, 1, b2n s.host.ready)]

def State.pstat (s : State) : W64 :=
  packFields 64 [(32, 16, s.power.pwr.toNat), (8, 5, s.power.notch), (1, 1, b2n s.power.pin), (0, 1, b2n s.power.met)]

def State.pstepcap (s : State) : W64 := packFields 64 [(16, 16, s.power.pincap.toNat), (0, 16, s.power.cap.toNat)]

def Ring.rstat (r : Ring) : W64 :=
  packFields 64 [(32, 32, r.errpos.toNat), (8, 8, r.err.toNat), (1, 1, b2n r.halt), (0, 1, b2n (r.head == r.tail))]

/-! ## Packets (R352 to R355) -/

def State.ring (s : State) (n : Nat) : Ring := vget s.host.rings n {}
def State.setRing (s : State) (n : Nat) (r : Ring) : State := { s with host := { s.host with rings := vset s.host.rings n r } }

def Ring.logsz (r : Ring) : Nat := fld r.rbase 0 5
def Ring.size (r : Ring) : Nat := 2 ^ r.logsz

/-- The device reads a ring. -/
def Ring.active (r : Ring) : Bool := r.en && !r.halt && 12 ≤ r.logsz && r.logsz ≤ 24 && r.head != r.tail

/-- A packet: its header and the bytes after it. -/
structure HostPkt where
  len   : Nat
  opc   : Nat
  ctx   : Nat
  flags : Nat
  tag   : Nat
  zero  : Nat
  arg   : W128
  body  : List Byte
  deriving DecidableEq, Repr

/-- The packet at a ring's head. -/
def State.hostPacket (s : State) (r : Ring) : HostPkt :=
  let at_ := r.rbase.toNat / 4096 * 4096 + r.head.toNat
  let h := s.hostRead at_ 32
  let num (i n : Nat) : Nat := leNat ((h.drop i).take n)
  { len := num 0 2, opc := num 2 1, ctx := num 3 1, tag := num 4 4, flags := num 8 1, zero := num 9 7, arg := BitVec.ofNat 128 (num 16 16)
    body := s.hostRead (at_ + 32) (num 0 2 - 32) }

/-- The length that R354 gives an opcode, none for PAD. DEDUCED (log 43): unsafe. -/
def HostPkt.want (p : HostPkt) : Option Nat :=
  if p.opc == 0 then none
  else if p.opc == 4 then (if 8 < fld p.arg 0 8 then some 0 else some ((192 + 16 * fld p.arg 0 8 + 31) / 32 * 32))
  else some 32

/-- The bits of ARG that an opcode uses. DEDUCED (log 43): unsafe. -/
def HostPkt.argZero (p : HostPkt) : Bool :=
  if p.opc == 4 then fld p.arg 8 120 == 0
  else if p.opc == 5 then fld p.arg 0 8 ≤ 3 && fld p.arg 8 8 ≤ 1 && fld p.arg 16 48 == 0
  else if p.opc == 6 then fld p.arg 0 64 == 0
  else if p.opc == 7 then fld p.arg 48 80 == 0
  else p.arg == 0

/-- The error with which a packet halts its ring (R355), the checks in this order. DEDUCED (log 43): unsafe. -/
def HostPkt.err (p : HostPkt) (head size : Nat) : Nat :=
  if p.len == 0 || p.len % 32 != 0 || 4096 < p.len then 1
  else if 7 < p.opc then 3
  else if p.want.any (· != p.len) then 1
  else if size < head + p.len then (if p.opc == 0 then 5 else 2)
  else if p.zero != 0 || 64 ≤ p.ctx || 2 ≤ p.flags || !p.argZero then 4
  else if p.opc == 0 && head + p.len != size then 5
  else 0

/-- A ring halted at its head. -/
def Ring.halted (r : Ring) (err : Nat) : Ring := { r with errpos := r.head, err := BitVec.ofNat 8 err, halt := true }

/-- The head past a packet. -/
def Ring.past (r : Ring) (len : Nat) : Ring := { r with head := BitVec.ofNat 32 ((r.head.toNat + len) % r.size) }

/-- A completion record, and the interrupt that the packet asks for. -/
def State.complete (s : State) (n : Nat) (p : HostPkt) (status : Nat) (lid : BitVec 16) : State :=
  let r := s.ring n
  let at_ := r.rcomp.toNat / 4096 * 4096 + r.chead.toNat % 2 ^ fld r.rcomp 0 5 * 16
  let rec_ : BitVec 128 := packFields 128 [(0, 32, p.tag), (32, 8, status), (40, 8, p.opc), (64, 16, lid.toNat)]
  let s1 := (s.hostWrite at_ (bytesOf rec_ 16)).setRing n { r with chead := r.chead + 1 }
  if p.flags % 2 == 1 then s1.irq (1 + n) else s1

/-- The packet at a ring's head, if it is one of an opcode: a malformed one halts the ring, any other takes effect with a status and
a LID, is completed and passed. -/
def State.ringOp (s : State) (n opc : Nat) (act : HostPkt → State → Nat × BitVec 16 × State) : State :=
  let r := s.ring n
  if 16 ≤ n || !r.active || s.host.off || s.host.pfstage == 1 then s
  else
    let p := s.hostPacket r
    let e := p.err r.head.toNat r.size
    if e != 0 then s.setRing n (r.halted e)
    else if p.opc != opc then s
    else
      let x := act p s
      let s1 := if opc == 0 then x.2.2 else x.2.2.complete n p x.1 x.2.1
      s1.setRing n ((s1.ring n).past p.len)

/-- The statuses that R354 adds to those of LAUNCH. -/
def stNOCTX : Nat := 7
def stBUSY : Nat := 8

def execPadPacket (ring : Nat) (s : State) : Res := .next (s.ringOp ring 0 fun _ s => (0, 0, s))
def execNopPacket (ring : Nat) (s : State) : Res := .next (s.ringOp ring 1 fun _ s => (0, 0, s))

/-- RINGRESUME and RINGRESUMESKIP: the halted packet is read again, or passed by its length where that is usable. -/
def State.resumeRing (s : State) (n : Nat) (skip : Bool) : State :=
  let r := s.ring n
  if !r.halt then s
  else
    let p := s.hostPacket r
    let len := if p.len == 0 || p.len % 32 != 0 || 4096 < p.len then 32 else p.len
    let r1 := { r with halt := false, err := 0 }
    s.setRing n (if skip then r1.past len else r1)

def execRingResume (ring : Nat) (s : State) : Res := .next (s.resumeRing ring false)
def execRingResumeSkip (ring : Nat) (s : State) : Res := .next (s.resumeRing ring true)

/-! ## Contexts (R357) -/

/-- The physical address of a context's table entry. -/
def State.ctxEntry (s : State) (k : Nat) : Nat := s.raceCtl k - 32

/-- A context latched from its table entry: an empty event vector, no launch. DEDUCED (log 43): unsafe. -/
def State.latchCtx (s : State) (k : Nat) : Ctx :=
  let bs := s.pocBytes (s.ctxEntry k) 128
  let num (i n : Nat) : Nat := leNat ((bs.drop i).take n)
  { valid := true, ptroot := BitVec.ofNat 64 (num 0 8), flags := BitVec.ofNat 8 (num 8 1), pceil := BitVec.ofNat 2 (num 9 1)
    qdepth := BitVec.ofNat 8 (num 10 1), saveb := BitVec.ofNat 64 (num 16 8), sweep := (s.ctx k).sweep }

/-- CTXINIT. -/
def State.ctxInit (s : State) (k : Nat) : Nat × State :=
  let c := s.latchCtx k
  if !c.flags.getLsbD 0 then (stNOCTX, s) else if s.queueUse k != 0 then (stBUSY, s) else (0, s.setCtx k c)

/-- CTXFREE: the context ends, and its domains' entries with it (R480); its event vector stays until the next CTXINIT (R358).
DEDUCED (log 20): unsafe. -/
def State.ctxFree (s : State) (k : Nat) : Nat × State :=
  if !(s.ctx k).valid then (stNOCTX, s)
  else if s.queueUse k != 0 then (stBUSY, s)
  else (0, { s.setCtx k { ev := (s.ctx k).ev, setter := (s.ctx k).setter } with domains := s.domains.filter fun d => d.ctx != k })

def execCtxinit (ring : Nat) (s : State) : Res := .next (s.ringOp ring 2 fun p s => let r := s.ctxInit p.ctx; (r.1, 0, r.2))
def execCtxfree (ring : Nat) (s : State) : Res := .next (s.ringOp ring 3 fun p s => let r := s.ctxFree p.ctx; (r.1, 0, r.2))

/-! ## Launches and events -/

/-- Bytes of a range that the host lets the device read through a capability: one that passes the checks of R32, of memory that
translates in the context or of a core's local memory. What lies in another package, or behind a capability of kind Local memory, which
names no core here, is open. DEDUCED (log 44): unsafe. -/
def State.hostRange (s : State) (ctx : Nat) (c : W128) (off : W64) (n : Nat) : Option (List Byte) :=
  let a := c.extractLsb' 0 64 + off
  let far (p : Piece) : List Byte := (List.range p.len).map fun i => Config.hostFarByte s.reft.toNat (p.ea.toNat + i)
  let part (p : Piece) : Option (List Byte) :=
    match (if capKind c == 1 then .virt (some 0) 0 else placeOf (rewriteEa s.pkg svcBase p.ea)) with
    | .virt none _ => match s.vaLeaf ctx p.ea with
      | some (pa, e) => if permOk e .read then some (s.pocBytes pa p.len) else none
      | none => none
    | .localMem none core false _ o => some (s.lmRead core o p.len)
    | _ => some (far p)
  if n == 0 then some []
  else if (capCheck c true a.toNat n pLD [0, 1]).isSome || (capKind c == 0 && formBad a) then none
  else
    let ps := (lineParts a n).map part
    if ps.all Option.isSome then some (ps.flatMap fun p => p.getD []) else none

/-- A capability of the host has a legal kind and no bit above. DEDUCED (log 44): unsafe. -/
def hostCapOk (c : W128) : Bool := capKind c != 3 && fld c 124 4 == 0

/-- The submission that a LAUNCH packet describes. DEDUCED (log 44): unsafe. -/
def State.hostLaunch (s : State) (p : HostPkt) : Submission :=
  let d : BitVec 1024 := ofBytes 1024 (p.body.take 128)
  let ws := words16 (p.body.drop 128)
  let code := ws.getD 0 0
  let dat := ws.getD 1 0
  let caps := (ws.drop 2).take (fld p.arg 0 8)
  let get (off : W64) (n : Nat) : List Byte := (s.hostRange p.ctx dat off n).getD []
  let ok (off : W64) (n : Nat) : Bool := (s.hostRange p.ctx dat off n).isSome
  let nr := if fld d 960 16 ≤ 32 then 16 * fld d 960 16 else 0
  let nm := if fld d 640 16 ≤ 4096 then 16 * fld d 640 16 else 0
  let mb := get (descMsgs d) nm
  let ents := (List.range (mb.length / 16)).map fun j => msgEntry ((mb.drop (16 * j)).take 16)
  let len (e : MsgEnt) : Nat := if e.len ≤ 4096 then e.len else 0
  { desc := d, table := words16 (get (descTable d) 512), rgns := words16 (get (descRgns d) nr)
    ents := ents.map fun e => (e, get e.off (len e)), code := code, caps := caps
    bad := !(code :: dat :: caps).all hostCapOk || !hasPerm code pEXEC || capKind code != 0 ||
      !ok (descTable d) 512 || !ok (descRgns d) nr || !ok (descMsgs d) nm || !ents.all fun e => ok e.off (len e) }

def execLaunchPacket (ring : Nat) (s : State) : Res :=
  .next (s.ringOp ring 4 fun p s => if (s.ctx p.ctx).valid then s.submit p.ctx false (s.hostLaunch p) else (stNOCTX, 0, s))

/-- A write of the host through its windows has not performed yet. -/
def State.hostStoresOut (s : State) : Bool := s.reqs.any fun r => r.isHost && r.op.isStore && r.open?

/-- EVENT: the effect of EVSET or EVCLR, without a race identity, as a release of the host's earlier writes (R356). -/
def execEventPacket (ring : Nat) (s : State) : Res :=
  .next (if s.hostStoresOut then s else s.ringOp ring 5 fun p s =>
    if !(s.ctx p.ctx).valid then (stNOCTX, 0, s)
    else
      let w := fld p.arg 0 8
      let m : W64 := p.arg.extractLsb' 64 64
      let old := s.evGet p.ctx w
      (0, 0, s.putEvent p.ctx w (if fld p.arg 8 8 == 1 then old &&& ~~~m else old ||| m) none))

/-! ## The summary (R519) -/

/-- A domain's four bytes: state, FAILS, parent. DESIGN CHOICE (log 46): unsafe. -/
def State.domSummary (s : State) (ctx did : Nat) : List Byte :=
  match s.dom ctx (BitVec.ofNat 4 did) with
  | none => [0, 0, 0, 0]
  | some d => [BitVec.ofNat 8 d.state, BitVec.ofNat 8 d.fails, d.parent.zeroExtend 8, 0]

def LState.code : LState → Nat
  | .queued => 0
  | .eligible => 1
  | .running => 2

/-- A launch's priority: the smaller of its own and its context's ceiling (R360). -/
def State.prioOf (s : State) (l : Launch) : Nat := min l.prio (s.ctx l.ctx).pceil.toNat

/-- DESIGN CHOICE (log 46): unsafe. -/
def State.launchSummary (s : State) (l : Launch) : W64 :=
  packFields 64 [(0, 16, l.lid.toNat), (16, 8, l.ctx), (24, 8, l.state.code), (32, 8, s.prioOf l)]

/-- Bytes filled up with zeros. DESIGN CHOICE (log 46): unsafe. -/
def padTo (n : Nat) (bs : List Byte) : List Byte := bs.take n ++ List.replicate (n - bs.length) 0

/-- The 64 KiB summary. DESIGN CHOICE (log 46): unsafe. -/
def State.summary (s : State) : List Byte :=
  padTo 0x40 ([s.reft, s.host.boots, s.gstat, s.pstat, s.pstepcap, BitVec.ofNat 64 (b2n s.fab.epoch)].flatMap fun (x : W64) => bytesOf x 8) ++
  (s.host.rings.toList.flatMap fun r => bytesOf r.head 4 ++ bytesOf r.tail 4 ++ bytesOf r.rstat 4 ++ bytesOf r.chead 4) ++
  s.fab.mapBytes ++
  ((List.range 64).flatMap fun k => (List.range 4).flatMap fun w => bytesOf (s.evGet k w) 8) ++
  ((List.range 64).flatMap fun k => (List.range 15).flatMap fun d => s.domSummary k (d + 1)) ++
  ((List.range 1024).flatMap fun n => bytesOf (BitVec.ofNat 16 (s.core (svcBase + n)).collector.length) 2) ++
  padTo 0x2000 (s.host.pend.flatMap fun r => bytesOf r 32) ++
  padTo 0x8000 (s.launches.flatMap fun l => bytesOf (s.launchSummary l) 8) ++
  List.replicate 0x3FA0 0

/-- RESYNC. -/
def execResync (ring : Nat) (s : State) : Res :=
  .next (s.ringOp ring 6 fun p s => (0, 0, s.hostWrite (fld p.arg 64 64) s.summary))

end Sys2Proof.Machine
end

