-- ==== Sys2Proof/Machine/Sched.lean ====
section
/-! DEFINITION. The scheduler: admission, retirement, narrowing and widening of launches (R18, R350, R359 to R364, R366). -/
namespace Sys2Proof.Machine

/-! ## Rectangles and live groups -/

/-- A rectangle of cores: origin and size in global coordinates. -/
structure Rect where
  x : Nat
  y : Nat
  w : Nat
  h : Nat
  deriving DecidableEq, Repr

def Rect.meets (a b : Rect) : Bool := a.x < b.x + b.w && b.x < a.x + a.w && a.y < b.y + b.h && b.y < a.y + a.h
def Rect.inside (a b : Rect) : Bool := b.x ≤ a.x && a.x + a.w ≤ b.x + b.w && b.y ≤ a.y && a.y + a.h ≤ b.y + b.h
def Rect.cores (r : Rect) : List Nat := (List.range r.h).flatMap fun j => (List.range r.w).map fun i => coreAt (r.x + i) (r.y + j)

def Launch.rect (l : Launch) : Rect := { x := l.ox, y := l.oy, w := l.w, h := l.h }

/-- The rectangle of a group given by its relative origin and the logarithms of its size. -/
def Launch.groupRect (l : Launch) (g : Nat × Nat × Nat × Nat) : Rect := { x := l.ox + g.1, y := l.oy + g.2.1, w := 2 ^ g.2.2.1, h := 2 ^ g.2.2.2 }

/-- The whole rectangle as a live group. -/
def Launch.whole (l : Launch) : Nat × Nat × Nat × Nat := (0, 0, l.logw, l.logh)

/-- The physical cores that a running launch holds, and those it is being moved to. -/
def Launch.occupies (l : Launch) (r : Rect) : Bool :=
  l.state == .running && ((l.groupRect l.live).meets r || l.moving.any fun g => (l.groupRect g).meets r)

/-- A core of a rectangle is retired, and so is never allocated again (R495). -/
def State.rectDead (s : State) (r : Rect) : Bool :=
  s.cores.any fun p => p.2.retired && p.1 < 65536 && (({ x := gblX p.1, y := gblY p.1, w := 1, h := 1 } : Rect).inside r)

/-- A rectangle is reserved for another launch, earlier than for this one. -/
def State.rectTaken (s : State) (lid : BitVec 16) (r : Rect) : Bool :=
  let mine := s.launches.find? fun l => l.lid == lid && l.reserved
  s.launches.any fun o => o.lid != lid && o.reserved && o.rect.meets r && (match mine with
    | some l => decide (o.resAt < l.resAt)
    | none => true)

/-- A rectangle is free: none of its cores holds a logical core of a running launch, nor was retired; and it is reserved for no
other launch (R360, R495). DEDUCED (log 45): unsafe. -/
def State.rectFree (s : State) (lid : BitVec 16) (r : Rect) : Bool :=
  s.launches.all (fun o => o.lid == lid || !o.occupies r) && !s.rectTaken lid r && !s.rectDead r

/-! ## Narrowing: the choice of a group (R362) -/

/-- The aligned groups of a launch of given logarithms of size. -/
def Launch.groups (l : Launch) (lw lh : Nat) : List (Nat × Nat × Nat × Nat) :=
  (List.range (2 ^ (l.logh - lh))).flatMap fun j => (List.range (2 ^ (l.logw - lw))).map fun i => (i * 2 ^ lw, j * 2 ^ lh, lw, lh)

/-- The largest group in the live group that is disjoint from a rectangle: ties to the lower y origin, the lower x origin, the
wider one. -/
def Launch.groupFrom (l : Launch) (a : Rect) : Option (Nat × Nat × Nat × Nat) :=
  let live := l.groupRect l.live
  let fits (lw lh : Nat) : List (Nat × Nat × Nat × Nat) := (l.groups lw lh).filter fun g => (l.groupRect g).inside live && !(l.groupRect g).meets a
  let ofArea (k : Nat) : List (Nat × Nat × Nat × Nat) :=
    (List.range (k + 1)).reverse.flatMap fun lw => if lw ≤ l.logw && k - lw ≤ l.logh then fits lw (k - lw) else []
  (List.range (l.logw + l.logh + 1)).reverse.findSome? fun k => argMin (fun g => g.2.1 * 65536 + g.1 * 256 + (255 - g.2.2.1)) (ofArea k)

/-- The fold factor of a live group. -/
def Launch.fold (l : Launch) (g : Nat × Nat × Nat × Nat) : Nat := l.w * l.h / (2 ^ g.2.2.1 * 2 ^ g.2.2.2)

/-- A launch may take a live group: its slices hold all but the L1, a fused launch keeps whole clusters, and tiles have a save
area where clusters would share. -/
def State.mayHold (s : State) (l : Launch) (g : Nat × Nat × Nat × Nat) : Bool :=
  l.fold g * (0x80000 - (l.lmb 3 - l.lmb 2)) ≤ 0x80000 && (!l.fused || (2 ≤ g.2.2.1 && 1 ≤ g.2.2.2)) &&
  ((s.ctx l.ctx).saveb != 0 || max 1 (l.w / 4) * max 1 (l.h / 2) ≤ max 1 (2 ^ g.2.2.1 / 4) * max 1 (2 ^ g.2.2.2 / 2))

/-- The group to which a launch is narrowed away from a rectangle, where R362 permits it, NOPREEMPT apart. DEDUCED (log 45):
unsafe. -/
def State.narrowTo (s : State) (l : Launch) (a : Rect) : Option (Nat × Nat × Nat × Nat) :=
  if l.state != .running || l.moving.isSome || l.rect.inside a then none
  else match l.groupFrom a with
    | some g => if s.mayHold l g then some g else none
    | none => none

/-- The CYC that times a launch's grace: that of the die of its origin. DEDUCED (log 47): unsafe. -/
def State.launchCyc (s : State) (l : Launch) : W64 := (s.die (dieOf (coreAt l.ox l.oy))).cyc

/-- Step 1: the launch is to move to a group, for the sake of another launch if `by_` names one. -/
def State.narrow (s : State) (lid : BitVec 16) (g : Nat × Nat × Nat × Nat) (by_ : Option (BitVec 16)) : State :=
  { s with launches := replaceFirst (fun l => l.lid == lid) (fun (l : Launch) =>
      { l with moving := some g, graceAt := s.launchCyc l + BitVec.ofNat 64 l.timeout, narrowBy := by_ }) s.launches }

/-! ## Admission (R18, R20, R36, R211, R350, R359) -/

/-- A slot of a member core at launch start. DEDUCED (log 18): unsafe. -/
def Slot.admitted (sl : Slot) (l : Launch) (core k : Nat) : Slot :=
  let seed := l.seed ^^^ BitVec.ofNat 64 (core * 4 + k)
  let sl1 := { sl.toDormant.clearMail with
    warn := 0, fpc := 0, seed := if seed == 0 then 1 else seed, clk := 0, gen := 0, hzn := Vector.replicate 16 {}
    hznUse := [], hznev := 0, msgl := false, jobl := false }
  l.caps.zipIdx.foldl (fun (sl : Slot) x =>
    { sl with g := vset sl.g (56 + x.2) { val := x.1, tag := true }, mbp := sl.mbp ||| BitVec.twoPow 8 x.2 }) sl1

/-- A member core at launch start. DEDUCED (log 18): unsafe. -/
def Core.admitted (c : Core) (l : Launch) (core : Nat) : Core :=
  { c with
    lid := some l.lid
    slots := Vector.ofFn fun k => (c.slot k.val).admitted l core k.val
    lmb1 := BitVec.ofNat 20 (l.lmb 1), lmb2 := BitVec.ofNat 20 (l.lmb 2), lmb3 := BitVec.ofNat 20 (l.lmb 3)
    prot := Vector.replicate 8 0
    handlers := Vector.ofFn fun i => l.table.getD i.val 0
    regions := Vector.ofFn fun i => l.rgns.getD i.val 0
    nrgn := l.nrgn
    bufs := Vector.replicate 32 {}
    ep := Vector.ofFn fun i => hePrio (l.table.getD i.val 0)
    age := Vector.replicate 32 0, last := Vector.replicate 4 31
    links := Vector.replicate 4 [], l1 := [], fused := l.fused, noL1 := false, rows := [] }

/-- The leaves below a table at a level, with the virtual address each maps and the place of its entry. -/
def State.leaves (s : State) (t base : Nat) : Nat → List (Nat × Nat × Nat × W64)
  | 0 => (List.range 32).filterMap fun i =>
      let e : W64 := BitVec.ofNat 64 (s.pocNat (t + 8 * i) 8)
      if e.getLsbD 0 && e.getLsbD 1 then some (t + 8 * i, 0, base + i * 2 ^ 16, e) else none
  | l + 1 => (List.range (if l == 2 then 2 ^ 17 else if l == 1 then 64 else 512)).flatMap fun i =>
      let e : W64 := BitVec.ofNat 64 (s.pocNat (t + 8 * i) 8)
      let va := base + i * 2 ^ pageBits (l + 1)
      if !e.getLsbD 0 then []
      else if e.getLsbD 1 then [(t + 8 * i, l + 1, va, e)]
      else s.leaves (fld e 8 32 * 256) va l

/-- The leaves of a context's page table. -/
def State.ctxLeaves (s : State) (ctx : Nat) : List (Nat × Nat × Nat × W64) := s.leaves (fld (s.ctx ctx).ptroot 20 20 * 2 ^ 20) 0 3

/-- The lines of 64 KiB of code at an address, by the number of the line in the address that a fetch of a core forms. -/
def State.codeLines (s : State) (ctx core : Nat) (a : W64) : Tbl W512 :=
  let ea := rewriteEa s.pkg core a
  let key (j : Nat) : Nat := ea.toNat / 65536 * 1024 + j
  match s.vaLeaf ctx a, placeOf ea with
  | some (pa, _), _ => (List.range 1024).map fun j => (key j, s.pocLine (pa / 65536 * 1024 + j))
  | none, .localMem none c false _ off =>
    if formBad ea then []
    else (List.range 1024).map fun j => (key j, ofBytes 512 (s.lmRead c (off / 65536 * 65536 + 64 * j) 64))
  | none, _ => []

/-- The lines of a launch's code that translate, or that lie in local memory, as they stand at admission (R75). Of a code capability of more
than 2^16 pages of 64 KiB, every page that the context maps and the local memory of the launch's cores. DESIGN CHOICE (log 14): unsafe. -/
def State.codeImage (s : State) (ctx : Nat) (cores : List Nat) (code : W128) : Tbl W512 :=
  match capDecode code with
  | none => []
  | some (b, t) =>
    if t ≤ b then []
    else if (t - 1) / 65536 - b / 65536 < 2 ^ 16 then
      (List.range ((t - 1) / 65536 - b / 65536 + 1)).flatMap fun i =>
        let a := BitVec.ofNat 64 ((b / 65536 + i) * 65536)
        ((if !a.getLsbD 63 && a.getLsbD 36 then cores else [0]).flatMap fun c => s.codeLines ctx c a).filter fun x =>
          (i != 0 || b / 64 % 1024 ≤ x.1 % 1024) && ((b / 65536 + i) != (t - 1) / 65536 || x.1 % 1024 ≤ (t - 1) / 64 % 1024)
    else
      ((s.ctxLeaves ctx).flatMap fun l => (List.range (2 ^ pageBits l.2.1 / 65536)).flatMap fun i =>
        s.codeLines ctx 0 (packFields 64 [(63, 1, 1), (53, 10, 0x3FF), (0, 53, l.2.2.1 + 65536 * i)])) ++
      cores.flatMap fun c => (List.range 8).flatMap fun i => s.codeLines ctx c (coreAddr c (65536 * i))

/-- An initial message placed complete in its buffer. -/
def State.placeInitial (s : State) (m : Msg) : State :=
  match s.judge m.core m with
  | .room b pos =>
    match execPayloadComplete m.core m.chan s.nextId true (s.take m.core m b pos) with
    | .next s' => s'
    | _ => s
  | _ => s

/-- ADMIT: every member core takes the launch's image, and the initial messages are delivered. -/
def State.admitLaunch (s : State) (l : Launch) : State :=
  let l1 := { l with state := .running, live := l.whole, reserved := false, image := s.codeImage l.ctx l.rect.cores l.code }
  let s1 := { s with launches := replaceFirst (fun x => x.lid == l.lid) (fun _ => l1) s.launches }
  let s2 := l.rect.cores.foldl (fun s core =>
    let s' := s.modCore core fun c => c.admitted l core
    let cl := clusterOf core
    s'.setCluster cl ((s'.cluster cl).resetTiles (ownTiles core))) s1
  l.msgs.foldl State.placeInitial s2

/-! ## The scheduling pass (R360) -/

/-- The order of a pass. -/
def State.before (s : State) (a b : Launch) : Bool :=
  let p := s.prioOf a
  let q := s.prioOf b
  q < p || (p == q && (a.since.toNat < b.since.toNat || (a.since == b.since && a.lid.toNat ≤ b.lid.toNat)))

/-- A pass's turn of one eligible launch, as it stands when the turn comes. -/
def State.schedule (s : State) (lid : BitVec 16) : State :=
  match s.launches.find? fun l => l.lid == lid && l.state == .eligible with
  | none => s
  | some l =>
    if s.rectFree lid l.rect then s.admitLaunch l
    else
      let others := s.launches.filter fun o => o.occupies l.rect
      let can (o : Launch) : Bool :=
        s.prioOf o < s.prioOf l && !(s.ctx o.ctx).flags.getLsbD 2 &&
        ((s.narrowTo o l.rect).isSome || o.moving.any fun g => !(o.groupRect g).meets l.rect)
      if s.rectDead l.rect || !others.all can then s
      else
        let s1 := others.foldl (fun s o => match s.narrowTo o l.rect with
          | some g => s.narrow o.lid g (some lid)
          | none => s) s
        if l.reserved then s1
        else { s1 with
          launches := replaceFirst (fun x => x.lid == lid) (fun (x : Launch) => { x with reserved := true, resAt := s1.nextId }) s1.launches
          nextId := s1.nextId + 1 }

/-- SCHEDULING_PASS. -/
def execSchedulingPass (s : State) : Res :=
  if s.host.off || s.host.pfstage != 0 || s.fab.fenced then .next s
  else
    let ls := (s.launches.filter fun l => l.state == .eligible).mergeSort fun a b => s.before a b
    .next ((ls.map (·.lid)).foldl (fun s lid => s.schedule lid) s)

/-! ## Retirement (R359) -/

/-- A launch is quiescent. DEDUCED (log 23): unsafe. -/
def State.quiescent (s : State) (l : Launch) : Bool :=
  (s.members l.lid).all (fun cid =>
    let c := s.core cid
    [0, 1, 2, 3].all (fun k => !(c.slot k).live) && c.bufs.toList.all fun b => b.recs.isEmpty) &&
  !s.msgs.any (fun m => m.lid == l.lid) && !s.spills.any (fun x => x.2.any fun m => m.lid == l.lid) &&
  !s.clusters.any (fun x => x.2.held.any fun m => m.lid == l.lid) && !s.cores.any (fun x => x.2.sendq.any fun m => m.lid == l.lid) &&
  !s.anyJob (fun j => j.lid == l.lid)

/-- LAUNCH_RETIRE. -/
def execLaunchRetire (lid : Nat) (s : State) : Res :=
  match s.launches.find? fun l => l.lid.toNat == lid && l.state == .running with
  | none => .next s
  | some l => .next (if l.ending || s.quiescent l then s.retireLaunch l else s)

/-! ## Narrowing: the move (R363) -/

/-- The members whose physical core changes. -/
def State.movers (s : State) (l : Launch) : List Nat :=
  (s.members l.lid).filter fun cid => l.moves (coreNo cid) (s.core cid).phys

/-- A slot whose activation runs or sleeps, suspended without a fault. -/
def Slot.suspend (sl : Slot) : Slot :=
  match sl.run with
  | .running => { sl with run := .suspended none }
  | .sleeping .stall => { sl with run := .suspended none }
  | .sleeping (.block _) => { sl with run := .suspended none }
  | .sleeping w => { sl with run := .suspended (some w) }
  | _ => sl

/-- A narrowing waits for the die map: an update is under way, or a C-die that a moving core leaves or is to reach works no more and has not
been replaced, nor its groups fenced (R366). -/
def State.mapHeld (s : State) (l : Launch) : Bool :=
  s.fab.draining || (s.movers l).any fun cid =>
    let goTo : Nat := match l.moving with
      | some g => l.physIn g (coreNo cid)
      | none => (s.core cid).phys
    !l.fenced (coreNo cid) && ((s.dieAt cid).dead || (s.die (dieOf goTo)).dead)

/-- VACATE_GRACE_EXPIRY: activations of the moving cores that still run or sleep are suspended. -/
def execVacateGraceExpiry (lid : Nat) (s : State) : Res :=
  match s.launches.find? fun l => l.lid.toNat == lid && l.state == .running with
  | none => .next s
  | some l =>
    if l.moving.isNone || s.mapHeld l || (s.launchCyc l).toNat < l.graceAt.toNat then .next s
    else
      .next (((s.movers l).filter fun cid => !s.frozen cid).foldl (fun s cid => s.modCore cid fun c => { c with slots := c.slots.map Slot.suspend }) s)

/-- The bytes of a moving core that are copied: named regions and the records of its input buffers. DEDUCED (log 47): unsafe. -/
def Core.keeps (c : Core) (off : Nat) : Bool :=
  ((c.regions.toList.take c.nrgn).any fun r => rgnKind r ≤ 1 && rgnBase r ≤ off && off < rgnBase r + rgnSize r) ||
  (List.range 32).any fun ch => (c.buf ch).recs.any fun r => recOff c ch r ≤ off && off < recOff c ch r + r.size

/-- A byte of a moved core's local memory that was not copied: the ephemeral and L1 ranges are empty, and of any other nothing is
said. DEDUCED (log 47): unsafe. -/
def Core.lostAt (c : Core) (seed off : Nat) : Byte :=
  if c.lmb1.toNat ≤ off && off < c.lmb3.toNat then memDefault else Config.lostByte seed off

/-- A core's local memory as it is after a move, under another identifier. DEDUCED (log 47): unsafe. -/
def State.moveMemory (s : State) (old new : Nat) (c : Core) : State :=
  let bs := (List.range 0x80000).map fun off => if c.keeps off then memGet s.mem (lmKey old off) else c.lostAt s.fresh off
  let of (cid k : Nat) : Bool := lmKey cid 0 ≤ k && k < lmKey cid 0x80000
  let keepTags := s.tags.filter fun t => of old (16 * t) && c.keeps (16 * t - lmKey old 0) && c.keeps (16 * t + 15 - lmKey old 0)
  let keepErrs := s.errs.filter fun e => of old e.1 && c.keeps (e.1 - lmKey old 0)
  { s with
    fresh := s.fresh + 1
    mem := memPuts (s.mem.filter fun (x : Host.Cell) => !(of old x.1 || of new x.1)) (lmKey new 0) bs
    tags := keepTags.foldl (fun t g => insNat (g - lmKey old 0 / 16 + lmKey new 0 / 16) t) (s.tags.filter fun t => !(of old (16 * t) || of new (16 * t)))
    errs := (s.errs.filter fun e => !(of old e.1 || of new e.1)) ++ keepErrs.map fun e => (e.1 - lmKey old 0 + lmKey new 0, e.2) }

/-- What a vacated physical core keeps: its own accounting, and whether it is retired. -/
def Core.vacated (c : Core) (n : Nat) : Core :=
  { phys := n, dlyt := c.dlyt, served := c.served, bankRef := c.bankRef, retired := c.retired }

/-- A logical core moves to another physical core (steps 3 and 5). DEDUCED (log 47): unsafe. -/
def State.moveCore (s : State) (l : Launch) (old goTo : Nat) : State :=
  let core := coreNo old
  let new := if goTo == core then core else 65536 * (1 + l.lid.toNat) + core
  let c := s.core old
  let home := s.core core
  let m (x : Msg) : Msg := if x.cid == old then { x with cid := new } else x
  let c1 := { c with
    phys := goTo, rows := [], l1 := [], utlb := [], lacc := [], sendq := c.sendq.map m
    bufs := c.bufs.map fun (b : Buf) => { b with recs := b.recs.map fun (r : Rec) => { r with msg := m r.msg } }
    dlyt := if new == core then home.dlyt else c.dlyt
    served := if new == core then home.served else c.served
    slots := c.slots.map Slot.suspend
    bankRef := if new == core then home.bankRef else c.bankRef
    retired := if new == core then home.retired else false }
  let s1 := (s.moveMemory old new c).renameCore old new
  let s2 := if old == core then s1.setCore old (home.vacated old) else { s1 with cores := tblErase old s1.cores }
  s2.setCore new c1

/-- A logical cluster of a launch: one of its cores, and its number. -/
def logClusters (cids : List Nat) : List (Nat × Nat) :=
  (cids.map fun cid => (clusterOf (coreNo cid), cid)).foldl (fun acc x => if acc.any fun y => y.1 == x.1 then acc else acc ++ [x]) []

/-- The logical clusters of a launch whose tiles stay where they are when it moves to a group. -/
def State.tilesStay (s : State) (l : Launch) (g : Nat × Nat × Nat × Nat) : List Nat :=
  ((logClusters (s.members l.lid)).filter fun x =>
    s.tilesHere x.2 && clusterOf (s.core x.2).phys == clusterOf (l.physIn g (coreNo x.2))).map (·.1)

/-- The tiles of a launch's clusters that change their place go to their save records. DEDUCED (log 47): unsafe. -/
def State.saveTiles (s : State) (l : Launch) (stay : List Nat) : State :=
  (logClusters (s.members l.lid)).foldl (fun s x =>
    if s.tilesHere x.2 && !stay.contains x.1 then
      s.vaWrite l.ctx (l.saveAt (s.ctx l.ctx).saveb (clusterCorner x.1)) (tileBytes (s.cluster (s.clusterId x.2)))
    else s) s

/-- The tiles of a cluster that belong to a launch, whoever of its cores owns them now. -/
def Launch.tilesOf (l : Launch) (cl : Nat) : List Nat :=
  (List.range 16).filter fun t =>
    let c := clusterCorner cl
    l.holds? (coreAt (gblX c + t / 2 % 4) (gblY c + t / 8))

/-- A logical cluster of a launch takes another number: its tiles, its jobs, the submissions that wait for it and its engines' messages
follow. -/
def State.renameCluster (s : State) (l : Launch) (old new : Nat) : State :=
  let a := s.cluster old
  let ts := l.tilesOf old
  let b := s.cluster new
  let mine (j : Job) : Bool := j.lid == l.lid
  let of (m : Msg) : Bool := m.lid == l.lid
  if old == new then s
  else
    let sub (w : Wait) : Wait := match w with
      | .submit win d len clr warn inc => .submit (if win == old then new else win) d len clr warn inc
      | w => w
    let stalled (sl : Slot) : Slot := { sl with run := match sl.run with
      | .sleeping w => .sleeping (sub w)
      | .suspended (some w) => .suspended (some (sub w))
      | r => r }
    let s := { s with cores := s.cores.map fun (p : Nat × Core) => if p.2.lid == some l.lid then (p.1, { p.2 with slots := p.2.slots.map stalled }) else p }
    let s1 := s.setCluster new { b with
      tiles := ts.foldl (fun v t => vset v t (a.tile t)) b.tiles
      queue := b.queue ++ a.queue.filter mine
      held := b.held ++ a.held.filter of }
    if 8192 ≤ old then { s1 with clusters := tblErase old s1.clusters }
    else s1.setCluster old { a.resetTiles ts with queue := a.queue.filter fun j => !mine j, held := a.held.filter fun m => !of m }

/-- The tiles of a launch's clusters when its new map holds: those that stayed are resident; with the whole rectangle back, the others are
loaded. DEDUCED (log 47): unsafe. -/
def State.placeTiles (s : State) (l : Launch) (stay : List Nat) : State :=
  (logClusters (s.members l.lid)).foldl (fun s x =>
    let id := s.clusterId x.2
    let c := s.cluster x.1
    if l.narrowed then
      if stay.contains x.1 then s.setCluster x.1 { c with resident := c.resident ++ [id] } else s
    else if stay.contains x.1 then s
    else
      let s := s.vaTouches l.ctx (l.saveAt (s.ctx l.ctx).saveb (clusterCorner x.1)) 20480
      let ts := tilesFrom (s.vaRead l.ctx (l.saveAt (s.ctx l.ctx).saveb (clusterCorner x.1)) 20480)
      s.setCluster id { c with tiles := (l.tilesOf x.1).foldl (fun v t => vset v t (vget ts t {})) c.tiles }) s

/-- The moving cores are idle: their activations have ended, are suspended or are frozen, and no access, message payload or job is under
way; an access that is complete but for its instruction's retirement moves with its slot (R18, R363). -/
def State.idleMovers (s : State) (ms : List Nat) : Bool :=
  ms.all fun cid =>
    let c := s.core cid
    (s.frozen cid || [0, 1, 2, 3].all fun k => match (c.slot k).run with
      | .dormant => true
      | .suspended _ => true
      | _ => false) &&
    !s.reqs.any (fun r => r.org == 0x3FF && r.cid == cid) && !s.accs.any (fun a => a.cid == cid && a.left != 0) && !s.anyJob (fun j => j.cid == cid) &&
    c.lacc.isEmpty

/-- NARROW_REMAP: the launch's L1 partitions are written back and set to size 0; then, with the moving cores idle, they are copied to
their new physical cores, the map is written and the vacated cores are reset. -/
def execNarrowRemap (lid : Nat) (s : State) : Res :=
  match s.launches.find? fun l => l.lid.toNat == lid && l.state == .running with
  | none => .next s
  | some l =>
    match l.moving with
    | none => .next s
    | some g =>
      let all := s.members l.lid
      let ms := s.movers l
      if s.mapHeld l then .next s
      else if all.any fun cid => !(s.core cid).noL1 then
        .next (all.foldl (fun s cid =>
          let s1 := (s.core cid).l1.foldl (fun s x => s.writeBack x.cid x.slot x) s
          s1.modCore cid fun c => { c with l1 := [], noL1 := true }) s)
      else if !s.idleMovers ms then .next s
      else
        let stay := s.tilesStay l g
        let s1 := s.saveTiles l stay
        let fwd (m : Msg) : Msg := if m.inFlight && m.lid != l.lid && ms.contains (s.msgCid m) then { m with fwd := some l.lid } else m
        let s1' : State := { s1 with msgs := s1.msgs.map fwd, spills := s1.spills.map fun (x : Nat × List Msg) => (x.1, x.2.map fwd) }
        let s2 := ms.foldl (fun (s : State) cid => s.moveCore l cid (l.physIn g (coreNo cid))) s1'
        let l1 := { l with live := g, moving := none }
        let s3 := { s2 with
          launches := replaceFirst (fun x => x.lid == l.lid) (fun _ => l1) s2.launches
          clusters := s2.clusters.map fun (p : Nat × Cluster) => (p.1, { p.2 with resident := p.2.resident.filter fun c => c / 8192 != 1 + l.lid.toNat }) }
        let s4 := (logClusters all).foldl (fun s1 x =>
          s1.renameCluster l (s.clusterId x.2) (if l1.narrowed then l1.clusterNo x.1 else x.1)) s3
        let s5 := s4.placeTiles l1 stay
        .next (if l1.narrowed then s5 else (s5.members l.lid).foldl (fun s cid => s.modCore cid fun c => { c with noL1 := false }) s5)

/-- WIDEN: the launch that caused a narrowing has retired and the whole rectangle is free. -/
def execWiden (lid : Nat) (s : State) : Res :=
  match s.launches.find? fun l => l.lid.toNat == lid && l.state == .running with
  | none => .next s
  | some l =>
    let gone : Bool := match l.narrowBy with
      | none => false
      | some n => !s.launches.any fun x => x.lid == n
    .next (if gone && l.moving.isNone && l.live != l.whole && s.rectFree l.lid l.rect then s.narrow l.lid l.whole none else s)

/-- VACATE: a running launch of the context is narrowed away from one of its groups. Status RECT where it cannot be. DEDUCED
(log 45): unsafe. -/
def State.vacate (s : State) (ctx : Nat) (arg : W128) : Nat × State :=
  let lw := fld arg 16 8
  let lh := fld arg 24 8
  let g := (fld arg 32 8, fld arg 40 8, lw, lh)
  match s.launches.find? fun l => l.lid.toNat == fld arg 0 16 && l.ctx == ctx && l.state == .running with
  | none => (3, s)
  | some l =>
    if l.logw < lw || l.logh < lh || g.1 % 2 ^ lw != 0 || g.2.1 % 2 ^ lh != 0 || l.w ≤ g.1 || l.h ≤ g.2.1 ||
        (l.groupRect l.live).inside (l.groupRect g) then (3, s)
    else match s.narrowTo l (l.groupRect g) with
      | some g' => if g' == l.live then (0, s) else (0, s.narrow l.lid g' none)
      | none => (3, s)

def execVacate (ring : Nat) (s : State) : Res :=
  .next (s.ringOp ring 7 fun p s =>
    if !(s.ctx p.ctx).valid then (stNOCTX, 0, s)
    else
      let r := s.vacate p.ctx p.arg
      (r.1, 0, r.2))

end Sys2Proof.Machine
end

