-- ==== Sys2Proof/Machine/DomEv.lean ====
section
/-! DEFINITION. Containment: the completion of domains, errors charged to them, their restore and the re-issue of their root tasks
(R473, R480 to R484, R488, R498, R524, R525). -/
namespace Sys2Proof.Machine

/-! ## Parity syncs (R488) -/

/-- The dirty home lines of erasure groups that satisfy a test written back, with their deltas. DEDUCED (log 49): unsafe. -/
def State.syncLines (s : State) (test : Nat × Nat → Bool) : State :=
  (List.range 6).foldl (fun s m =>
    let hit (l : LlcLine) : Bool := !l.frn && l.dirty && l.egrp.any fun e => test (e.1.toNat, e.2)
    let s1 := ((s.mdie m).llc.filter hit).foldl (fun s l => s.llcWriteBack l true) s
    s1.setMdie m { s1.mdie m with llc := (s1.mdie m).llc.map fun (l : LlcLine) => if hit l then { l with dirty := false } else l }) s

/-- A sync of groups begins: their outstanding deltas are waited for as well. -/
def State.beginSync (s : State) (groups : Nat → Bool) (test : Nat × Nat → Bool) : State :=
  let s1 := { s with host := { s.host with deltas := s.host.deltas.map fun (d : Delta) => if groups d.egrp then { d with sync := true } else d } }
  s1.syncLines test

def State.syncOpen (s : State) (groups : Nat → Bool) : Bool := s.host.deltas.any fun d => d.sync && groups d.egrp

/-! ## Completion (R219, R480, R524) -/

/-- A domain in state 2 may complete: no task of it or of a descendant remains, and none of them recovers. -/
def State.mayComplete (s : State) (ctx : Nat) (did : BitVec 4) : Bool :=
  s.domState ctx did == 2 && (s.domTree ctx did).all fun d => !s.anyTask ctx d && s.domState ctx d != 4

/-- A group of a context whose range a domain's output set meets. -/
def Domain.outLine (d : Domain) (vline : Nat) : Bool :=
  d.outs.any fun o => fld o.1 0 53 / 64 ≤ vline && vline * 64 < fld o.1 0 53 + o.2

/-- DOMAIN_COMPLETE: with ERASE, the parity sync of the output set first; then the domain is complete, and EVBIT is set. -/
def execDomainComplete (ctx did : Nat) (s : State) : Res :=
  let id : BitVec 4 := BitVec.ofNat 4 did
  match s.dom ctx id with
  | none => .next s
  | some d =>
    if did == 0 || 16 ≤ did || !s.mayComplete ctx id then .next s
    else
      let mine (g : Nat) : Bool := (s.egEntry g).ctx == ctx
      if d.erase && d.phase != 9 then
        .next (((s.beginSync mine fun e => mine e.1 && d.outLine e.2).modDom ctx id fun d => { d with phase := 9 }).domFar d 4
          (d.outs.map fun o => (o.1, o.2, 0)))
      else if d.erase && s.syncOpen mine then .next s
      else
        let s1 := (s.modDom ctx id fun d => { d with state := 3, phase := 0, roots := [] }).domFar d 5 d.protRanges
        .next (match d.ev with
          | none => s1
          | some b =>
            let w := b.toNat / 64
            s1.putEvent ctx w (s1.evGet ctx w ||| BitVec.twoPow 64 (b.toNat % 64)) none)

/-- TASK_COMPLETION_NOTICE: a task of a domain in another package has ended. -/
def execTaskCompletionNotice (ctx did p : Nat) (s : State) : Res :=
  .next (s.modDom ctx (BitVec.ofNat 4 did) fun d => { d with remote := tblSet p (tblGetD d.remote p 0 - 1) d.remote })

/-! ## Errors charged to activations (R481, R494) -/

/-- The causes of a freeze that are charged. DEDUCED (log 50): unsafe. -/
def chargedCause (c : Nat) : Bool := c == cUNCORR || c == cEXPIRED || c == cACT_TIMEOUT

/-- The charged errors of a domain's activations: cores that are frozen for one, with the slot. DEDUCED (log 50): unsafe. -/
def State.actErrors (s : State) (ctx : Nat) (did : BitVec 4) : List (Nat × Nat) :=
  s.cores.flatMap fun p =>
    let c := p.2
    let mine (k : Nat) : Bool := (c.slot k).live && (c.slot k).act.did == did && s.ctxOf p.1 == ctx
    let k := fld c.faultRec 224 2
    if !c.frz.frozen then []
    else (if chargedCause (fld c.faultRec 192 8) && mine k then [(p.1, k)] else []) ++
      (c.sfq.filter fun r => r.v && r.cause == sfUNCORR && mine r.slot.toNat).map fun r => (p.1, r.slot.toNat)

/-- The key of the local-memory word that an uncorrected error named. DEDUCED (log 49): unsafe. -/
def State.scrubKeys (s : State) (cid : Nat) : List Nat :=
  let c := s.core cid
  if fld c.faultRec 192 8 != cUNCORR then []
  else match placeOf (rewriteEa s.pkg cid (c.faultRec.extractLsb' 64 64)) with
    | .localMem none core self _ off => [lmKey (if self then cid else s.memberCid (s.lidOf cid) core) (off / 8 * 8)]
    | _ => []

/-- DOMAIN_ERROR: an error of an activation is charged to its domain: a failure, and an abort. -/
def execDomainError (ctx did : Nat) (s : State) : Res :=
  let id : BitVec 4 := BitVec.ofNat 4 did
  let es := s.actErrors ctx id
  if did == 0 || 16 ≤ did || es.isEmpty then .next s
  else
    let keys := (es.map (·.1)).flatMap s.scrubKeys
    .next ((s.chargeDom ctx id).modDom ctx id fun d => { d with scrub := d.scrub ++ keys })

/-! ## Restore (R482 to R484) -/

/-- A word of local memory rewritten with zero and fresh check bits, if its error still stands. DEDUCED (log 49): unsafe. -/
def State.scrubWord (s : State) (key : Nat) : State :=
  if s.errs.contains (key, true) then
    { s.writeBytes key (List.replicate 8 0) with errs := s.errs.filter fun e => e.1 != key }
  else s

/-- A line of a domain's snapshots cannot be read. -/
def State.areaBad (s : State) (d : Domain) : Bool :=
  (rangeLines (areaEa d.area 0) (snapTotal d.pres)).any fun l => match s.vaLeaf d.ctx l with
    | some (pa, _) => s.lineBad pa
    | none => false

/-- A domain takes state 5; without a parent to abort, its loss is posted (R483). -/
def State.domLost (s : State) (d : Domain) : State :=
  (s.modDom d.ctx d.did fun x => { x with state := 5, phase := 0, roots := [] }).pendFault 1 (d.ctx + 256 * d.did.toNat)

/-- Escalation: the parent is aborted, which counts as its failure. -/
def State.escalate (s : State) (d : Domain) : State :=
  let st := s.domState d.ctx d.parent
  if d.parent != 0 && (st == 1 || st == 2 || st == 4) then s.abortDom d.ctx d.parent true true else s.domLost d

/-- Outstanding stores of tasks that an abort ended: of the domain, and of descendants that it discarded. -/
def State.storesLeft (s : State) (ctx : Nat) (did : BitVec 4) : Bool :=
  s.reqs.any fun r => r.org == 0x3FF && 4 ≤ r.slot && r.ctx == ctx && r.op.isStore && r.did != 0 && r.open? &&
    (r.did == did || s.domState ctx r.did == 0)

/-- DOMAIN_RESTORE: with the killed tasks' stores completed, the snapshots are written back, errors are scrubbed, and the domain
goes on as R480 says. -/
def execDomainRestore (ctx did : Nat) (s : State) : Res :=
  let id : BitVec 4 := BitVec.ofNat 4 did
  match s.dom ctx id with
  | none => .next s
  | some d =>
    if d.state != 4 || d.phase != 1 || s.storesLeft ctx id then .next s
    else
      let bad := s.areaBad d
      let s1 := d.scrub.foldl State.scrubWord (if bad then s else s.restoreDom d)
      let s2 := s1.modDom ctx id fun d => { d with scrub := [] }
      .next (if bad then s2.escalate d
        else if !d.reexec then (s2.modDom ctx id fun d => { d with state := 5, phase := 0, roots := [] }).domFar d 5 d.protRanges
        else if d.escalate then s2.escalate d
        else s2.modDom ctx id fun d => { d with phase := 2, reissued := 0 })

/-! ## Root tasks issued again (R525) -/

/-- A root task issued again, or none while there is no room for it. DEDUCED (log 58): unsafe. -/
def State.reissue (s : State) (r : Root) : Option State :=
  match r.msg, r.job with
  | some m, _ =>
    if 16 ≤ (s.core m.cid).sendq.length then none
    else
      let m1 := { m with mid := s.nextId, sent := s.reft, retry := 0, inFlight := false, back := false, quiet := false, readyAt := 0 }
      some { s.modCore m.cid fun c => { c with sendq := c.sendq ++ [m1] } with nextId := s.nextId + 1 }
  | none, some j =>
    if (if isColl r.win then s.cqFree (r.win - 8192) else s.jqFree r.win) == 0 then none
    else some (s.takeJob r.win j.cid j.slot (if isColl r.win then s.collBad j.cid j.cmd else s.jobBad j.cid j.cmd) j)
  | none, none => some s

/-- ROOT_REISSUE: the next root record of a restored domain is issued again; after the last the domain returns to its state. -/
def execRootReissue (ctx did : Nat) (s : State) : Res :=
  let id : BitVec 4 := BitVec.ofNat 4 did
  match s.dom ctx id with
  | none => .next s
  | some d =>
    if d.state != 4 || d.phase != 2 then .next s
    else match d.roots[d.reissued]? with
      | none => .next (s.modDom ctx id fun d => { d with state := d.back, phase := 0 })
      | some r =>
        match s.reissue r with
        | none => .next s
        | some s1 => .next (s1.modDom ctx id fun d => { d with reissued := d.reissued + 1 })

end Sys2Proof.Machine
end

