-- ==== Sys2Proof/Machine/Erasure.lean ====
section
/-! DEFINITION. Erasure coding: the field, parity deltas, syncs, and the reconstruction of lines (R485 to R490). -/
namespace Sys2Proof.Machine

/-! ## GF(2^8) (R486) -/

/-- Multiplication by α. -/
def gfDouble (x : Nat) : Nat := if 128 ≤ x then (2 * x - 256) ^^^ 0x1D else 2 * x

/-- A product of two bytes, by the bits of the second from the lowest. -/
def gfMulBits (a b : Nat) : Nat → Nat
  | 0 => 0
  | n + 1 => (if b % 2 == 1 then a else 0) ^^^ gfMulBits (gfDouble a) (b / 2) n

def gfMul (a b : Nat) : Nat := gfMulBits a b 8

/-- α^i. -/
def gfAlpha : Nat → Nat
  | 0 => 1
  | i + 1 => gfDouble (gfAlpha i)

/-- The inverse of a non-zero byte: its 254th power, the product of its powers 2, 4 to 128. -/
def gfInv (a : Nat) : Nat :=
  ((List.range 7).foldl (fun (p : Nat × Nat) _ => (gfMul p.1 (gfMul p.2 p.2), gfMul p.2 p.2)) (1, a)).1

/-! ## Stripes, as lists of bytes (R486) -/

def xorB (a b : List Nat) : List Nat := (a.zip b).map fun x => x.1 ^^^ x.2
def mulB (c : Nat) (a : List Nat) : List Nat := a.map (gfMul c)

/-- The sums of P and of Q over some members. -/
def sumP (ds : List (Nat × List Nat)) (zero : List Nat) : List Nat := ds.foldl (fun acc d => xorB acc d.2) zero
def sumQ (ds : List (Nat × List Nat)) (zero : List Nat) : List Nat := ds.foldl (fun acc d => xorB acc (mulB (gfAlpha d.1) d.2)) zero

/-- A data member's bytes from the members that are known; data positions lie below `n`, P at `n` and Q at `n + 1`. -/
def solveData (n i : Nat) (known : List (Nat × List Nat)) (len : Nat) : Option (List Nat) :=
  let zero := List.replicate len 0
  let ds := known.filter fun k => k.1 < n && k.1 != i
  let p := (known.find? fun k => k.1 == n).map (·.2)
  let q := (known.find? fun k => k.1 == n + 1).map (·.2)
  match ((List.range n).filter fun j => j != i && !ds.any fun k => k.1 == j), p, q with
  | [], some p, _ => some (xorB p (sumP ds zero))
  | [], none, some q => some (mulB (gfInv (gfAlpha i)) (xorB q (sumQ ds zero)))
  | [j], some p, some q =>
    let a := xorB p (sumP ds zero)
    let b := xorB q (sumQ ds zero)
    some (mulB (gfInv (gfAlpha i ^^^ gfAlpha j)) (xorB b (mulB (gfAlpha j) a)))
  | _, _, _ => none

/-- Any member's bytes: a parity member's from the data, which are solved for first. -/
def solveMember (n i : Nat) (known : List (Nat × List Nat)) (len : Nat) : Option (List Nat) :=
  if i < n then solveData n i known len
  else
    let ds := (List.range n).map fun j => match known.find? fun k => k.1 == j with
      | some k => some k
      | none => (solveData n j known len).map fun d => (j, d)
    if ds.all Option.isSome then
      let xs := ds.filterMap id
      some (if i == n then sumP xs (List.replicate len 0) else sumQ xs (List.replicate len 0))
    else none

/-- A line with its tag byte as 65 bytes, and back. -/
def stripeBytes (d : W512) (t : BitVec 8) : List Nat := (bytesOf d 64).map (·.toNat) ++ [t.toNat]
def stripeLine (bs : List Nat) : W512 × BitVec 8 := (ofBytes 512 ((bs.take 64).map (BitVec.ofNat 8)), BitVec.ofNat 8 (bs.getD 64 0))

/-- A member's line from its peers'. -/
def reconstruct (scheme i : Nat) (peers : List (Nat × W512 × BitVec 8)) : Option (W512 × BitVec 8) :=
  let n := egData scheme
  let top := if scheme == 0 then n + 1 else n + 2
  let known := (peers.filter fun p => p.1 != i && p.1 < top).map fun p => (p.1, stripeBytes p.2.1 p.2.2)
  (solveMember n i known 65).map stripeLine

/-! ## Deltas (R487) -/

/-- What a delta adds to a parity byte: itself for P, α^i times itself for Q. -/
def deltaByte (isQ : Bool) (i : Nat) (x : Nat) : Nat := if isQ then gfMul (gfAlpha i) x else x

/-- PARITY_DELTA: a delta of the line at offset `o` of a group's data member `pos` is applied to this package's parity line and to its
tag-parity byte, and acknowledged; one for a page that is being migrated waits (R387). DEDUCED (log 49): unsafe. -/
def execParityDelta (egrp o pos : Nat) (isQ : Bool) (delta : W512) (dtag : BitVec 8) (s : State) : Res :=
  let e := s.egEntry egrp
  let va (off : Nat) : Nat := (e.pbase + off) % 2 ^ 53
  if !e.valid || o % 64 != 0 || e.dlen ≤ o || s.fab.fenced then .next s
  else match s.walk e.ctx (va o), s.walk e.ctx (va (e.dlen + o / 64)) with
    | .leaf le ll _, .leaf te tl _ =>
      let pa := xlatePa le ll (va o)
      let ta := xlatePa te tl (va (e.dlen + o / 64))
      if (s.migOf pa).isSome || (s.migOf ta).isSome then .next s
      else
      let d := ofBytes 512 ((bytesOf delta 64).map fun b => BitVec.ofNat 8 (deltaByte isQ pos b.toNat))
      let s1 := s.pocWrite (pa / 64) (s.pocLine (pa / 64) ^^^ d) (BitVec.allOnes 64) (s.pocTags (pa / 64)) none none
      let s2 := s1.pocPatch ta 1 (s1.pocNat ta 1 ^^^ deltaByte isQ pos dtag.toNat)
      .next { s2 with out := s2.out ++ [.deltaAck (e.members.getD pos 0) egrp o isQ] }
    | _, _ => .next s

/-- PARITY_DELTA_ACK. -/
def execParityDeltaAck (k : Nat) (s : State) : Res :=
  .next { s with host := { s.host with deltas := s.host.deltas.filter fun d => d.k != k } }

/-! ## ESYNC (R485, R488) -/

/-- The groups of the sync under way. -/
def HostSt.syncs (h : HostSt) (g : Nat) : Bool := h.esRunAll || g == h.esRunGrp.toNat

/-- ESYNC: a write of the register; GO starts a sync of the groups it names, and is ignored while one runs. -/
def execEsync (x : BitVec 18) (s : State) : Res :=
  let s1 := { s with host := { s.host with esAll := x.getLsbD 8, esGrp := x.extractLsb' 0 8 } }
  if s.host.esBusy || !x.getLsbD 16 then .next s1
  else
      let s0 := { s1 with host := { s1.host with esRunAll := x.getLsbD 8, esRunGrp := x.extractLsb' 0 8 } }
      let mine (g : Nat) : Bool := s0.host.syncs g && (s0.egEntry g).valid
      let s2 := s0.beginSync mine fun e => mine e.1 &&
        (let en := s0.egEntry e.1
         en.dbase % 2 ^ 53 ≤ e.2 * 64 && e.2 * 64 < en.dbase % 2 ^ 53 + en.dlen)
      .next { s2 with host := { s2.host with esBusy := true } }

/-- ESYNC_DONE: every delta of the groups is acknowledged. -/
def execEsyncDone (s : State) : Res :=
  .next (if s.host.esBusy && !s.syncOpen s.host.syncs then { s with host := { s.host with esBusy := false } } else s)

/-- ESTAT (R485). -/
def HostSt.estat (h : HostSt) : W64 := BitVec.ofNat 64 (h.deltas.length + 2 ^ 32 * h.repaired.toNat)

/-- ESTAT_READ: REPAIRED is returned and cleared by the read. -/
def execEstatRead (s : State) : Res := .next (State.readOut { s with host := { s.host with repaired := 0 } } s.host.estat)

/-! ## Repair on read (R489) -/

/-- The position of this package among a group's data members, where it holds a virtual line of the range. -/
def State.egPlace (s : State) (g vline : Nat) : Option (EgEntry × Nat) :=
  let e := s.egEntry g
  let b := e.dbase % 2 ^ 53
  if !e.valid || vline * 64 < b || b + e.dlen ≤ vline * 64 then none
  else (indexOf? (· == s.pkg.toNat) (e.members.take (egData e.scheme))).map fun i => (e, i)

/-- A repaired line in HBM with its tags. -/
def State.putRepaired (s : State) (line : Nat) (x : W512 × BitVec 8) : State := s.hbmPut line x.1 (x.2.extractLsb' 0 4)

/-- LINE_REPAIR: the line at `pa`, for which a read waits, is reconstructed from the other members' lines and written back; a line
that the scheme cannot correct is poisoned. -/
def execLineRepair (pa : Nat) (peers : List (Nat × W512 × BitVec 8)) (s : State) : Res :=
  let line := pa / 64
  match s.reqs.find? fun r => r.stage == .fill && r.pa / 64 == line && r.attr.erase with
  | none => .next s
  | some r =>
    if !s.errs.contains (cellKey line, true) then .next s
    else match s.egPlace r.attr.egrp.toNat (fld r.ea 6 47) with
      | none => .next (s.poison line)
      | some (e, i) =>
        match reconstruct e.scheme i peers with
        | none => .next (s.poison line)
        | some x =>
          let s1 := s.putRepaired line x
          .next { s1 with host := { s1.host with repaired := s1.host.repaired + 1 } }

/-! ## Rebuild of a lost member (R490) -/

/-- Every leaf of every valid context: the context, the entry's address, level, virtual address and word. -/
def State.allLeaves (s : State) : List (Nat × Nat × Nat × Nat × W64) :=
  s.ctxs.flatMap fun c => if c.2.valid then (s.ctxLeaves c.1).map fun l => (c.1, l) else []

/-- The leaf of an ERASE page that maps a physical address. -/
def State.eraseLeaf (s : State) (pa : Nat) : Option (Nat × Nat × Nat × Nat × W64) :=
  s.allLeaves.find? fun l =>
    let e := l.2.2.2.2
    e.getLsbD 55 && entryFrame e ≤ pa && pa < entryFrame e + 2 ^ pageBits l.2.2.1

/-- The lowest position of a group whose package has been declared lost. DEDUCED (log 49): unsafe. -/
def State.lostMember (s : State) (e : EgEntry) : Option Nat :=
  (List.range (egData e.scheme + 2)).find? fun i => s.fab.lost.contains (.package (e.members.getD i 0x3FF))

/-- ERASURE_REBUILD: a line of a lost member is rebuilt from the survivors at `target`. In the damaged package `pa` is its old place,
on a lost M-die; with the page's last line its leaf takes the new frame, or becomes invalid where `target` is no frame of the
package (the page is then at the spare). In a spare package, and in a package whose drained state is reloaded but does not run yet (R511), `pa` is
not used: the line goes to the page that maps `target`.
DEDUCED (log 49): unsafe. -/
def execErasureRebuild (pa target : Nat) (peers : List (Nat × W512 × BitVec 8)) (s : State) : Res :=
  let ok := paValid target && !s.paLost target
  let put (s : State) (r : Option (W512 × BitVec 8)) : State := match r with
    | some x => { s.putRepaired (target / 64) x with errs := s.errs.filter fun e => e.1 != poisonKey (target / 64) && e.1 != cellKey (target / 64) && e.1 != unitKey (target / 64) 0 && e.1 != unitKey (target / 64) 1 }
    | none => s.poison (target / 64)
  if s.paLost pa then
    match s.eraseLeaf pa with
    | none => .next s
    | some (_, at_, level, va, e) =>
      let off := pa - entryFrame e
      match s.egPlace (fld e 56 8) ((va + off) / 64) with
      | none => .next s
      | some (g, i) =>
        let s1 := if ok then put s (reconstruct g.scheme i peers) else s
        if off / 64 * 64 + 64 != 2 ^ pageBits level then .next s1
        else
          let e1 : W64 := if ok then setFld e 16 24 (target / 2 ^ pageBits level * 2 ^ pageBits level / 2 ^ 16) else setFld e 0 1 0
          .next ((s1.pocPatch at_ 8 e1.toNat).purgeFrame level (entryFrame e))
  else if !ok then .next s
  else match s.eraseLeaf target with
    | none => .next s
    | some (_, _, _, va, e) =>
      let g := s.egEntry (fld e 56 8)
      if s.host.pfstage == 3 then match s.egPlace (fld e 56 8) ((va + (target - entryFrame e)) / 64) with
        | some (g, i) => .next (put s (reconstruct g.scheme i peers))
        | none => .next s
      else if !g.valid || g.spare != some s.pkg.toNat then .next s
      else match s.lostMember g with
        | none => .next s
        | some i => .next (put s (reconstruct g.scheme i peers))

end Sys2Proof.Machine
end

