-- ==== Sys2Proof/Machine/ExecInt.lean ====
section
/-! DEFINITION. The integer and logic instructions, opcodes 0x01 to 0x1D (R100 to R113). -/
namespace Sys2Proof.Machine

/-! ## Widths, sources and results (R100, R101) -/

/-- The operation width of an integer TYPE. -/
def intWidth (t : Nat) : Nat := 8 * tyBytes t
/-- Sources are read signed under TYPE 0x00 and `.sN`. -/
def intSigned (t : Nat) : Bool := t ≤ 4
/-- A 64-bit source as the TYPE reads it. -/
def intRead (t : Nat) (x : W64) : Int :=
  if intSigned t then sextN (intWidth t) x.toNat else ((x.toNat % 2 ^ intWidth t : Nat) : Int)
/-- A result as 64 bits: truncated to the width, then extended by the TYPE's sign. -/
def intRes (t : Nat) (v : Int) : Nat :=
  if intSigned t then truncI 64 (sextN (intWidth t) (truncI (intWidth t) v)) else truncI (intWidth t) v
/-- Source b of a register form, or the immediate. -/
def srcB (i : Ins) (sl : Slot) : W64 := if i.hasImm then i.imm64 else sl.g64 i.b

/-- An instruction that writes an integer result computed from its slot. -/
def intOp (i : Ins) (u : List RegNo) (f : Slot → Int) (s : State) : Res :=
  execReg i { g := u, dg := [i.d] } false (warnA i.mod 0 false i.hasImm false)
    (fun sl => .ok (sl.putG i.d (intRes i.ty (f sl)))) s

/-- Two sources as the TYPE reads them. -/
def intOp2 (i : Ins) (f : Nat → Int → Int → Int) (s : State) : Res :=
  intOp i (usesAB i) (fun sl => f i.ty (intRead i.ty (sl.g64 i.a)) (intRead i.ty (srcB i sl))) s

def intOp1 (i : Ins) (f : Nat → Int → Int) (s : State) : Res :=
  intOp i [i.a] (fun sl => f i.ty (intRead i.ty (sl.g64 i.a))) s

/-! ## The operations -/

def addI (_ : Nat) (x y : Int) : Int := x + y
def subI (_ : Nat) (x y : Int) : Int := x - y
def minI (_ : Nat) (x y : Int) : Int := if y < x then y else x
def maxI (_ : Nat) (x y : Int) : Int := if x < y then y else x
/-- A bitwise operation on the n-bit values (R108). -/
def logicI (f : Nat → Nat → Nat) (t : Nat) (x y : Int) : Int :=
  (f (truncI (intWidth t) x) (truncI (intWidth t) y) : Nat)
def andI : Nat → Int → Int → Int := logicI (· &&& ·)
def orI : Nat → Int → Int → Int := logicI (· ||| ·)
def xorI : Nat → Int → Int → Int := logicI (· ^^^ ·)
/-- x & ~y, as x less the bits it shares with y. -/
def andnI : Nat → Int → Int → Int := logicI fun x y => x - (x &&& y)
/-- x | ~y on n bits. -/
def ornI (t : Nat) (x y : Int) : Int :=
  logicI (fun x y => x ||| (2 ^ intWidth t - 1 - y)) t x y

/-- A shift or rotate of `u`, the n-bit value, by the low log2(n) bits of y (R109). -/
def shiftI (f : Nat → Nat → Nat → Int) (t : Nat) (x y : Int) : Int :=
  let n := intWidth t
  f n (truncI n x) (truncI n y % n)
def shlI : Nat → Int → Int → Int := shiftI fun _ u k => ((u <<< k : Nat) : Int)
def shrI : Nat → Int → Int → Int := shiftI fun _ u k => ((u >>> k : Nat) : Int)
def sarI : Nat → Int → Int → Int := shiftI fun n u k => sextN n u / 2 ^ k
def rolI : Nat → Int → Int → Int := shiftI fun n u k => (((u <<< k) % 2 ^ n ||| u >>> (n - k) : Nat) : Int)
def rorI : Nat → Int → Int → Int := shiftI fun n u k => ((u >>> k ||| (u <<< (n - k)) % 2 ^ n : Nat) : Int)

/-- The quotient and remainder of R107, and whether DIVZ is set. -/
def divRem (t : Nat) (x y : Int) : Int × Int × Bool :=
  let n := intWidth t
  if y == 0 then (2 ^ n - 1, x, true)
  else if intSigned t && x == -(2 ^ (n - 1)) && y == -1 then (x, 0, false)
  else (x.tdiv y, x.tmod y, false)

/-- DIV or REM. -/
def divOp (i : Ins) (rem : Bool) (s : State) : Res :=
  execReg i { g := [i.a, i.b], dg := [i.d] } false (warnA i.mod 0 false false false)
    (fun sl =>
      let r := divRem i.ty (intRead i.ty (sl.g64 i.a)) (intRead i.ty (sl.g64 i.b))
      let sl1 := if r.2.2 then sl.addWarn wDIVZ else sl
      .ok (sl1.putG i.d (intRes i.ty (if rem then r.2.1 else r.1)))) s

/-- ADDC and SUBB (R105): sources read unsigned, TYPE 0x00 as `.z64`. -/
def carryVal (t : Nat) (sub co : Bool) (x y w : Nat) : Nat :=
  let n := intWidth t
  let r : Int := if sub then (x : Int) - y - (w % 2 : Nat) else (x : Int) + y + (w % 2 : Nat)
  if !co then truncI n r
  else if sub then (if r < 0 then 1 else 0)
  else (r / 2 ^ n).toNat

def carryOp (i : Ins) (sub : Bool) (s : State) : Res :=
  execReg i { g := [i.a, i.b, i.c], dg := [i.d] } false (warnA i.mod 0 false false false)
    (fun sl =>
      let rd (r : RegNo) : Nat := (sl.g64 r).toNat % 2 ^ intWidth i.ty
      .ok (sl.putG i.d (carryVal i.ty sub (mOpt i.mod) (rd i.a) (rd i.b) (rd i.c)))) s

/-- MUL: the low half, or with `.hi` the high half, of the exact product (R106). -/
def mulI (hi : Bool) (t : Nat) (x y : Int) : Int := if hi then x * y / 2 ^ intWidth t else x * y

/-- A count or a permutation of the bits of u; a count is written zero-extended whatever TYPE holds (R110). -/
def bitsOp (i : Ins) (count : Bool) (f : Nat → Nat → Nat) (s : State) : Res :=
  execReg i { g := [i.a], dg := [i.d] } false (warnA i.mod 0 false false false)
    (fun sl =>
      let n := intWidth i.ty
      let v := f n ((sl.g64 i.a).toNat % 2 ^ n)
      .ok (sl.putG i.d (if count then v else intRes i.ty v))) s

/-- Byte i of the result is byte n/8 - 1 - i of u. -/
def bswapN (n u : Nat) : Nat := leNat (leBytes (n / 8) u).reverse

/-- pos, len and mask of a control word (R111). -/
def bfCtl (ctl : W64) : Nat × Nat × Nat :=
  let pos := fld ctl 0 6
  let len0 := min (fld ctl 8 7) 64
  let len := if 64 < pos + len0 then 64 - pos else len0
  (pos, len, (2 ^ len - 1) <<< pos)

def bfxVal (t : Nat) (x ctl : W64) : Nat :=
  let (pos, len, mask) := bfCtl ctl
  let f := (x.toNat &&& mask) >>> pos
  if t == 4 && 0 < len then truncI 64 (sextN len f) else f

def bfiVal (x y ctl : W64) : Nat :=
  let (pos, _, mask) := bfCtl ctl
  (x.toNat - (x.toNat &&& mask)) ||| ((y.toNat <<< pos) &&& mask)

/-- A condition of CMP on two n-bit values (R112). -/
def cmpHolds (cond n x y : Nat) : Bool :=
  let sx := sextN n x
  let sy := sextN n y
  match cond with
  | 0x0 => x == y
  | 0x1 => x != y
  | 0x2 => sx < sy
  | 0x3 => sx ≤ sy
  | 0x4 => sy < sx
  | 0x5 => sy ≤ sx
  | 0x6 => x < y
  | 0x7 => x ≤ y
  | 0x8 => y < x
  | 0x9 => y ≤ x
  | _ => x &&& y != 0

def cmpOp (i : Ins) (s : State) : Res :=
  execReg i { g := usesAB i } false (warnA i.mod 0 false i.hasImm false)
    (fun sl =>
      let n := intWidth i.ty
      let h := cmpHolds (fld i.sub 0 4) n ((sl.g64 i.a).toNat % 2 ^ n) ((srcB i sl).toNat % 2 ^ n)
      .ok (sl.writeP i.d.toNat (if h then 0xFFFF else 0))) s

/-- LI: the immediate as source a would be read (R113). -/
def liOp (i : Ins) (s : State) : Res := intOp i [] (fun _ => intRead i.ty i.imm64) s

/-- A whole register copied with its tag and its expired mark. -/
def moveG (sl : Slot) (d r : RegNo) : Slot := sl.writeG d { sl.readG r with pending := false }

/-! ## The meanings -/

def execAdd (f : FR) (s : State) : Res := intOp2 (insR f) addI s
def execAddi (f : FI) (s : State) : Res := intOp2 (insIA f) addI s
def execAddiF96 (f : FX) (s : State) : Res := intOp2 (insX f) addI s
def execAddiF128 (f : FL) (s : State) : Res := intOp2 (insL f) addI s
def execSub (f : FR) (s : State) : Res := intOp2 (insR f) subI s
def execAddc (f : FR) (s : State) : Res := carryOp (insR f) false s
def execSubb (f : FR) (s : State) : Res := carryOp (insR f) true s
def execMul (f : FR) (s : State) : Res := intOp2 (insR f) (mulI (mOpt f.mod)) s
def execDiv (f : FR) (s : State) : Res := divOp (insR f) false s
def execRem (f : FR) (s : State) : Res := divOp (insR f) true s
def execNeg (f : FR) (s : State) : Res := intOp1 (insR f) (fun _ x => -x) s
def execAbs (f : FR) (s : State) : Res := intOp1 (insR f) (fun _ x => if 0 ≤ x then x else -x) s
def execMin (f : FR) (s : State) : Res := intOp2 (insR f) minI s
def execMinF96 (f : FX) (s : State) : Res := intOp2 (insX f) minI s
def execMax (f : FR) (s : State) : Res := intOp2 (insR f) maxI s
def execMaxF96 (f : FX) (s : State) : Res := intOp2 (insX f) maxI s
def execAnd (f : FR) (s : State) : Res := intOp2 (insR f) andI s
def execAndF96 (f : FX) (s : State) : Res := intOp2 (insX f) andI s
def execOr (f : FR) (s : State) : Res := intOp2 (insR f) orI s
def execOrF96 (f : FX) (s : State) : Res := intOp2 (insX f) orI s
def execXor (f : FR) (s : State) : Res := intOp2 (insR f) xorI s
def execXorF96 (f : FX) (s : State) : Res := intOp2 (insX f) xorI s
def execAndn (f : FR) (s : State) : Res := intOp2 (insR f) andnI s
def execOrn (f : FR) (s : State) : Res := intOp2 (insR f) ornI s
def execShl (f : FR) (s : State) : Res := intOp2 (insR f) shlI s
def execShlF96 (f : FX) (s : State) : Res := intOp2 (insX f) shlI s
def execShr (f : FR) (s : State) : Res := intOp2 (insR f) shrI s
def execShrF96 (f : FX) (s : State) : Res := intOp2 (insX f) shrI s
def execSar (f : FR) (s : State) : Res := intOp2 (insR f) sarI s
def execSarF96 (f : FX) (s : State) : Res := intOp2 (insX f) sarI s
def execRol (f : FR) (s : State) : Res := intOp2 (insR f) rolI s
def execRolF96 (f : FX) (s : State) : Res := intOp2 (insX f) rolI s
def execRor (f : FR) (s : State) : Res := intOp2 (insR f) rorI s
def execRorF96 (f : FX) (s : State) : Res := intOp2 (insX f) rorI s
def execClz (f : FR) (s : State) : Res := bitsOp (insR f) true (fun n u => n - bitLen u) s
def execCtz (f : FR) (s : State) : Res := bitsOp (insR f) true (fun n u => trailZ n u) s
def execPopc (f : FR) (s : State) : Res := bitsOp (insR f) true (fun n u => popCount n u) s
def execBrev (f : FR) (s : State) : Res := bitsOp (insR f) false (fun n u => revBits n u) s
def execBswap (f : FR) (s : State) : Res := bitsOp (insR f) false bswapN s

/-- BFX: the control word is source b, read whole (R100, R111). -/
def execBfx (f : FR) (s : State) : Res :=
  let i := insR f
  execReg i { g := [i.a, i.b], dg := [i.d] } false (warnA i.mod 0 false false false)
    (fun sl => .ok (sl.putG i.d (bfxVal i.ty (sl.g64 i.a) (sl.g64 i.b)))) s

def execBfi (f : FR) (s : State) : Res :=
  let i := insR f
  execReg i { g := [i.a, i.b, i.c], dg := [i.d] } false (warnA i.mod 0 false false false)
    (fun sl => .ok (sl.putG i.d (bfiVal (sl.g64 i.a) (sl.g64 i.b) (sl.g64 i.c)))) s

/-- SEL copies all of one source; both are read for the presence rules (R113). -/
def execSel (f : FR) (s : State) : Res :=
  let i := insR f
  execReg i { g := [i.a, i.b], dg := [i.d], moves := true } false (warnA i.mod 0 false false false)
    (fun sl => .ok (moveG sl i.d (if (sl.readP i.c.toNat).getLsbD 0 then i.a else i.b))) s

def execCmp (f : FR) (s : State) : Res := cmpOp (insR f) s
def execCmpF96 (f : FX) (s : State) : Res := cmpOp (insX f) s
def execLi (f : FI) (s : State) : Res := liOp (insIA f) s
def execLiF96 (f : FX) (s : State) : Res := liOp (insX f) s
def execLiF128 (f : FL) (s : State) : Res := liOp (insL f) s

/-- MOV copies all 128 bits and the tag (R22, R113). -/
def execMov (f : FR) (s : State) : Res :=
  let i := insR f
  execReg i { g := [i.a], dg := [i.d], moves := true } false (warnA i.mod 0 false false false)
    (fun sl => .ok (moveG sl i.d i.a)) s

end Sys2Proof.Machine
end

