-- ==== Sys2Proof/Machine/ExecFp.lean ====
section
/-! DEFINITION. The scalar floating-point instructions, opcodes 0x60 to 0x6E (R165 to R173). -/
namespace Sys2Proof.Machine

/-- A floating source: register b, or the immediate converted to the operation's type (R62, R166). -/
def fpB (i : Ins) (sl : Slot) : Nat := if i.hasImm then i.immFp.1 else (sl.g64 i.b).toNat

/-- The warnings of a scalar FP form whose destination TYPE is `dst` (0 for a mask or an integer). -/
def warnFp (i : Ins) (dst : Nat) (rounds : Bool) : BitVec 10 :=
  warnA i.mod dst rounds i.hasImm true ||| (if i.hasImm then i.immFp.2 else 0)

/-- An exact value with its flags, delivered through `Round` into TYPE (R165). -/
def deliver (i : Ins) (sl : Slot) (v : FVal × FFlags) : Slot :=
  let r := roundF i.ty (sl.mode (mRm i.mod)) sl.ftz (mSat i.mod && satApplies i.ty) sl.seed v.1
  (sl.afterRnd (r.flags ||| v.2) r.seed).putG i.d r.bits

/-- An operand of TYPE as FTZ reads it. -/
def fpVal (i : Ins) (sl : Slot) (x : Nat) : FVal := operandF i.ty sl.ftz x

/-- Two operands, one rounded result. -/
def fpOp2 (i : Ins) (f : Bool → FVal → FVal → FVal × FFlags) (s : State) : Res :=
  execReg i { g := usesAB i, dg := [i.d] } false (warnFp i i.ty true) (fun sl =>
    .ok (deliver i sl (f (sl.mode (mRm i.mod) == 3) (fpVal i sl (sl.g64 i.a).toNat) (fpVal i sl (fpB i sl))))) s

def subF (rd : Bool) (x y : FVal) : FVal × FFlags := addF rd x (y.negate true)

/-- FMIN and FMAX (R168): one of the operands, unrounded. -/
def fpMinMax (i : Ins) (isMax : Bool) (s : State) : Res :=
  execReg i { g := usesAB i, dg := [i.d] } false (warnFp i i.ty false) (fun sl =>
    let r := minMaxF i.ty isMax sl.ftz (sl.g64 i.a).toNat (fpB i sl)
    .ok ((sl.addFlags r.2).putG i.d r.1)) s

def fcmpOp (i : Ins) (s : State) : Res :=
  execReg i { g := usesAB i } false (warnFp i 0 false) (fun sl =>
    let r := cmpCondF i.ty (fld i.sub 0 4) sl.ftz (sl.g64 i.a).toNat (fpB i sl)
    .ok ((sl.addFlags r.2).writeP i.d.toNat (if r.1 then 0xFFFF else 0))) s

def execFadd (f : FR) (s : State) : Res := fpOp2 (insR f) addF s
def execFaddF96 (f : FX) (s : State) : Res := fpOp2 (insX f) addF s
def execFaddF128 (f : FL) (s : State) : Res := fpOp2 (insL f) addF s
def execFsub (f : FR) (s : State) : Res := fpOp2 (insR f) subF s
def execFsubF96 (f : FX) (s : State) : Res := fpOp2 (insX f) subF s
def execFsubF128 (f : FL) (s : State) : Res := fpOp2 (insL f) subF s
def execFmul (f : FR) (s : State) : Res := fpOp2 (insR f) (fun _ => mulF) s
def execFmulF96 (f : FX) (s : State) : Res := fpOp2 (insX f) (fun _ => mulF) s
def execFmulF128 (f : FL) (s : State) : Res := fpOp2 (insL f) (fun _ => mulF) s
def execFdiv (f : FR) (s : State) : Res := fpOp2 (insR f) (fun _ => divF) s

/-- FMA: one rounding of (-1)^NEGP x y + (-1)^NEGA z (R167). -/
def execFma (f : FR) (s : State) : Res :=
  let i := insR f
  execReg i { g := [i.a, i.b, i.c], dg := [i.d] } false (warnFp i i.ty true) (fun sl =>
    let x (r : RegNo) := fpVal i sl (sl.g64 r).toNat
    .ok (deliver i sl (fmaF (sl.mode (mRm i.mod) == 3) (i.sub.getLsbD 0) (i.sub.getLsbD 1) (x i.a) (x i.b) (x i.c)))) s

def execFsqrt (f : FR) (s : State) : Res :=
  let i := insR f
  execReg i { g := [i.a], dg := [i.d] } false (warnFp i i.ty true) (fun sl =>
    .ok (deliver i sl (sqrtF (fpVal i sl (sl.g64 i.a).toNat)))) s

def execFmin (f : FR) (s : State) : Res := fpMinMax (insR f) false s
def execFminF96 (f : FX) (s : State) : Res := fpMinMax (insX f) false s
def execFmax (f : FR) (s : State) : Res := fpMinMax (insR f) true s
def execFmaxF96 (f : FX) (s : State) : Res := fpMinMax (insX f) true s

/-- FSGN replaces a sign bit; it neither rounds nor flushes (R169). -/
def execFsgn (f : FR) (s : State) : Res :=
  let i := insR f
  execReg i { g := [i.a, i.b], dg := [i.d] } false (warnFp i i.ty false) (fun sl =>
    .ok (sl.putG i.d (sgnF i.ty i.sub.toNat (sl.g64 i.a).toNat (sl.g64 i.b).toNat))) s

def execFcmp (f : FR) (s : State) : Res := fcmpOp (insR f) s
def execFcmpF96 (f : FX) (s : State) : Res := fcmpOp (insX f) s

def execFclass (f : FR) (s : State) : Res :=
  let i := insR f
  execReg i { g := [i.a], dg := [i.d] } false (warnFp i 0 false) (fun sl =>
    .ok (sl.putG i.d (classF i.ty (sl.g64 i.a).toNat))) s

/-- FCVT between floating formats (R172). -/
def execFcvt (f : FR) (s : State) : Res :=
  let i := insR f
  execReg i { g := [i.a], dg := [i.d] } false (warnFp i i.ty true) (fun sl =>
    let r := convF (fld i.sub 0 5) i.ty (sl.mode (mRm i.mod)) sl.ftz (mSat i.mod && satApplies i.ty) sl.seed (sl.g64 i.a).toNat
    .ok ((sl.afterRnd r.flags r.seed).putG i.d r.bits)) s

/-- FTOI: the integer is extended as R100 states for TYPE (R165, R172). -/
def execFtoi (f : FR) (s : State) : Res :=
  let i := insR f
  execReg i { g := [i.a], dg := [i.d] } false (warnA i.mod 0 true false true) (fun sl =>
    let v := operandF (fld i.sub 0 5) sl.ftz (sl.g64 i.a).toNat
    let r := toIntF (intWidth i.ty) (intSigned i.ty) (sl.mode (mRm i.mod)) sl.seed v
    .ok ((sl.afterRnd r.2.1 r.2.2).putG i.d (intRes i.ty r.1))) s

/-- ITOF reads its source as R100 states (R172). -/
def execItof (f : FR) (s : State) : Res :=
  let i := insR f
  execReg i { g := [i.a], dg := [i.d] } false (warnFp i i.ty true) (fun sl =>
    .ok (deliver i sl (ofIntF (intRead (fld i.sub 0 5) (sl.g64 i.a)), 0))) s

def execFround (f : FR) (s : State) : Res :=
  let i := insR f
  execReg i { g := [i.a], dg := [i.d] } false (warnFp i i.ty true) (fun sl =>
    let r := roundIntF i.ty (sl.mode (mRm i.mod)) sl.ftz (mSat i.mod && satApplies i.ty) sl.seed (sl.g64 i.a).toNat
    .ok ((sl.afterRnd r.flags r.seed).putG i.d r.bits)) s

end Sys2Proof.Machine
end

