-- ==== Sys2Proof/Machine/ExecLacc.lean ====
section
/-! DEFINITION. The long accumulator, opcodes 0xB0 to 0xB4, and the end of an operation (R69 to R71, R189 to R192). -/
namespace Sys2Proof.Machine

/-- The checks of an accumulator's address: CapCheck of 80 bytes, the own local memory, then alignment to 16 (R189). DEDUCED
(log 39): unsafe. -/
def laccCheck (s : State) (cid : Nat) (sl : Slot) (i : Ins) (off : RegNo) (perm : BitVec 12) (store : Bool) : Except Trap Nat :=
  match accessCheck s.pkg cid sl i.a (sl.g64 off) 80 perm 1 with
  | .error t => .error t
  | .ok x =>
    match ownLocal cid x.2 with
    | none => .error (capTrap 9 i.a x.1)
    | some o =>
      if o % 16 != 0 then .error (capTrap 8 i.a x.1)
      else if localBad (s.core cid) sl o 80 store then .error (capTrap 0x0B i.a x.1) else .ok o

/-- The 640-bit integer N of an accumulator. -/
def laccN (s : State) (cid o : Nat) : Nat := leNat (s.lmRead cid o 80)

/-- Its signed value. -/
def laccInt (n : Nat) : Int := sextN 640 n

/-- The offsets of an accumulator's ten words. -/
def laccWords (o : Nat) : List Nat := (List.range 10).map fun k => o + 8 * k

/-- The faults of reading words of an accumulator: an uncorrected one, or one in an expired row (R192). -/
def laccWordsBad (s : State) (cid : Nat) (ws : List Nat) : Option Trap :=
  match ws.find? fun o => errIn s.errs (lmKey cid o) 8 8 true with
  | some o => some { cause := cUNCORR, addr := errEa s.errs (lmKey cid o) 8 8 (coreAddr (coreNo cid) o) }
  | none => if ws.any fun o => (List.range 8).any fun j => s.lmExpired cid (o + j) then some { cause := cEXPIRED } else none

/-- The faults of reading a whole accumulator. -/
def laccReadBad (s : State) (cid o : Nat) : Option Trap := laccWordsBad s cid (laccWords o)

/-- An addend as a multiple of 2^-320, or none for a NaN or an infinity. -/
def laccAddend (v : FVal) : Option Int :=
  match v with
  | .fin n m e _ => some (sigAt n m e (-320))
  | _ => none

/-- The words of an addend's significant bits: the first, and how many. -/
def sigWords (v : Int) : Nat × Nat :=
  let m := v.natAbs
  if m == 0 then (0, 1) else (trailZ 640 m / 64, (bitLen m - 1) / 64 - trailZ 640 m / 64 + 1)

/-- The words, from `k` upward, that a carry or a borrow ripples through: one for each word it reaches. -/
def ripple (neg : Bool) (n : Nat) : Nat → Nat → Nat
  | _, 0 => 0
  | k, fuel + 1 =>
    if 10 ≤ k then 0
    else
      let w := n / 2 ^ (64 * k) % 2 ^ 64
      if w == (if neg then 0 else 2 ^ 64 - 1) then 1 + ripple neg n (k + 1) fuel else 1

/-- The cycles of an addition (R191). -/
def addCycles (n : Nat) (v : Int) : Nat :=
  let (w0, c) := sigWords v
  let hi := w0 + c
  let low := n % 2 ^ (64 * hi)
  let carry := if 0 ≤ v then 2 ^ (64 * hi) ≤ low + v.natAbs else low < v.natAbs
  if v == 0 then 1 else c + (if carry then ripple (v < 0) n hi 10 else 0)

/-- A long-accumulator instruction whose port is free: `reads` are the words that it reads, and `body` gives what it writes, the slot,
the cycles it holds the port, and what it delivers then. DEDUCED (log 39): unsafe. -/
def laccOp (i : Ins) (u : Uses) (w : BitVec 10) (perm : BitVec 12) (store : Bool) (reads : Nat → Slot → Nat → List Nat)
    (body : Nat → Slot → Nat → Except Trap (List (Nat × List Byte) × Slot × Nat × Option (RegNo × W64))) (s : State) : Res :=
  execState i u false w (fun cid k sl =>
    match laccCheck s cid sl i i.b perm store with
    | .error t => .next (s.preciseFault cid k t)
    | .ok o =>
      if !(s.core cid).lacc.isEmpty || acqOut s.accs cid k || s.ownAhead cid o 80 || (reads cid sl o).any (fun p => s.ownAhead cid p 8) then .next (s.stall cid k .stall)
      else match laccWordsBad s cid (reads cid sl o) with
        | some c => .next (s.freeze cid k c)
        | none =>
          match body cid sl o with
          | .error t => .next (s.preciseFault cid k t)
          | .ok (wr, sl1, cycles, rd) =>
            let s0 := (reads cid sl o).foldl (fun s o => s.countCorr cid o 8) s
            let s1 := wr.foldl (fun s x => s.lmWrite cid x.1 x.2) s0
            let s2 := s1.modCore cid fun c => { c with lacc := [{ slot := k, rd := rd, cycles := cycles, since := s.cycOf cid }] }
            .next (s2.retire cid k sl1 i.len none)) s

def laccWarn (i : Ins) : BitVec 10 := if mRm i.mod != 0 then wMODIGN else 0

def execLaccClr (f : FR) (s : State) : Res :=
  let i := insR f
  laccOp i { g := [i.a, i.b] } (laccWarn i) pST true (fun _ _ _ => []) (fun _ sl o => .ok ([(o, leBytes 80 0)], sl, 10, none)) s

/-- The words of an accumulator that an addition touches (R70): those that it changes. -/
def addTouches (s : State) (cid o : Nat) (v : Option Int) : List Nat :=
  let n := laccN s cid o
  let m := truncI 640 (laccInt n + v.getD 0)
  ((List.range 10).filter fun k => n / 2 ^ (64 * k) % 2 ^ 64 != m / 2 ^ (64 * k) % 2 ^ 64).map fun k => o + 8 * k

/-- N plus an addend, word by word, or NV where there is none. -/
def laccAddTo (s : State) (cid : Nat) (sl : Slot) (o : Nat) (v : Option Int) :
    Except Trap (List (Nat × List Byte) × Slot × Nat × Option (RegNo × W64)) :=
  match v with
  | none => .ok ([], sl.addFlags fNV, 1, none)
  | some x =>
    let n := laccN s cid o
    let m := truncI 640 (laccInt n + x)
    .ok ((addTouches s cid o v).map fun p => (p, leBytes 8 (m / 2 ^ (8 * (p - o)))), sl, addCycles n x, none)

/-- LACC.ADD's addend, and LACC.MAC's. -/
def addValue (i : Ins) (sl : Slot) : Option Int := laccAddend (decodeF i.ty (sl.g64 i.c).toNat)
def macValue (i : Ins) (sl : Slot) : Option Int :=
  match decodeF 0x0B (sl.g64 i.c).toNat, decodeF 0x0B (sl.g64 i.d).toNat with
  | .fin a b c d, .fin e f g h => laccAddend (mulF (.fin a b c d) (.fin e f g h)).1
  | _, _ => none

def execLaccAdd (f : FR) (s : State) : Res :=
  let i := insR f
  laccOp i { g := [i.a, i.b, i.c] } (laccWarn i) (pLD ||| pST) true (fun cid sl o => addTouches s cid o (addValue i sl))
    (fun cid sl o => laccAddTo s cid sl o (addValue i sl)) s

def execLaccMac (f : FR) (s : State) : Res :=
  let i := insR f
  laccOp i { g := [i.a, i.b, i.c, i.d] } (laccWarn i) (pLD ||| pST) true (fun cid sl o => addTouches s cid o (macValue i sl))
    (fun cid sl o => laccAddTo s cid sl o (macValue i sl)) s

def execLaccRd (f : FR) (s : State) : Res :=
  let i := insR f
  laccOp i { g := [i.a, i.b], dg := [i.d] } 0 pLD false (fun _ _ o => laccWords o) (fun cid sl o =>
    let n := laccInt (laccN s cid o)
    let r := roundF i.ty (sl.mode (mRm i.mod)) (sl.ftz && i.ty == 0x0B) false sl.seed (.fin (n < 0) n.natAbs (-320) false)
    .ok ([], (sl.afterRnd r.flags r.seed).pendG i.d, 10, some (i.d, BitVec.ofNat 64 r.bits))) s

/-- The source of an LACC.MRG. -/
def mrgSource (s : State) (cid : Nat) (i : Ins) (sl : Slot) : Except Trap Nat := laccCheck s cid sl i i.c (pLD ||| pST) false

/-- LACC.MRG: the sum of the two values read before, over the target. -/
def execLaccMrg (f : FR) (s : State) : Res :=
  let i := insR f
  laccOp i { g := [i.a, i.b, i.c] } (laccWarn i) (pLD ||| pST) true
    (fun cid sl o => match mrgSource s cid i sl with
      | .ok o2 => laccWords o ++ laccWords o2
      | .error _ => [])
    (fun cid sl o =>
      match mrgSource s cid i sl with
      | .error t => .error t
      | .ok o2 =>
        .ok ([(o, leBytes 80 ((laccN s cid o + laccN s cid o2) % 2 ^ 640))], sl, 20, none)) s

/-- The port's operation ends when its cycles have passed: a result is written to its register (R191). -/
def execLaccOperationComplete (cid : Nat) (s : State) : Res :=
  match (s.core cid).lacc with
  | [] => .next s
  | x :: rest =>
    let s1 := s.modCore cid fun c => { c with lacc := rest }
    .next (if (s.cycOf cid - x.since).toNat < x.cycles then s else match x.rd with
      | none => s1
      | some (r, v) => s1.modSlot cid x.slot fun sl => sl.putG r v.toNat)

end Sys2Proof.Machine
end

