-- ==== Sys2Proof/Machine/ExecVec.lean ====
section
/-! DEFINITION. The elementwise vector instructions, comparisons, permutations, reductions and scans, opcodes 0x70 to 0x84,
0x8C, 0x8D and VMOV's copy (R174 to R180, R186 to R188). -/
namespace Sys2Proof.Machine

/-! ## Lanes -/

/-- What a walk over the lanes gathers: the vector being built, the flags and SEED. -/
structure Lanes where
  v     : W512
  flags : FFlags := 0
  seed  : W64
  deriving DecidableEq, Repr

/-- The active elements of width `w` in increasing order. -/
def activeElems (m : BitVec 16) (w : Nat) : List Nat := (List.range (64 / w)).filter (laneOn m w)

/-- One element delivered. -/
def Lanes.put (l : Lanes) (w j : Nat) (r : Rnd) : Lanes :=
  { v := vSetElem l.v w j r.bits, flags := l.flags ||| r.flags, seed := r.seed }

/-- The immediate of a class B vector form for every element (R174). -/
def vecImm (i : Ins) : Nat := if tInt i.ty then i.imm64.toNat else i.immFp.1

/-- The warnings of a vector form. -/
def warnV (i : Ins) (dst : Nat) (rounds : Bool) : BitVec 10 :=
  warnA i.mod dst rounds i.hasImm (!tInt i.ty) ||| (if i.hasImm && !tInt i.ty then i.immFp.2 else 0)

/-- The v sources of a form whose b may be an immediate. -/
def vusesAB (i : Ins) : List RegNo := if i.hasImm then [i.a] else [i.a, i.b]

/-- Source vectors a and b; the immediate stands in every element of b. -/
def vecAB (i : Ins) (w : Nat) (bytes : BitVec 64) (sl : Slot) : Except Trap (W512 × W512) :=
  match sl.useV i.a bytes with
  | .error t => .error t
  | .ok x =>
    if i.hasImm then .ok (x, vOfElems w (List.replicate (64 / w) (vecImm i)))
    else match sl.useV i.b bytes with
      | .error t => .error t
      | .ok y => .ok (x, y)

/-- An elementwise instruction on sources a and b: `f` gives an element from the SEED so far and the two elements. -/
def vecOp2 (i : Ins) (rounds : Bool) (f : Slot → W64 → Nat → Nat → Rnd) (s : State) : Res :=
  execReg i { v := vusesAB i, dv := [i.d] } true (warnV i (if tInt i.ty then 0 else i.ty) rounds) (fun sl =>
    let w := tyBytes i.ty
    let m := sl.laneMask i.pred
    let bytes := activeBytes m w
    match vecAB i w bytes sl with
    | .error t => .error t
    | .ok (x, y) =>
      let r := (activeElems m w).foldl (fun (l : Lanes) j => l.put w j (f sl l.seed (vElem x w j) (vElem y w j)))
        { v := 0, seed := sl.seed }
      .ok ((sl.afterRnd r.flags r.seed).putV i.d bytes r.v)) s

/-- An integer element, or one delivered without rounding. -/
def plainElem (seed : W64) (x : Nat) : Rnd := ⟨x, 0, seed⟩

/-- An exact value delivered into an element (R174). -/
def deliverElem (i : Ins) (sl : Slot) (seed : W64) (v : FVal × FFlags) : Rnd :=
  let r := roundF i.ty (sl.mode (mRm i.mod)) sl.ftz (mSat i.mod && satApplies i.ty) seed v.1
  { r with flags := r.flags ||| v.2 }

/-- An element read as the integer TYPE reads it. -/
def vecInt (t x : Nat) : Int := if t ≤ 4 then sextN (8 * tyBytes t) x else x

/-- Addition, subtraction or multiplication by elements (R176). -/
def vecArith (i : Ins) (fi : Int → Int → Int) (ff : Bool → FVal → FVal → FVal × FFlags) (s : State) : Res :=
  vecOp2 i (!tInt i.ty) (fun sl seed x y =>
    if tInt i.ty then plainElem seed (truncI (8 * tyBytes i.ty) (fi (vecInt i.ty x) (vecInt i.ty y)))
    else deliverElem i sl seed (ff (sl.mode (mRm i.mod) == 3) (fpVal i sl x) (fpVal i sl y))) s

def vecMinMax (i : Ins) (isMax : Bool) (s : State) : Res :=
  vecOp2 i false (fun sl seed x y =>
    if tInt i.ty then
      let a := vecInt i.ty x
      let b := vecInt i.ty y
      plainElem seed (if (b < a) != isMax && a != b then y else x)
    else let r := minMaxF i.ty isMax sl.ftz x y
         ⟨r.1, r.2, seed⟩) s

/-- A bitwise operation or a shift by elements: `f` takes the width in bits and the two elements. -/
def vecBits (i : Ins) (f : Nat → Nat → Nat → Nat) (s : State) : Res :=
  vecOp2 i false (fun _ seed x y => plainElem seed (f (8 * tyBytes i.ty) x y)) s

def vshlN (n u y : Nat) : Nat := (u <<< (y % n)) % 2 ^ n
def vshrN (n u y : Nat) : Nat := u >>> (y % n)
def vsarN (n u y : Nat) : Nat := truncI n (sextN n u / 2 ^ (y % n))

/-- VCMP (R177): the condition for an element, and its flags. -/
def vcmpElem (i : Ins) (sl : Slot) (x y : Nat) : Bool × FFlags :=
  let c := fld i.sub 0 4
  if tInt i.ty then (cmpHolds c (8 * tyBytes i.ty) x y, 0)
  else cmpCondF i.ty (if c == 0xB then 6 else if c == 0xC then 7 else c) sl.ftz x y

/-- The elements of width `w` that a mask bit governs (R34, R177): for w = 8 both bits of a pair stand for one element. -/
def governed (w n : Nat) : List Nat :=
  if w == 8 then [n / 2] else if w == 4 then [n] else (List.range (4 / w)).map (· + n * (4 / w))

def vcmpOp (i : Ins) (s : State) : Res :=
  execReg i { v := vusesAB i } true (warnV i 0 false) (fun sl =>
    let w := tyBytes i.ty
    let m := sl.laneMask i.pred
    match vecAB i w (activeBytes m w) sl with
    | .error t => .error t
    | .ok (x, y) =>
      let res (j : Nat) : Bool := (vcmpElem i sl (vElem x w j) (vElem y w j)).1
      let fl := (activeElems m w).foldl (fun fl j => fl ||| (vcmpElem i sl (vElem x w j) (vElem y w j)).2) 0
      let old := sl.readP i.d.toNat
      let new := (List.range 16).foldl (fun acc n =>
        let es := (governed w n).filter (laneOn m w)
        let bit := if es.isEmpty then old.getLsbD n else es.all res
        if bit then acc + 2 ^ n else acc) 0
      .ok ((sl.addFlags fl).writeP i.d.toNat (BitVec.ofNat 16 new))) s

/-! ## Permutations and element moves (R178 to R180) -/

/-- The elements of a vector. -/
def elemsOf (v : W512) (w : Nat) : List Nat := (List.range (64 / w)).map (vElem v w)

/-- The byte mask of one element. -/
def elemBytes (w j : Nat) : BitVec 64 := byteMask (w * j) w

/-- A vector built element by element over the active lanes, after the marks of the bytes it reads have been checked:
`rd j` gives the registers and bytes that element j reads, `f j` the element. -/
def vecGather (i : Ins) (us : List RegNo) (rd : Slot → Nat → List (RegNo × BitVec 64)) (f : Slot → Nat → Nat) (s : State) : Res :=
  execReg i { v := us, dv := [i.d] } true (warnV i i.ty false) (fun sl =>
    let w := tyBytes i.ty
    let m := sl.laneMask i.pred
    let es := activeElems m w
    if es.any (fun j => (rd sl j).any fun p => (sl.readV p.1).expired &&& p.2 != 0) then .error { cause := cEXPIRED }
    else .ok (sl.putV i.d (activeBytes m w) (es.foldl (fun v j => vSetElem v w j (f sl j)) 0))) s

/-- The index of VPERM's element j among the elements of v[a] and v[b]. -/
def permIdx (i : Ins) (sl : Slot) (j : Nat) : Nat :=
  let w := tyBytes i.ty
  vElem (sl.readV i.c).val w j % (2 * (64 / w))

/-- The element of VBCAST, VINS: a register's low bits, or the immediate (R180). -/
def scalarElem (i : Ins) (sl : Slot) : Nat := (sl.readG i.a).val.toNat % 2 ^ (8 * tyBytes i.ty)

/-- VBCAST writes one value to every active element (R180). The form with a register source counts as a form of the instruction whose
encoding has an immediate: `.z` of an integer TYPE sets no MODIGN there. DESIGN CHOICE (log 69): unsafe. -/
def vbcastOp (i : Ins) (s : State) : Res :=
  execReg i { g := if i.a == 0 then [] else [i.a], dv := [i.d] } true
    (warnA i.mod (if tInt i.ty then 0 else i.ty) false true (!tInt i.ty) |||
      (if i.a == 0 && !tInt i.ty then i.immFp.2 else 0)) (fun sl =>
    let w := tyBytes i.ty
    let x := if i.a == 0 then vecImm i else scalarElem i sl
    .ok (sl.putV i.d (activeBytes (sl.laneMask i.pred) w) (vOfElems w (List.replicate (64 / w) x)))) s

/-! ## Reductions, scans and dot products (R67, R68, R186 to R188) -/

/-- The operation of a node: its value from two present operands, threading flags and SEED. -/
def redNode (i : Ins) (sl : Slot) (op el : Nat) (seed : W64) (x y : Nat) : Rnd :=
  if tInt el then
    let n := 8 * tyBytes el
    let a := vecInt el x
    let b := vecInt el y
    match op with
    | 0 => plainElem seed (truncI n (a + b))
    | 1 => plainElem seed (if b < a then y else x)
    | 2 => plainElem seed (if a < b then y else x)
    | 3 => plainElem seed (x &&& y)
    | 4 => plainElem seed (x ||| y)
    | _ => plainElem seed (x ^^^ y)
  else if op == 0 then
    let mode := sl.mode (mRm i.mod)
    let v := addF (mode == 3) (operandF i.ty sl.ftz x) (operandF i.ty sl.ftz y)
    let r := roundF i.ty mode sl.ftz false seed v.1
    { r with flags := r.flags ||| v.2 }
  else
    let r := minMaxF i.ty (op == 2) sl.ftz x y
    ⟨r.1, r.2, seed⟩

/-- One level of the tree: neighbouring nodes are combined; a node with one present operand passes it on. -/
def redLevel (i : Ins) (sl : Slot) (op el : Nat) : List (Option Nat) → FFlags → W64 → List (Option Nat) × FFlags × W64
  | some x :: some y :: t, fl, seed =>
    let r := redNode i sl op el seed x y
    let (t', fl', seed') := redLevel i sl op el t (fl ||| r.flags) r.seed
    (some r.bits :: t', fl', seed')
  | x :: y :: t, fl, seed =>
    let (t', fl', seed') := redLevel i sl op el t fl seed
    ((if x.isSome then x else y) :: t', fl', seed')
  | t, fl, seed => (t, fl, seed)

/-- Levels until one node is left. -/
def redTree (i : Ins) (sl : Slot) (op el : Nat) : Nat → List (Option Nat) → FFlags → W64 → Option Nat × FFlags × W64
  | 0, l, fl, seed => (l.headD none, fl, seed)
  | n + 1, l, fl, seed =>
    let (l', fl', seed') := redLevel i sl op el l fl seed
    redTree i sl op el n l' fl' seed'

/-- The identity of an absent root (R67). -/
def redIdentity (op el ty : Nat) : Nat :=
  if tInt el then
    let n := 8 * tyBytes el
    match op with
    | 1 => if el ≤ 4 then 2 ^ (n - 1) - 1 else 2 ^ n - 1
    | 2 => if el ≤ 4 then 2 ^ (n - 1) else 0
    | 3 => 2 ^ n - 1
    | _ => 0
  else match op with
    | 0 => 0
    | 1 => infCode ty
    | _ => infCode ty + signBit ty

/-- A leaf: an integer element, or a floating one widened exactly to the result TYPE (R187). A leaf that is of the result TYPE keeps its
bits, a NaN among them, and raises nothing (R67: passed on unrounded). DEDUCED (log 63): unsafe. -/
def redLeaf (i : Ins) (sl : Slot) (el x : Nat) : Nat × FFlags :=
  if tInt el then (x, 0)
  else
    let v := operandF el sl.ftz x
    if el == i.ty then (flushCode el sl.ftz x, 0)
    else ((roundF i.ty 0 false false 0 v).bits, sigFlag [v])

/-- The log2 of the number of lanes. -/
def lanesLog (w : Nat) : Nat := Nat.log2 (64 / w)

def vredOp (i : Ins) (s : State) : Res :=
  let el := fld i.sub 0 5
  let op := fld i.sub 5 3
  execReg i { v := [i.a], dg := [i.d] } true (warnA i.mod (if tInt i.ty then 0 else i.ty) (!tInt el) false true) (fun sl =>
    let w := tyBytes el
    let m := sl.laneMask i.pred
    match sl.useV i.a (activeBytes m w) with
    | .error t => .error t
    | .ok x =>
      let leaves := (List.range (64 / w)).map fun j => if laneOn m w j then some (redLeaf i sl el (vElem x w j)) else none
      let fl0 := leaves.foldl (fun f l => match l with
        | some p => f ||| p.2
        | none => f) 0
      let (root, fl, seed) := redTree i sl op el (lanesLog w) (leaves.map (Option.map (·.1))) fl0 sl.seed
      let v := root.getD (redIdentity op el i.ty)
      let res := if tInt el then intRes i.ty v else v
      .ok ((sl.afterRnd fl seed).putG i.d res)) s

/-- VSCAN: the running result over the active lanes (R68, R188); the first active lane is delivered as it is, a NaN among them. DEDUCED
(log 63): unsafe. -/
def vscanOp (i : Ins) (s : State) : Res :=
  let op := fld i.sub 5 3
  execReg i { v := [i.a], dv := [i.d] } true (warnA i.mod (if tInt i.ty then 0 else i.ty) (!tInt i.ty) false (!tInt i.ty)) (fun sl =>
    let w := tyBytes i.ty
    let m := sl.laneMask i.pred
    let bytes := activeBytes m w
    match sl.useV i.a bytes with
    | .error t => .error t
    | .ok x =>
      let st := (activeElems m w).foldl (fun (p : Lanes × Option Nat) j =>
        let e := vElem x w j
        let r := match p.2 with
          | none => plainElem p.1.seed (if tInt i.ty then e else flushCode i.ty sl.ftz e)
          | some acc => redNode i sl op i.ty p.1.seed acc e
        (p.1.put w j r, some r.bits)) ({ v := 0, seed := sl.seed }, none)
      .ok ((sl.afterRnd st.1.flags st.1.seed).putV i.d bytes st.1.v)) s

/-- A sum of exact values without rounding: NaN and infinities as R66 gives them; an exact zero is -0 when every addend is -0.
Returns the sum and NV where it is invalid. DEDUCED (log 63): unsafe. -/
def sumExact (vs : List FVal) : FVal × FFlags :=
  if vs.any FVal.isNan then (.nan false, 0)
  else
    let pos := vs.any fun v => v == .inf false
    let neg := vs.any fun v => v == .inf true
    if pos && neg then (.nan false, fNV)
    else if pos then (.inf false, 0)
    else if neg then (.inf true, 0)
    else
      let e0 := vs.foldl (fun m v => match v with
        | .fin _ _ e _ => min m e
        | _ => m) 0
      let t := vs.foldl (fun acc v => match v with
        | .fin n m e _ => acc + sigAt n m e e0
        | _ => acc) 0
      if t == 0 then (.fin (vs.all fun v => v.isZero && v.neg?) 0 0 false, 0)
      else (.fin (t < 0) t.natAbs e0 false, 0)

/-- A lane of VDOT from v[a], v[b] and v[c] (R186): the products of its elements accumulate on the lane's 32 bits, with one
rounding. -/
def vdotLane (i : Ins) (sl : Slot) (x y z : W512) (seed : W64) (j : Nat) : Rnd :=
  let w := tyBytes i.ty
  let es := (List.range (4 / w)).map (· + j * (4 / w))
  if tInt i.ty then
    plainElem seed (truncI 32 ((es.map fun e => vecInt i.ty (vElem x w e) * vecInt i.ty (vElem y w e)).foldl (· + ·)
      (sextN 32 (vElem z 4 j))))
  else
    let mode := sl.mode (mRm i.mod)
    let ps := es.map fun e => mulF (fpVal i sl (vElem x w e)) (fpVal i sl (vElem y w e))
    let zv := operandF 0x0B sl.ftz (vElem z 4 j)
    let t := sumExact (zv :: ps.map (·.1))
    let v := match t.1 with
      | .fin n 0 e st => if n then FVal.fin n 0 e st else .fin (mode == 3 && !(zv :: ps.map (·.1)).all (fun v => v.isZero && !v.neg?)) 0 0 false
      | v => v
    let r := roundF 0x0B mode sl.ftz false seed v
    { r with flags := r.flags ||| t.2 ||| sigFlag [zv] ||| (ps.foldl (fun f p => f ||| p.2) 0) }

/-- VDOT (R186). -/
def vdotOp (i : Ins) (s : State) : Res :=
  execReg i { v := [i.a, i.b, i.c], dv := [i.d] } true (warnA i.mod (if tInt i.ty then 0 else 0x0B) (!tInt i.ty) false (!tInt i.ty)) (fun sl =>
    let m := sl.laneMask i.pred
    let bytes := activeBytes m 4
    match sl.useV i.a bytes, sl.useV i.b bytes, sl.useV i.c bytes with
    | .ok x, .ok y, .ok z =>
      let r := (activeElems m 4).foldl (fun (l : Lanes) j => l.put 4 j (vdotLane i sl x y z l.seed j)) { v := 0, seed := sl.seed }
      .ok ((sl.afterRnd r.flags r.seed).putV i.d bytes r.v)
    | _, _, _ => .error { cause := cEXPIRED }) s

/-! ## The meanings -/

def execVadd (f : FR) (s : State) : Res := vecArith (insR f) (· + ·) addF s
def execVaddF96 (f : FX) (s : State) : Res := vecArith (insX f) (· + ·) addF s
def execVsub (f : FR) (s : State) : Res := vecArith (insR f) (· - ·) subF s
def execVsubF96 (f : FX) (s : State) : Res := vecArith (insX f) (· - ·) subF s
def execVmul (f : FR) (s : State) : Res := vecArith (insR f) (· * ·) (fun _ => mulF) s
def execVmulF96 (f : FX) (s : State) : Res := vecArith (insX f) (· * ·) (fun _ => mulF) s

def execVfma (f : FR) (s : State) : Res :=
  let i := insR f
  execReg i { v := [i.a, i.b, i.c], dv := [i.d] } true (warnV i i.ty true) (fun sl =>
    let w := tyBytes i.ty
    let m := sl.laneMask i.pred
    let bytes := activeBytes m w
    match sl.useV i.a bytes, sl.useV i.b bytes, sl.useV i.c bytes with
    | .ok x, .ok y, .ok z =>
      let r := (activeElems m w).foldl (fun (l : Lanes) j =>
        l.put w j (deliverElem i sl l.seed (fmaF (sl.mode (mRm i.mod) == 3) (i.sub.getLsbD 0) (i.sub.getLsbD 1)
          (fpVal i sl (vElem x w j)) (fpVal i sl (vElem y w j)) (fpVal i sl (vElem z w j))))) { v := 0, seed := sl.seed }
      .ok ((sl.afterRnd r.flags r.seed).putV i.d bytes r.v)
    | _, _, _ => .error { cause := cEXPIRED }) s

def execVmin (f : FR) (s : State) : Res := vecMinMax (insR f) false s
def execVminF96 (f : FX) (s : State) : Res := vecMinMax (insX f) false s
def execVmax (f : FR) (s : State) : Res := vecMinMax (insR f) true s
def execVmaxF96 (f : FX) (s : State) : Res := vecMinMax (insX f) true s

def execVsgn (f : FR) (s : State) : Res :=
  let i := insR f
  vecOp2 i false (fun _ seed x y => plainElem seed (sgnF i.ty i.sub.toNat x y)) s

def execVcmp (f : FR) (s : State) : Res := vcmpOp (insR f) s
def execVcmpF96 (f : FX) (s : State) : Res := vcmpOp (insX f) s

/-- VSEL copies elements with their marks (R141, R178). -/
def execVsel (f : FR) (s : State) : Res :=
  let i := insR f
  execReg i { v := [i.a, i.b], dv := [i.d] } true (warnV i i.ty false) (fun sl =>
    let w := tyBytes i.ty
    let sel := activeBytes (sl.readP i.c.toNat) w
    let x := sl.readV i.a
    let y := sl.readV i.b
    .ok (sl.copyV i.d (activeBytes (sl.laneMask i.pred) w) (mergeBytes y.val x.val sel)
      ((x.expired &&& sel) ||| (y.expired &&& ~~~sel)))) s

def execVand (f : FR) (s : State) : Res := vecBits (insR f) (fun _ x y => x &&& y) s
def execVandF96 (f : FX) (s : State) : Res := vecBits (insX f) (fun _ x y => x &&& y) s
def execVor (f : FR) (s : State) : Res := vecBits (insR f) (fun _ x y => x ||| y) s
def execVorF96 (f : FX) (s : State) : Res := vecBits (insX f) (fun _ x y => x ||| y) s
def execVxor (f : FR) (s : State) : Res := vecBits (insR f) (fun _ x y => x ^^^ y) s
def execVxorF96 (f : FX) (s : State) : Res := vecBits (insX f) (fun _ x y => x ^^^ y) s
def execVshl (f : FR) (s : State) : Res := vecBits (insR f) vshlN s
def execVshlF96 (f : FX) (s : State) : Res := vecBits (insX f) vshlN s
def execVshr (f : FR) (s : State) : Res := vecBits (insR f) vshrN s
def execVshrF96 (f : FX) (s : State) : Res := vecBits (insX f) vshrN s
def execVsar (f : FR) (s : State) : Res := vecBits (insR f) vsarN s
def execVsarF96 (f : FX) (s : State) : Res := vecBits (insX f) vsarN s
def execVred (f : FR) (s : State) : Res := vredOp (insR f) s
def execVscan (f : FR) (s : State) : Res := vscanOp (insR f) s

/-- VPERM (R179). -/
def execVperm (f : FR) (s : State) : Res :=
  let i := insR f
  let w := tyBytes i.ty
  let n := 64 / w
  vecGather i [i.a, i.b, i.c]
    (fun sl j =>
      let k := permIdx i sl j
      [(i.c, elemBytes w j), if k < n then (i.a, elemBytes w k) else (i.b, elemBytes w (k - n))])
    (fun sl j =>
      let k := permIdx i sl j
      if k < n then vElem (sl.readV i.a).val w k else vElem (sl.readV i.b).val w (k - n)) s

def execVbcast (f : FI) (s : State) : Res := vbcastOp (insIA f) s
def execVbcastF96 (f : FX) (s : State) : Res := vbcastOp (insX f) s
def execVbcastF128 (f : FL) (s : State) : Res := vbcastOp (insL f) s

/-- VEXT: element i of v[a], when it is active (R180). -/
def execVext (f : FR) (s : State) : Res :=
  let i := insR f
  execReg i { g := [i.b], v := [i.a], dg := [i.d] } true (warnV i (if tInt i.ty then 0 else i.ty) false) (fun sl =>
    let w := tyBytes i.ty
    let k := (sl.g64 i.b).toNat % (64 / w)
    if laneOn (sl.laneMask i.pred) w k then
      match sl.useV i.a (elemBytes w k) with
      | .error t => .error t
      | .ok x =>
        let e := vElem x w k
        .ok (sl.putG i.d (if tInt i.ty then intRes i.ty e else e))
    else .ok sl) s

/-- VINS: element i of v[d], when it is active (R180). -/
def execVins (f : FR) (s : State) : Res :=
  let i := insR f
  execReg i { g := [i.a, i.b], dv := [i.d] } true (warnV i i.ty false) (fun sl =>
    let w := tyBytes i.ty
    let k := (sl.g64 i.b).toNat % (64 / w)
    if laneOn (sl.laneMask i.pred) w k then
      .ok (sl.putV i.d (elemBytes w k) (vSetElem 0 w k (scalarElem i sl)))
    else .ok sl) s

/-- VLUT: a table of 16 entries indexed by nibbles (R179). -/
def execVlut (f : FR) (s : State) : Res :=
  let i := insR f
  let w := tyBytes i.ty
  let nib (sl : Slot) (j : Nat) : Nat := fld (sl.readV i.a).val (4 * j) 4
  vecGather i [i.a, i.b]
    (fun sl j => [(i.a, elemBytes 1 (j / 2)), (i.b, elemBytes w (nib sl j))])
    (fun sl j => vElem (sl.readV i.b).val w (nib sl j)) s

def execVdot (f : FR) (s : State) : Res := vdotOp (insR f) s

/-- VMOV without `.pop` or `.push` copies elements with their marks (R141, R178). -/
def execVmov (f : FR) (s : State) : Res :=
  let i := insR f
  execReg i { v := [i.a], dv := [i.d] } true (warnV i i.ty false) (fun sl =>
    let x := sl.readV i.a
    .ok (sl.copyV i.d (activeBytes (sl.laneMask i.pred) (tyBytes i.ty)) x.val x.expired)) s

end Sys2Proof.Machine
end

