-- ==== Sys2Proof/Machine/ExecVcvt.lean ====
section
/-! DEFINITION. Vector conversions, block quantisation and the approximations, opcodes 0x85 to 0x8B (R181 to R185). -/
namespace Sys2Proof.Machine

/-! ## VCVT (R181) -/

/-- One element from a source type to a destination type. -/
def cvtElem (i : Ins) (sl : Slot) (src dst : Nat) (seed : W64) (x : Nat) : Rnd :=
  let mode := sl.mode (mRm i.mod)
  let sat := mSat i.mod && satApplies dst
  if tInt src then
    if tInt dst then plainElem seed (truncI (8 * tyBytes dst) (vecInt src x))
    else if dst == 0x10 then
      let r := toE8M0 (ofIntF (vecInt src x))
      ⟨r.1, r.2, seedAfter mode seed⟩
    else roundF dst mode sl.ftz sat seed (ofIntF (vecInt src x))
  else if tInt dst then
    let r := toIntF (8 * tyBytes dst) (dst ≤ 4) mode seed (operandF src sl.ftz x)
    ⟨truncI (8 * tyBytes dst) r.1, r.2.1, r.2.2⟩
  else convF src dst mode sl.ftz sat seed x

/-- The elements that VCVT converts: source and destination element of each (R181). -/
def cvtPairs (src dst part : Nat) : List (Nat × Nat) :=
  let ws := tyBytes src
  let wd := tyBytes dst
  let n := 64 / max ws wd
  (List.range n).map fun k => if wd < ws then (k, part * n + k) else if ws < wd then (part * n + k, k) else (k, k)

def vcvtPlain (i : Ins) (src : Nat) (s : State) : Res :=
  let dst := i.ty
  execReg i { v := [i.a], dv := [i.d] } true
    (warnA i.mod (if tInt dst then 0 else dst) (!(tInt src && tInt dst)) false true) (fun sl =>
    let ws := tyBytes src
    let wd := tyBytes dst
    let m := sl.laneMask i.pred
    let ps := (cvtPairs src dst (fld i.sub 5 3)).filter fun p => laneOn m wd p.2
    let used := ps.foldl (fun b p => b ||| elemBytes ws p.1) 0
    let wr := ps.foldl (fun b p => b ||| elemBytes wd p.2) 0
    match sl.useV i.a used with
    | .error t => .error t
    | .ok x =>
      let r := ps.foldl (fun (l : Lanes) p => l.put wd p.2 (cvtElem i sl src dst l.seed (vElem x ws p.1)))
        { v := 0, seed := sl.seed }
      .ok ((sl.afterRnd r.flags r.seed).putV i.d wr r.v)) s

/-! ## VQUANT and VDEQ (R182, R183) -/

/-- The 32 source elements of a quantisation, with +0 for an inactive one; an FP32 source takes 16 from each register. -/
def quantElems (src : Nat) (m : BitVec 16) (ftz : Bool) (x y : W512) : List FVal :=
  let w := tyBytes src
  (List.range 32).map fun j =>
    let k := if w == 4 then j % 16 else j
    if laneOn m w k then operandF src ftz (vElem (if w == 4 && 16 ≤ j then y else x) w k) else .fin false 0 0 false

/-- VQUANT, and VCVT to a block format. -/
def vquantOp (i : Ins) (src : Nat) (s : State) : Res :=
  let two := src == 0x0B
  let warns (sl : Slot) : BitVec 10 := warnBlock sl i.mod ||| (if mZ i.mod then wMODIGN else 0)
  execReg i { v := if two then [i.a, i.b] else [i.a], dv := [i.d] } true 0 (fun sl =>
    let m := sl.laneMask i.pred
    let bytes := activeBytes m (tyBytes src)
    match sl.useV i.a bytes, (if two then sl.useV i.b bytes else .ok 0) with
    | .ok x, .ok y =>
      let sl1 := sl.addWarn (warns sl)
      if bytes == 0 then .ok sl1
      else
        let r := quantise i.ty (mSat i.mod) (quantElems src m sl.ftz x y)
        .ok ((sl1.addFlags r.2).putV i.d (BitVec.allOnes 64) (ofBytes 512 r.1))
    | _, _ => .error { cause := cEXPIRED }) s

/-- The bytes of a block that its active elements read. -/
def blockUse (blk : Nat) (act : Nat → Bool) : BitVec 64 :=
  let es := (List.range 32).filter act
  if es.isEmpty then 0
  else
    let base := es.foldl (fun b j => b ||| byteMask (if blk == 0x12 then j / 2 else j) 1) 0
    base ||| (if blk == 0x12 then byteMask 16 2 else byteMask 32 1)

/-- VDEQ, and VCVT from a block format; beyond the FP32 range the signed infinity. DEDUCED (log 63): unsafe. DESIGN CHOICE (log 69):
unsafe. -/
def vdeqOp (i : Ins) (blk : Nat) (s : State) : Res :=
  let two := i.ty == 0x0B
  let d2 : RegNo := i.d + 1
  execReg i { v := [i.a], dv := if two then [i.d, d2] else [i.d] } true (warnA i.mod i.ty true false true) (fun sl =>
    let m := sl.laneMask i.pred
    let w := tyBytes i.ty
    let act (j : Nat) : Bool := laneOn m w (if two then j % 16 else j)
    match sl.useV i.a (blockUse blk act) with
    | .error t => .error t
    | .ok x =>
      let bytes := bytesOf x 64
      let mode := sl.mode (mRm i.mod)
      let elem (l : Lanes) (j slot : Nat) : Lanes :=
        let v := decodeBlock blk bytes j
        -- an FP32 result is delivered exactly, without `Round`: it raises no flag but OF and draws nothing (R58, R59, R65)
        let r := if two then
            let r0 := roundF 0x0B 0 false false 0 v
            ⟨r0.bits, r0.flags &&& fOF, l.seed⟩
          else roundF i.ty mode sl.ftz (mSat i.mod) l.seed v
        l.put w slot r
      let ab := activeBytes m w
      if two then
        let l1 := (activeElems m 4).foldl (fun l j => elem l j j) { v := 0, seed := sl.seed }
        let l2 := (activeElems m 4).foldl (fun l j => elem l (j + 16) j) { v := 0, flags := l1.flags, seed := l1.seed }
        .ok (((sl.afterRnd l2.flags l2.seed).putV i.d ab l1.v).putV d2 ab l2.v)
      else
        let l1 := (activeElems m 2).foldl (fun l j => elem l j j) { v := 0, seed := sl.seed }
        .ok ((sl.afterRnd l1.flags l1.seed).putV i.d ab l1.v)) s

/-! ## Approximations (R184, R185) -/

/-- An exact result known to lie from `m * 2^e` to `(m + w) * 2^e`, with its sign. -/
structure Encl where
  neg : Bool
  m   : Nat
  w   : Nat
  e   : Int
  deriving DecidableEq, Repr

/-- A finite code lies within `n * 2^u` of every value of an enclosure. DESIGN CHOICE (log 3): safe. -/
def within (t c : Nat) (x : Encl) (n : Nat) (u : Int) : Bool :=
  match decodeF t c with
  | .fin neg mc ec _ =>
    let e0 := min (min ec x.e) u
    let cv := sigAt neg mc ec e0
    let lo := sigAt x.neg x.m x.e e0
    let hi := sigAt x.neg (x.m + x.w) x.e e0
    let b : Int := (n * 2 ^ (u - e0).toNat : Nat)
    (cv - lo).natAbs ≤ b && (cv - hi).natAbs ≤ b && (mc == 0 || neg == x.neg)
  | _ => false

/-- The exponent of one unit in the last place at an enclosed value. -/
def ulpExp (t : Nat) (x : Encl) : Int :=
  let emin : Int := 1 - ((ffmt t).bias : Int)
  max (x.e + (bitLen x.m : Int) - 1) emin - (ffmt t).mant

/-- The delivery of an approximation: the device's own code, a free value, where it meets the stated bound of `n * 2^u`; the
rounded exact value where the free value does not. NX is set for every finite result (R184). DESIGN CHOICE (log 3): safe. -/
def deliverApprox (op t : Nat) (xc : Nat) (mode : RMode) (ftz : Bool) (seed : W64) (x : Encl) (n : Nat) (u : Int) : Rnd :=
  let r := roundF t mode ftz false seed (.fin x.neg x.m x.e true)
  let c := (Config.approx op t (BitVec.ofNat 32 xc) mode seed).toNat % 2 ^ (ffmt t).bits
  if r.flags &&& fOF != 0 then r
  else
    let emin : Int := 1 - ((ffmt t).bias : Int)
    let tiny := x.e + (bitLen x.m : Int) - 1 < emin
    let fl := fNX ||| (if tiny then fUF else 0)
    if within t c x n u then
      if ftz && isSubn t c then ⟨c / signBit t * signBit t, fUF ||| fNX, r.seed⟩ else ⟨c, fl, r.seed⟩
    else { r with flags := r.flags ||| fl }

/-- An exact result delivered without NX. -/
def deliverExact (t : Nat) (mode : RMode) (ftz : Bool) (seed : W64) (v : FVal) (fl : FFlags) : Rnd :=
  let r := roundF t mode ftz false seed v
  { r with flags := r.flags ||| fl }

/-- VRCP of an element (R185). -/
def rcpElem (t x : Nat) (mode : RMode) (ftz : Bool) (seed : W64) : Rnd :=
  match operandF t ftz x with
  | .nan sig => deliverExact t mode ftz seed (.nan false) (if sig then fNV else 0)
  | .inf n => deliverExact t mode ftz seed (.fin n 0 0 false) 0
  | .fin n m e _ =>
    if m == 0 then deliverExact t mode ftz seed (.inf n) fDZ
    else
      let k : Int := e + (bitLen m : Int) - 1
      if m == 2 ^ (bitLen m - 1) && 1 - ((ffmt t).bias : Int) ≤ -k && -k ≤ (ffmt t).bias then
        deliverExact t mode ftz seed (.fin n 1 (-k) false) 0
      else
        let q := 2 ^ (128 + bitLen m)
        let z : Encl := { neg := n, m := q / m, w := 1, e := -e - (128 + bitLen m : Nat) }
        deliverApprox 2 t x mode ftz seed z 1 (ulpExp t z)

/-- VRSQ of an element. -/
def rsqElem (t x : Nat) (mode : RMode) (ftz : Bool) (seed : W64) : Rnd :=
  match operandF t ftz x with
  | .nan sig => deliverExact t mode ftz seed (.nan false) (if sig then fNV else 0)
  | .inf true => deliverExact t mode ftz seed (.nan false) fNV
  | .inf false => deliverExact t mode ftz seed (.fin false 0 0 false) 0
  | .fin n m e _ =>
    if m == 0 then deliverExact t mode ftz seed (.inf n) fDZ
    else if n then deliverExact t mode ftz seed (.nan false) fNV
    else
      let k : Int := e + (bitLen m : Int) - 1
      if m == 2 ^ (bitLen m - 1) && k % 2 == 0 then deliverExact t mode ftz seed (.fin false 1 (-(k / 2)) false) 0
      else
        -- 1 / sqrt(m 2^e) = sqrt(2^j / m) 2^-(e + j)/2 for j with e + j even
        let j : Nat := if e % 2 == 0 then 256 + 2 * (bitLen m / 2) else 257 + 2 * (bitLen m / 2)
        let z : Encl := { neg := false, m := isqrt (2 ^ j / m) 160 0, w := 2, e := -(e + j) / 2 }
        deliverApprox 3 t x mode ftz seed z 1 (ulpExp t z)

/-- 2^(2^-i) for i = 1, 2, ... as multiples of 2^-128, each rounded down. -/
def rootTable : Nat → Nat → List Nat
  | 0, _ => []
  | n + 1, r =>
    let q := isqrt (r * 2 ^ 128) 130 0
    q :: rootTable n q

/-- 2^f for a fraction of 96 bits, as a multiple of 2^-128; short of the value by less than 2^-118 of it. -/
def exp2Frac (f : Nat) : Nat :=
  ((rootTable 96 (2 ^ 129)).foldl (fun (p : Nat × Nat) r =>
    (if f.testBit (95 - p.2) then p.1 * r / 2 ^ 128 else p.1, p.2 + 1)) (2 ^ 128, 0)).1

/-- VEXP2 of an element. -/
def exp2Elem (t x : Nat) (mode : RMode) (ftz : Bool) (seed : W64) : Rnd :=
  match operandF t ftz x with
  | .nan sig => deliverExact t mode ftz seed (.nan false) (if sig then fNV else 0)
  | .inf true => deliverExact t mode ftz seed (.fin false 0 0 false) 0
  | .inf false => deliverExact t mode ftz seed (.inf false) 0
  | .fin n m e _ =>
    if m == 0 then deliverExact t mode ftz seed (.fin false 1 0 false) 0
    else if 12 < e + (bitLen m : Int) then
      let z : Encl := { neg := false, m := 2 ^ 128, w := 1, e := if n then -5000 else 5000 }
      deliverApprox 0 t x mode ftz seed z 2 (ulpExp t z)
    else
      -- x as a multiple of 2^-96, rounded down
      let v := sigAt n m (e + 96) 0
      let q : Int := 2 ^ (-(e + 96)).toNat
      let v96 : Int := if 0 ≤ e + 96 then v else (if n then -(m : Int) else m) / q
      let whole : Int := v96 / 2 ^ 96
      let frac := (v96 % 2 ^ 96).toNat
      let emin : Int := 1 - ((ffmt t).bias : Int) - (ffmt t).mant
      if frac == 0 && (0 ≤ e + 96 || m % 2 ^ (-(e + 96)).toNat == 0) && emin ≤ whole && whole ≤ (ffmt t).bias then
        deliverExact t mode ftz seed (.fin false 1 whole false) 0
      else
        let z : Encl := { neg := false, m := exp2Frac frac, w := 2 ^ 34, e := whole - 128 }
        deliverApprox 0 t x mode ftz seed z 2 (ulpExp t z)

/-- The bits of log2 y for y from 1 to 2, y a multiple of 2^-192: `n` further bits after `acc`. -/
def log2Frac : Nat → Nat → Nat → Nat
  | 0, _, acc => acc
  | n + 1, y, acc =>
    let y2 := y * y / 2 ^ 192
    if 2 ^ 193 ≤ y2 then log2Frac n (y2 / 2) (2 * acc + 1) else log2Frac n y2 (2 * acc)

/-- VLOG2 of an element; from 0.5 to 2 exclusive the bound is absolute. -/
def log2Elem (t x : Nat) (mode : RMode) (ftz : Bool) (seed : W64) : Rnd :=
  match operandF t ftz x with
  | .nan sig => deliverExact t mode ftz seed (.nan false) (if sig then fNV else 0)
  | .inf true => deliverExact t mode ftz seed (.nan false) fNV
  | .inf false => deliverExact t mode ftz seed (.inf false) 0
  | .fin n m e _ =>
    if m == 0 then deliverExact t mode ftz seed (.inf true) fDZ
    else if n then deliverExact t mode ftz seed (.nan false) fNV
    else
      let k : Int := e + (bitLen m : Int) - 1
      if m == 2 ^ (bitLen m - 1) then deliverExact t mode ftz seed (ofIntF k) 0
      else
        let y := m * 2 ^ (192 - (bitLen m - 1))
        -- log2 x as a multiple of 2^-80, short by less than 2 of them
        let l : Int := k * 2 ^ 80 + (log2Frac 80 y 0 : Nat)
        let z : Encl := if 0 ≤ l then { neg := false, m := l.toNat, w := 2, e := -80 }
          else { neg := true, m := (-l).toNat - 2, w := 2, e := -80 }
        if k == 0 || k == -1 then
          deliverApprox 1 t x mode ftz seed z 1 (if t == 0x0B then -22 else if t == 0x0C then -10 else -7)
        else deliverApprox 1 t x mode ftz seed z 2 (ulpExp t z)

/-- An approximation over the active elements. -/
def vapprox (i : Ins) (f : Nat → Nat → RMode → Bool → W64 → Rnd) (s : State) : Res :=
  execReg i { v := [i.a], dv := [i.d] } true (warnV i i.ty true) (fun sl =>
    let w := tyBytes i.ty
    let m := sl.laneMask i.pred
    let bytes := activeBytes m w
    match sl.useV i.a bytes with
    | .error t => .error t
    | .ok x =>
      let r := (activeElems m w).foldl (fun (l : Lanes) j =>
        let r := f i.ty (vElem x w j) (sl.mode (mRm i.mod)) sl.ftz l.seed
        -- `.sat` turns an overflow into the largest finite value (R56)
        let r := if mSat i.mod && satApplies i.ty && r.flags &&& fOF != 0 then
            { r with bits := r.bits / signBit i.ty * signBit i.ty + maxCode i.ty } else r
        l.put w j r) { v := 0, seed := sl.seed }
      .ok ((sl.afterRnd r.flags r.seed).putV i.d bytes r.v)) s

/-! ## The meanings -/

/-- VCVT, with its block routes (R181). -/
def execVcvt (f : FR) (s : State) : Res :=
  let i := insR f
  let src := fld i.sub 0 5
  if isBlock i.ty then vquantOp i src s
  else if isBlock src then vdeqOp i src s
  else vcvtPlain i src s

def execVquant (f : FR) (s : State) : Res := vquantOp (insR f) (fld f.sub 0 5) s
def execVdeq (f : FR) (s : State) : Res := vdeqOp (insR f) (fld f.sub 0 5) s
def execVexp2 (f : FR) (s : State) : Res := vapprox (insR f) exp2Elem s
def execVlog2 (f : FR) (s : State) : Res := vapprox (insR f) log2Elem s
def execVrcp (f : FR) (s : State) : Res := vapprox (insR f) rcpElem s
def execVrsq (f : FR) (s : State) : Res := vapprox (insR f) rsqElem s

end Sys2Proof.Machine
end

