-- ==== Sys2Proof/Machine/Loss.lean ====
section
/-! DEFINITION. Diagnosis and recovery: heartbeats, declarations of loss, the self-fence, retired cores and replaced C-dies (R421, R491
to R498). -/
namespace Sys2Proof.Machine

/-! ## Heartbeats (R491, R493) -/

/-- The neighbours of this package. -/
def State.neighbours (s : State) : List Nat := (portList s.pkg.toNat).filter (· != s.pkg.toNat)

/-- The Owls act: the V-die works and the package has not fenced itself. -/
def State.owls (s : State) : Bool := !s.halted && !s.fab.lost.contains .vdie

/-- HEARTBEAT: the Owls' heartbeats leave to every neighbour, and those of some neighbours have arrived. -/
def execHeartbeat (heard : List Nat) (s : State) : Res :=
  if !s.owls then .next s
  else
    let hs := heard.filter fun p => s.neighbours.contains p
    .next { s with
      out := s.out ++ s.neighbours.map Out.heartbeat
      fab := { s.fab with heard := hs.foldl (fun t p => tblSet p s.reft t) s.fab.heard, silent := s.fab.silent.filter fun p => !hs.contains p } }

/-- Ticks since a neighbour's last heartbeat, or since reset. -/
def State.quietFor (s : State) (p : Nat) : Nat := (s.reft - tblGetD s.fab.heard p 0).toNat

/-- NEIGHBOUR_SILENT: no heartbeat of a neighbour for 1 ms. -/
def execNeighbourSilent (p : Nat) (s : State) : Res :=
  .next (if s.owls && s.neighbours.contains p && 1000000 ≤ s.quietFor p && !s.fab.silent.contains p then
      { s with fab := { s.fab with silent := s.fab.silent ++ [p] } }
    else s)

/-- SELF_FENCE: no heartbeat of any neighbour for 2 ms. -/
def execSelfFence (s : State) : Res :=
  .next (if !s.fab.fenced && s.neighbours.all fun p => 2000000 ≤ s.quietFor p then { s with fab := { s.fab with fenced := true } } else s)

/-! ## What stops working (R494) -/

/-- The logical dies that a C-die of this package stands for under the current map. -/
def State.logicalOf (s : State) (n : Nat) : List Nat :=
  (List.range 16).filter fun k => !(vget s.fab.map k 0).getLsbD 15 && fld (vget s.fab.map k 0) 0 5 == n

def State.modDie (s : State) (d : Nat) (f : Die → Die) : State := s.setDie d (f (s.die d))

/-- An M-die's array and memory are gone; what waited for its HBM is answered at its home. DEDUCED (log 50): unsafe. -/
def State.loseMdie (s : State) (m : Nat) : State :=
  let f (r : Req) : Req := if paMdie r.pa == m && (r.stage == .hbm || r.stage == .fill) then { r with stage := .home } else r
  { s.setMdie m { s.mdie m with lost := true, llc := [] } with reqs := s.reqs.map f }

/-- One S-die's storage and its packets are gone. -/
def State.loseSdie (s : State) (x : Nat) : State :=
  { s with
    dir := { s.dir with live := vset s.dir.live x false, tcache := vset s.dir.tcache x [] }
    reqs := s.reqs.map fun r => if r.org != 0x3FF && r.stage == .walk && r.sdie == x then { r with sdie := 1 - x } else r
    fab := { s.fab with packets := s.fab.packets.filter fun (k : Packet) => !(k.port.any fun q => q / 16 == x) } }

/-- A unit stops. A package's own loss stops all of it; another's is seen by its silence. -/
def State.stopUnit (s : State) : DieRef → State
  | .cdie n => (s.logicalOf n).foldl (fun s k => s.modDie k fun d => { d with dead := true }) s
  | .mdie m => if m < 6 then s.loseMdie m else s
  | .sdie x => if x < 2 then s.loseSdie x else s
  | .vdie => if s.fab.lost.contains .vdie then s else { s with fab := { s.fab with lost := s.fab.lost ++ [.vdie] } }
  | .package p => if p == s.pkg.toNat then { s with host := { s.host with off := true } } else s
  | .tray ps => if ps.contains s.pkg.toNat then { s with host := { s.host with off := true } } else s

/-- DIE_LOSS. -/
def execDieLoss (d : DieRef) (s : State) : Res := .next (s.stopUnit d)

/-! ## Charging lost tasks (R481, R494 to R496) -/

/-- Several domains charged, each once. -/
def State.chargeAll (s : State) (ds : List (Nat × BitVec 4)) : State :=
  (ds.filter fun d => d.2 != 0).eraseDups.foldl (fun s d => s.chargeDom d.1 d.2) s

/-- The tasks of a core: the domains of its activations, of its waiting records and of its queued messages. -/
def State.coreTasks (s : State) (cid : Nat) : List (Nat × BitVec 4) :=
  let c := s.core cid
  (([0, 1, 2, 3].filter fun k => (c.slot k).live).map fun k => (s.ctxOf cid, (c.slot k).act.did)) ++
  (c.bufs.toList.flatMap fun b => (b.recs.filter fun r => !r.pad && !r.taken).map fun r => (r.msg.ctx, r.msg.did)) ++
  c.sendq.map fun m => (m.ctx, m.did)

/-- The tasks of an engine's queue. -/
def jobTasks (js : List Job) : List (Nat × BitVec 4) := js.map fun j => (j.ctx, j.did)

/-- Activations outside any domain that are lost on a core, each reported to the host. -/
def State.postLost (s : State) (cid : Nat) : State :=
  ([0, 1, 2, 3].filter fun k => (s.slotAt cid k).live && (s.slotAt cid k).act.did == 0).foldl
    (fun s _ => s.pendFault 2 (coreNo cid + 65536 * (s.lidOf cid).toNat)) s

/-! ## Another package is lost (R421, R487, R494) -/

/-- Domains with a task in a package, or with a message on its way there. DEDUCED (log 25): unsafe. -/
def State.remoteTasks (s : State) (p : Nat) : List (Nat × BitVec 4) :=
  ((s.domains.filter fun d => tblGetD d.remote p 0 != 0).map fun d => (d.ctx, d.did)) ++
  s.cores.flatMap fun x => (x.2.sendq.filter fun m => m.inFlight && fld m.addr 53 10 == p).map fun m => (m.ctx, m.did)

/-- The home directory without a package: its copies are gone, and what it alone held is poisoned. -/
def State.dirLoss (s : State) (p : Nat) : State :=
  let f (e : DirEnt) : DirEnt :=
    let e1 := if e.crs then e else { e with shr := e.shr.filter (· != p) }
    if (e.state == stE || e.state == stO || e.state == stM) && e.owner == p then { e1 with state := stI }
    else if e1.state == stS && !e1.crs && e1.shr.isEmpty then { e1 with state := stI } else e1
  let gone := s.dir.ents.filter fun e => (e.state == stO || e.state == stM) && e.owner == p
  let left := s.dir.ents.map f
  let freed := left.filter fun e => e.state == stI
  let s0 := freed.foldl (fun s e => s.setExp e.pline false) { s with dir := { s.dir with ents := left.filter fun e => e.state != stI } }
  let s2 := gone.foldl (fun s e => s.poison e.pline) s0
  let mine (q : DirReq) : Bool := match q with
    | .gets r _ _ _ => r == p
    | .getm r _ _ _ => r == p
    | .put r _ _ => r == p
    | .puts r _ => r == p
    | .both _ => false
  let s1 := { s2 with dir := { s2.dir with queue := s2.dir.queue.filter fun q => !mine q } }
  let ts := (s1.dir.trans.filter fun t => t.wait_.contains p || t.req == p).map (·.pline)
  (ts.foldl (fun s pl =>
    let g (t : Trans) : Trans := { t with wait_ := t.wait_.filter (· != p), recalled := t.recalled || (t.req == p && t.local_.isNone) }
    ({ s with dir := { s.dir with trans := replaceFirst (fun (t : Trans) => t.pline == pl) g s.dir.trans } }).settle pl) s1).dirDrain

/-- Lines of a lost home are dropped here. -/
def State.foreignLoss (s : State) (p : Nat) : State :=
  (List.range 6).foldl (fun s m => s.setMdie m { s.mdie m with llc := (s.mdie m).llc.filter fun l => !(l.frn && l.pkg == p) })
    { s with dir := { s.dir with wbBuf := s.dir.wbBuf.filter fun x => x.pkg != p } }

/-- Messages on their way to a lost package come back as unreachable. -/
def State.mailLoss (s : State) (p : Nat) : State :=
  (s.cores.flatMap fun x => x.2.sendq.filter fun m => m.inFlight && fld m.addr 53 10 == p).foldl (fun s m => s.sendLost m sfUNREACH) s

/-- Package `p` has been declared lost. -/
def State.losePackage (s : State) (p : Nat) : State :=
  if p == s.pkg.toNat || s.pkgLost p then s
  else
    let s0 := { s with fab := { s.fab with lost := s.fab.lost ++ [Sys2Proof.DieRef.package p], silent := s.fab.silent.filter (· != p) } }
    let tasks := s0.remoteTasks p
    let s1 := (((s0.collLoss p).fabLoss p).invLoss p).dirLoss p
    let s2 := (s1.foreignLoss p).mailLoss p
    let s3 := { s2 with
      host := { s2.host with deltas := s2.host.deltas.filter fun (d : Delta) => d.pkg != p }
      domains := s2.domains.map fun (d : Domain) => { d with remote := tblErase p d.remote } }
    (s3.chargeAll tasks).pendFault 3 p

/-! ## A die of this package is lost -/

/-- Both copies of an entry are lost: its line is called in once what it has in progress has ended (R421). -/
def State.dirBothLost (s : State) (pl : Nat) : State := if (s.dirGet pl).isNone then s else s.dirOffer (.both pl)

/-- Leaves of pages on a lost M-die that no erasure code protects become invalid. DEDUCED (log 50): unsafe. -/
def State.dropLeaves (s : State) (m : Nat) : State :=
  (s.allLeaves.filter fun l => let e := l.2.2.2.2; !e.getLsbD 55 && paMdie (entryFrame e) == m && paMdie l.2.1 != m).foldl
    (fun s l => (s.pocPatch l.2.1 8 (setFld l.2.2.2.2 0 1 0).toNat).purgeFrame l.2.2.1 (entryFrame l.2.2.2.2)) s

def State.addLost (s : State) (d : DieRef) : State :=
  if s.fab.lost.contains d then s else { s with fab := { s.fab with lost := s.fab.lost ++ [d] } }

/-- A declared die of this package: the first steps of its recovery. -/
def State.loseDie (s : State) (d : DieRef) : State :=
  if s.fab.lost.contains d then s
  else match d with
    | .cdie n => (s.logicalOf n).foldl (fun s k => s.modDie k fun d => { d with dead := true, gone := true }) (s.addLost d)
    | .mdie m =>
      if 6 ≤ m then s
      else
        let s1 := ((s.addLost d).loseMdie m).dropLeaves m
        ((s1.dir.ents.filter fun e => paMdie (e.pline * 64) == m).map (·.pline)).foldl (fun s pl => s.dirBothLost pl) s1
    | .sdie x =>
      if 2 ≤ x then s
      else
        let s1 := (s.addLost d).loseSdie x
        if s1.dir.live.toList.any id then s1 else { s1 with fab := { s1.fab with fenced := true } }
    | .vdie => s.addLost d
    | .package p => s.losePackage p
    | .tray ps => ps.foldl (fun s p => s.losePackage p) s

/-- The evidence for a declaration (R492): two neighbours of a package that judge it silent; for a die, the majority among the
neighbours that report symptoms. DEDUCED (log 50): unsafe. -/
def State.declarable (s : State) (d : DieRef) (votes : List Nat) : Bool :=
  let vs := votes.eraseDups
  let two (p : Nat) : Bool := 2 ≤ (vs.filter fun v => joined v p && (v != s.pkg.toNat || s.fab.silent.contains p)).length
  match d with
  | .package p => two p
  | .tray ps => ps.all two
  | _ => 2 ≤ (vs.filter fun v => joined v s.pkg.toNat).length

/-- LOSS_DECLARATION: the declaration is broadcast by a package that took part in it, and acted upon. -/
def execLossDeclaration (d : DieRef) (votes : List Nat) (s : State) : Res :=
  if !s.declarable d votes || s.halted || s.fab.lost.contains d then .next s
  else
    let own : Bool := match d with
      | .package _ => votes.contains s.pkg.toNat
      | .tray _ => votes.contains s.pkg.toNat
      | _ => true
    let s1 := s.loseDie d
    .next (if own then { s1 with out := s1.out ++ s1.livePkgs.map fun p => Out.declare_ p d } else s1)

/-! ## Retired cores (R495) -/

/-- A member core without what its physical core held: as at launch start, its local memory not promised. DEDUCED (log 51):
unsafe. -/
def State.reloadCore (s : State) (l : Launch) (cid : Nat) (keep : Nat → Byte) : State :=
  let c := s.core cid
  let fresh : Core := { phys := c.phys, dlyt := c.dlyt, bankRef := c.bankRef, retired := c.retired }
  let drop (k : Nat) : Bool := lmKey cid 0 ≤ k && k < lmKey cid 0x80000
  let s1 := s.setCore cid { fresh.admitted l (coreNo cid) with noL1 := c.noL1 }
  { s1 with
    mem := memPuts (s1.mem.filter fun (x : Host.Cell) => !drop x.1) (lmKey cid 0) ((List.range 0x80000).map keep)
    tags := s1.tags.filter fun t => !drop (16 * t)
    errs := s1.errs.filter fun e => !drop e.1
    reqs := s1.reqs.filter fun (r : Req) => !(r.org == 0x3FF && r.cid == cid)
    accs := s1.accs.filter fun (a : Access) => a.cid != cid }

/-- The block of a retired core, or of its cluster. DEDUCED (log 51): unsafe. -/
def retireBlock (core : Nat) (whole : Bool) : Rect :=
  if whole then { x := gblX core / 4 * 4, y := gblY core / 2 * 2, w := 4, h := 2 } else { x := gblX core, y := gblY core, w := 1, h := 1 }

/-- A launch that holds a core of a block is narrowed away from it, or ends as by KILLG with RETIRE. DEDUCED (log 51): unsafe.
-/
def State.evict (s : State) (a : Rect) (lid : BitVec 16) : State :=
  match s.launches.find? fun l => l.lid == lid with
  | none => s
  | some l =>
    if l.moving.any fun g => !(l.groupRect g).meets a then s
    else match s.narrowTo { l with moving := none } a with
      | some g => s.narrow lid g none
      | none => (s.killGroupOf l { gx := l.ox, gy := l.oy, logw := l.logw, logh := l.logh } false true).2

/-- CORE_RETIRE: a core or its cluster is retired. Where its state cannot be read, its activations are lost and charged, and its core
starts anew. -/
def execCoreRetire (core : Nat) (whole readable : Bool) (s : State) : Res :=
  if 65536 ≤ core then .next s
  else
    let a := retireBlock core whole
    let s1 := a.cores.foldl (fun s c => s.modCore c fun x => { x with retired := true }) s
    let held := (s1.cores.filter fun p => a.cores.contains p.2.phys && p.2.lid.isSome && !isSvc p.1).map (·.1)
    let s2 := if readable then s1
      else
        let tasks := held.flatMap s1.coreTasks
        let t1 := held.foldl State.postLost s1
        let t2 := held.foldl (fun s cid => match s.launchOf cid with
          | some l => { s.reloadCore l cid fun off => Config.lostByte s.fresh off with fresh := s.fresh + 1 }
          | none => s) t1
        t2.chargeAll tasks
    let ls := (s2.launches.filter fun l => l.occupies a).map (·.lid)
    .next (ls.foldl (fun s lid => s.evict a lid) s2)

/-! ## Replaced C-dies (R496) -/

/-- The part of a launch's rectangle that lies on a logical die. -/
def Launch.onDie (l : Launch) (die : Nat) : Option (Nat × Nat × Nat × Nat) :=
  let d : Rect := { x := die % 4 * 64, y := die / 4 * 64, w := 64, h := 64 }
  if !l.rect.meets d then none else some (max l.ox d.x, max l.oy d.y, min l.logw 6, min l.logh 6)

/-- CDIE_REPLACE: a lost C-die's logical number has been given to a spare by the die map, whose entry is `spare`; its cores are reset
and their launches loaded anew. With no spare (an entry number above 0xFFFF) the groups on the die are fenced. DEDUCED (log 51):
unsafe. -/
def execCdieReplace (die spare : Nat) (s : State) : Res :=
  if 16 ≤ die || !(s.die die).gone then .next s
  else
    let held := (s.cores.filter fun p => dieOf p.2.phys == die && p.2.lid.isSome && !isSvc p.1).map (·.1)
    let jobs := (s.clusters.filter fun p => s.physCluster p.1 / 512 == die).flatMap fun p => p.2.queue
    let tasks := held.flatMap s.coreTasks ++ jobTasks jobs
    if 65536 ≤ spare then
      let s1 := held.foldl State.postLost s
      .next ((s1.launches.foldl (fun s l => match l.onDie die with
        | some (x, y, w, h) => if l.state == .running then (s.killGroupOf l { gx := x, gy := y, logw := w, logh := h } true false).2 else s
        | none => s) s1).chargeAll tasks)
    else if (vget s.fab.map die 0).toNat != spare || (!spare.testBit 15 && s.fab.lost.contains (.cdie (spare % 32))) || s.fab.draining then .next s
    else
      let s1 := held.foldl State.postLost s
      let s2 := s1.modDie die fun d => { ({} : Die) with ceil := d.ceil, code := d.code, want := d.code, droopc := d.droopc }
      let clear (p : Nat × Cluster) : Nat × Cluster := if s.physCluster p.1 / 512 == die then (p.1, {}) else p
      let s3 := { s2 with clusters := s2.clusters.map clear }
      let free (p : Nat × Core) : Bool := dieOf p.2.phys == die && p.2.lid.isNone && p.1 < 65536
      let s4 := { s3 with cores := s3.cores.filter fun p => !free p }
      let s5 := held.foldl (fun s cid => match s.launchOf cid with
        | some l => s.reloadCore l cid fun _ => memDefault
        | none => s) s4
      .next (s5.chargeAll tasks)

end Sys2Proof.Machine
end

