-- ==== Sys2Proof/Machine/Power.lean ====
section
/-! DEFINITION. The reference timer and the die clocks, the power controller and the thermal limits, the power-fail trap with its drain
and its restore, and the resets of the package (R47, R493, R499 to R511). -/
namespace Sys2Proof.Machine

/-! ## Time (R499 to R503) -/

/-- TIME_SYNC: a master corrects its offset by repeating (`up`) or omitting one tick, at most once in 1,000. DEDUCED (log 54):
unsafe. -/
def execTimeSync (up : Bool) (s : State) : Res :=
  .next (if s.reft.toNat < s.reftNext.toNat || s.reftAdj.isSome then s else { s with reftAdj := some up, reftNext := s.reft + 1000 })

/-- The notches that each of levers 1 and 4 has reached (R505). -/
def Power.lever1 (p : Power) : Nat := min p.notch 5
def Power.lever4 (p : Power) : Nat := min (p.notch - 11) 8

/-- The code that a die is to run at: the smaller of its ceiling and what the clock lever allows (R501). -/
def State.codeFor (s : State) (d : Nat) : BitVec 4 := BitVec.ofNat 4 (min (s.die d).ceil.toNat (8 - s.power.lever4))

/-- FREQ_STEP: a step's request reaches a die, and its clock stops. -/
def execFreqStep (die : Nat) (s : State) : Res :=
  let d := s.die die
  .next (if 16 ≤ die || !d.running || d.code == s.codeFor die then s
    else s.setDie die { d with want := s.codeFor die, running := false, stopAt := s.reft })

/-- RELOCK_COMPLETE: the clock restarts at the new frequency after 2,000 ticks. DESIGN CHOICE (log 2): safe. -/
def execRelockComplete (die : Nat) (s : State) : Res :=
  let d := s.die die
  let t := s.reft - d.stopAt
  .next (if 16 ≤ die || d.running || t.toNat < 2000 then s
    else s.setDie die { d with code := d.want, running := true, tcyc := d.tcyc + 3 * t })

/-- DROOP_STRETCH: a sag stretches the clock, which loses `lost` ticks. -/
def execDroopStretch (die lost : Nat) (s : State) : Res :=
  let d := s.die die
  .next (if 16 ≤ die || !d.running then s else s.setDie die { d with droopc := d.droopc + 1, debt := d.debt + lost })

/-! ## The power controller (R504 to R507) -/

/-- The cap in units of 10 W: 0 while a die is hot. -/
def Power.capNow (p : Power) : Nat := if p.hot then 0 else if p.pin then p.pincap.toNat else p.cap.toNat

/-- Tokens per die at the notch of the first lever, never above MAX. -/
def Power.tokens (p : Power) : Nat :=
  let m := p.tokmax.toNat
  match p.lever1 with
  | 0 => min m 512
  | 1 => min m 384
  | 2 => min m 256
  | 3 => min m 128
  | 4 => min m 64
  | _ => 0

/-- PSTAT.MET. DEDUCED (log 54): unsafe. -/
def Power.metNow (p : Power) : Bool := p.pwr.toNat ≤ p.capNow * 10 || p.notch == 20

/-- The controller's new registers: MET follows, vector 17 tells of a change of MET or PIN, and each die gets its tokens.
DEDUCED (log 54): unsafe. -/
def State.setPower (s : State) (p : Power) : State :=
  let p1 := { p with met := p.metNow }
  let s1 := { s with power := p1, dies := (List.range 16).foldl (fun t d => tblSet d { s.die d with tokens := p1.tokens } t) s.dies }
  if p1.met != s.power.met || p1.pin != s.power.pin then s1.irq 17 else s1

/-- One evaluation (R506). DEDUCED (log 54): unsafe. -/
def Power.evaluate (p : Power) : Power :=
  if p.capNow * 10 < p.pwr.toNat then { p with notch := min 20 (p.notch + 1), quiet := 0 }
  else if 2 * p.pwr.toNat < 19 * p.capNow then
    if 99 ≤ p.quiet && 0 < p.notch then { p with notch := p.notch - 1, quiet := 0 } else { p with quiet := min 100 (p.quiet + 1) }
  else { p with quiet := 0 }

/-- POWER_EVALUATE: every 10 µs, on the power drawn since the last. -/
def execPowerEvaluate (pwr : Nat) (s : State) : Res :=
  .next (if s.reft.toNat < s.power.evalAt.toNat || s.host.off || s.host.pfstage == 1 then s
    else s.setPower ({ s.power with pwr := BitVec.ofNat 16 pwr, evalAt := s.reft + 10000 }).evaluate)

def execPstepPin (level : Bool) (s : State) : Res := .next (s.setPower { s.power with pin := level })

/-- Writes of a power value above 480 store 480. -/
def powerVal (x : BitVec 16) : BitVec 16 := if 480 < x.toNat then 480 else x

/-- POWER_STEP: a write of PSTEPCAP.CAP. -/
def execPowerStep (val : BitVec 16) (s : State) : Res := .next (s.setPower { s.power with cap := powerVal val })

/-- A die's CEIL written. -/
def State.setCeil (s : State) (die : Nat) (x : BitVec 4) : State :=
  if 16 ≤ die then s else s.setDie die { s.die die with ceil := if 8 < x.toNat then 8 else x }

def execFreqCeilWrite (die : Nat) (val : BitVec 4) (s : State) : Res := .next (s.setCeil die val)

/-- A die's DROOPC written: zero clears it. -/
def State.droopWrite (s : State) (die : Nat) (x : W64) : State :=
  if 16 ≤ die || x != 0 then s else s.setDie die { s.die die with droopc := 0 }

def execDroopcClear (die : Nat) (val : W64) (s : State) : Res := .next (s.droopWrite die val)

/-- A junction's temperature in signed 8.8 degrees. -/
def Power.temp (p : Power) (die : Nat) : Int := (tblGetD p.temps die 0).toInt

/-- A sensor's reading: above 100 degrees the cap counts as 0 until every die is below 95, and vector 18 tells of the crossing.
DEDUCED (log 54): unsafe. -/
def State.readTemp (s : State) (die : Nat) (temp : BitVec 16) : State :=
  let p := { s.power with temps := tblSet die temp s.power.temps }
  let spans := 25600 < temp.toInt
  let cool := (List.range 27).all fun d => p.temp d < 24320
  let s1 := s.setPower { p with hot := spans || (p.hot && !cool) }
  if spans && s.power.temp die ≤ 25600 then s1.irq 18 else s1

def execThermalLimit (die : Nat) (temp : BitVec 16) (s : State) : Res := .next (if 27 ≤ die || s.host.off then s else s.readTemp die temp)

/-! ## The power-fail trap (R508 to R510) -/

/-- The trap: every core freezes and every engine stops; accesses to local memory go on, those to HBM are dropped, a dump stops. -/
def State.powerFail (s : State) : State :=
  if s.host.off || s.host.pfstage == 1 then s
  else
    let keep (r : Req) : Bool := r.stage == .core || r.stage == .done || r.stage.isRefused
    let stop (p : Nat × Core) : Nat × Core := (p.1, { p.2 with dmpc := setFld p.2.dmpc 1 1 0 })
    { s with
      reqs := s.reqs.filter keep
      cores := s.cores.map stop
      host := { s.host with pfstage := 1, drainAt := s.reft } }

def execPowerFailTrap (s : State) : Res := .next s.powerFail

/-- THERMAL_TRIP: a die above 110 degrees. -/
def execThermalTrip (die : Nat) (temp : BitVec 16) (s : State) : Res :=
  .next (if 27 ≤ die || s.host.off || temp.toInt ≤ 28160 then s else ((s.readTemp die temp).pendFault 4 die).powerFail)

/-! ### The drain set (R509) -/

/-- The bytes that 8-byte words take in an image: each wholly zero line of 64 bytes is omitted and marked in a bitmap. -/
def packedLen (ws : List W64) : Nat :=
  let lines := (ws.length + 7) / 8
  64 * ((List.range lines).filter fun i => ((ws.drop (8 * i)).take 8).any (· != 0)).length + (lines + 7) / 8

/-- The words of a stream binding in a slot record: descriptor, capability and next element index. DEDUCED (log 55): unsafe. -/
def Stream.drainWords (x : Stream) : List W64 :=
  (if x.state == 0 then [] else (List.range 8).map fun j => word64 x.desc j) ++ (if x.state == 0 then [] else [word64 x.cap 0, word64 x.cap 1, BitVec.ofNat 64 x.moved])

/-- The words of a slot record. -/
def slotDrainWords (sl : Slot) : List W64 :=
  if sl.live then ((List.range 512).map fun j => slotWord sl true (8 * j)) ++ sl.st.toList.flatMap Stream.drainWords
  else ((List.range 16).map fun j => slotWord sl true (0x380 + 8 * j)) ++ [slotWord sl true 0x400] ++ (List.range 32).map fun j => slotWord sl true (0x500 + 8 * j)

/-- A slot as its record restores it: an activation is at its next instruction, with no operand in flight, and streams fetch again;
of a dormant slot what R18 keeps beyond one activation remains. DEDUCED (log 55): unsafe. -/
def Slot.restored (sl : Slot) : Slot :=
  let fetch (x : Stream) : Stream := { x with queue := [], next := x.moved }
  let land (r : GReg) : GReg := { r with pending := false, bad := false }
  let landV (r : VReg) : VReg := { r with pending := false, bad := false }
  if sl.live then
    { sl with run := .running, g := sl.g.map land, v := sl.v.map landV, st := sl.st.map fetch, mbNew := 0, wdog := 0 }
  else
    { ({} : Slot) with
      g := Vector.ofFn fun i => if 56 ≤ i.val then land (vget sl.g i.val {}) else {}
      mbp := sl.mbp, warn := sl.warn, fpc := sl.fpc, seed := sl.seed, clk := sl.clk, gen := sl.gen, hzn := sl.hzn, hznUse := sl.hznUse
      hznev := sl.hznev, actinfo := sl.actinfo, actts := sl.actts }

/-- A slot whose record was cut. -/
def Slot.cut (sl : Slot) : Slot := { ({} : Slot) with seed := sl.seed }

/-- A job's history after a restore: what had not completed reads as KILLED (R291). DEDUCED (log 55): unsafe. -/
def JobHist.restored (j : JobHist) : JobHist := if j.state == 2 then j else { j with state := 2, status := 4 }

/-- A ring as the drain keeps it: the headers' state, and of the payloads nothing (R18, R509): what a message was still to bring is lost.
DEDUCED (log 55): unsafe. -/
def Buf.drained (fresh : Nat) (b : Buf) : Buf :=
  { b with recs := b.recs.map fun r =>
      { r with msg := { r.msg with payload := (List.range r.msg.payload.length).map fun j => Config.lostByte fresh (r.pos + 32 + j) } } }

/-- A core as the drain keeps it, its slots and buffers apart. DEDUCED (log 55): unsafe. -/
def Core.drained (fresh : Nat) (c : Core) : Core :=
  { phys := c.phys, lid := c.lid, slots := c.slots, lmb1 := c.lmb1, lmb2 := c.lmb2, lmb3 := c.lmb3, prot := c.prot, handlers := c.handlers
    regions := c.regions, nrgn := c.nrgn, bufs := c.bufs.map (Buf.drained fresh), ep := c.ep, last := c.last, fused := c.fused, noL1 := c.noL1
    jobs := c.jobs.map JobHist.restored, nextJob := c.nextJob, retired := c.retired, collector := c.collector }

/-- A local offset of a core lies in a persist region (R261). -/
def Core.persists (c : Core) (off : Nat) : Bool :=
  (c.regions.toList.take c.nrgn).any fun r => rgnKind r == 1 && rgnBase r ≤ off && off < rgnBase r + rgnSize r

/-- Whether a memory key belongs to a persist region of one of some cores. -/
def persistKey (cs : Tbl Core) (k : Nat) : Bool := cs.any fun p => lmKey p.1 0 ≤ k && k < lmKey p.1 0x80000 && p.2.persists (k - lmKey p.1 0)

/-- Whether a memory key belongs to the header of a record of some cores that is not freed (R509). -/
def headKey (cs : Tbl Core) (k : Nat) : Bool :=
  cs.any fun p => (List.range 32).any fun ch => (p.2.buf ch).recs.any fun r =>
    !r.freed && !r.pad && lmKey p.1 (recOff p.2 ch r) ≤ k && k < lmKey p.1 (recOff p.2 ch r) + 32

/-- The drain's limit: 256 MiB. -/
def drainMax : Nat := 2 ^ 28

/-- The records of a section that fit, with the bytes they take. -/
def fitRecs (room : Nat) : List Nat → Nat × Nat
  | [] => (0, 0)
  | n :: t => if room < n then (0, 0) else let r := fitRecs (room - n) t; (r.1 + 1, r.2 + n)

/-- The five sections: for each, the records kept, the bytes, and whether it was cut. DEDUCED (log 55): unsafe. -/
def fitSections : Nat → Bool → List (List Nat) → List (Nat × Nat × Bool)
  | _, _, [] => []
  | room, cut, sec :: t =>
    if cut then (0, 0, true) :: fitSections room true t
    else
      let r := fitRecs room sec
      let c := r.1 < sec.length
      (r.1, r.2, c) :: fitSections (room - r.2) c t

/-- The cores that hold a running launch, in order. -/
def State.memberCores (s : State) : Tbl Core := s.cores.filter fun p => !isSvc p.1 && (s.launchOf p.1).isSome

/-- The service cores. -/
def State.svcCores (s : State) : Tbl Core := s.cores.filter fun p => svcBase ≤ p.1 && p.1 < svcBase + 1024

/-- The slot records and the buffer headers in the order in which they are written: core and slot, or core, channel and record. -/
def slotRecs (cs : Tbl Core) : List (Nat × Nat) := cs.flatMap fun p => [0, 1, 2, 3].map fun k => (p.1, k)
def bufRecs (cs : Tbl Core) : List (Nat × Nat × Rec) :=
  cs.flatMap fun p => (List.range 32).flatMap fun ch => (((p.2.buf ch).recs.filter fun r => !r.freed && !r.pad).map fun r => (p.1, ch, r))

/-- The words of a 128-bit table entry. -/
def entryWords (x : W128) : List W64 := [word64 x 0, word64 x 1]

/-- The lengths of the records of each section. DEDUCED (log 55): unsafe. -/
def State.drainLens (s : State) (cs : Tbl Core) : List (List Nat) :=
  let persist (p : Nat × Core) : Nat :=
    ((p.2.regions.toList.take p.2.nrgn).filter fun r => rgnKind r == 1).foldl (fun n r =>
      n + packedLen ((List.range (rgnSize r / 8)).map fun j => BitVec.ofNat 64 (s.natAt (lmKey p.1 (rgnBase r + 8 * j)) 8)) + 16) 0
  [[packedLen (s.fab.map.toList.map fun x => x.zeroExtend 64)] ++
     (s.svcCores.map fun p => packedLen (p.2.slots.toList.flatMap slotDrainWords)) ++
     (s.domains.map fun _ => 64) ++ (s.ctxs.map fun p => packedLen (p.2.ptroot :: p.2.ev.toList)) ++ s.launches.map fun _ => 128,
   cs.map fun p => packedLen ((p.2.handlers.toList ++ p.2.regions.toList).flatMap entryWords),
   cs.map persist,
   (slotRecs cs).map fun x => packedLen (slotDrainWords (s.slotAt x.1 x.2)),
   (bufRecs cs).map fun x => packedLen ((List.range 4).map fun j =>
     BitVec.ofNat 64 (s.natAt (lmKey x.1 (recOff (s.core x.1) x.2.1 x.2.2 + 8 * j)) 8))]

/-- What an activation or a message of a core loses with a cut: core, LID, context and DID. -/
def State.lossOf (s : State) (cid : Nat) (did : BitVec 4) : Nat × Nat × Nat × BitVec 4 := (coreNo cid, (s.lidOf cid).toNat, s.ctxOf cid, did)

/-- A launch as the drain keeps it: of the code that it runs, which lies in HBM and local memory, nothing (R18). -/
def Launch.drained (l : Launch) : Launch := { l with image := [], fetched := [] }

/-- The drain's contents, with the slots of some records and the messages of some headers cut. -/
def State.drainSet (s : State) (cs : Tbl Core) (cutSlots : List (Nat × Nat)) (cutRecs : List (Nat × Nat × Rec)) : Drained :=
  let slotOf (cid k : Nat) (c : Core) : Slot := if cutSlots.contains (cid, k) then (c.slot k).cut else (c.slot k).restored
  let freed (cid : Nat) (c : Core) : Core := cutSlots.foldl (fun c x => if x.1 == cid then c.freeRec (s.slotAt cid x.2).act.rid else c) c
  let dropped (cid : Nat) (c : Core) : Core := c.dropRecs fun m => cutRecs.any fun x => x.1 == cid && x.2.2.msg.mid == m.mid
  let member (p : Nat × Core) : Nat × Core :=
    (p.1, { dropped p.1 (freed p.1 (p.2.drained s.fresh)) with slots := Vector.ofFn fun k => slotOf p.1 k.val p.2 })
  let svc (p : Nat × Core) : Nat × Core := (p.1, { p.2.drained s.fresh with slots := p.2.slots.map Slot.restored })
  let restart (d : Domain) : Domain := if d.state == 4 then { d with phase := 1 } else d
  let all := cs.map member ++ s.svcCores.map svc
  let lostSlots := (cutSlots.filter fun x => (s.slotAt x.1 x.2).live).map fun x => s.lossOf x.1 (s.slotAt x.1 x.2).act.did
  let lostMsgs := (cutRecs.filter fun x => !x.2.2.taken).map fun x => s.lossOf x.1 x.2.2.msg.did
  { cores := all
    mem := s.mem.filter fun (c : Host.Cell) => persistKey cs c.1 || headKey cs c.1
    tags := s.tags.filter fun t => persistKey cs (16 * t)
    errs := s.errs.filter fun e => e.2 && persistKey cs e.1
    ctxs := s.ctxs, launches := s.launches.map Launch.drained, domains := s.domains.map restart
    resident := (s.clusters.filter fun p => !p.2.resident.isEmpty).map fun p => (p.1, p.2.resident)
    lost := lostSlots ++ lostMsgs }

/-- The drain area of board flash (R512), and the image header at its start (R510). -/
def flashDrain : Nat := 0x10000000

def drainHeader (digest : W512) (secs : List (Nat × Nat × Bool)) (time boots : W64) : BitVec 2048 :=
  packFields 2048 ([(512, 512, digest.toNat), (128, 64, time.toNat), (64, 64, boots.toNat), (0, 32, 0x5A4C4446)] ++
    secs.zipIdx.map fun x => (192 + 64 * x.2, 64, x.1.2.1 + b2n x.1.2.2 * 2 ^ 63))

/-- The package without power: board flash, host memory and what surrounds the package remain. DEDUCED (log 12): unsafe. -/
def State.unpowered (s : State) : State :=
  { State.reset with
    pkg := s.pkg, agenda := s.agenda, turn := s.turn, fresh := s.fresh, nextId := s.nextId, out := s.out
    mem := s.mem.filter fun (c : Host.Cell) => hostKey 0 ≤ c.1
    host := { ({} : HostSt) with drained := s.host.drained, boots := s.host.boots, dumpSlot := s.host.dumpSlot, off := true }
    power := { ({} : Power) with pin := s.power.pin } }

/-- The drain: the sections are written, then the header. -/
def State.writeDrain (s : State) : State :=
  let cs := s.memberCores
  let lens := s.drainLens cs
  let fit := fitSections drainMax false lens
  let kept (i : Nat) : Nat := (fit.getD i (0, 0, false)).1
  let d := s.drainSet cs ((slotRecs cs).drop (kept 3)) ((bufRecs cs).drop (kept 4))
  let body := (List.range (fit.foldl (fun n x => n + x.2.1) 0)).map (Config.drainByte s.fresh)
  let hdr := drainHeader (Config.sha512 body) fit s.host.drainAt s.host.boots
  let s1 := (s.writeBytes (flashKey (flashDrain + 256)) body).writeBytes (flashKey flashDrain) (bytesOf hdr 256)
  { s1 with fresh := s.fresh + 1, host := { s1.host with drained := some d } }

/-- DRAIN_COMPLETE: outstanding stores to local memory have completed; the image is written and the package powers down. -/
def execDrainComplete (s : State) : Res :=
  .next (if s.host.pfstage != 1 || s.reqs.any (fun r => r.stage == .core && r.op.isStore) then s else s.writeDrain.unpowered)

/-! ## The restore (R511) -/

/-- The header in flash is committed and its digest matches. -/
def State.drainValid (s : State) : Bool :=
  let h : BitVec 2048 := ofBytes 2048 (s.bytesAt (flashKey flashDrain) 256)
  let len := (List.range 5).foldl (fun n i => n + fld h (192 + 64 * i) 32) 0
  s.host.drained.isSome && fld h 0 32 == 0x5A4C4446 && h.extractLsb' 512 512 == Config.sha512 (s.bytesAt (flashKey (flashDrain + 256)) len)

/-- What was cut: activations end, and each loss is posted and charged. -/
def State.chargeCut (s : State) (ls : List (Nat × Nat × Nat × BitVec 4)) : State :=
  (ls.foldl (fun s x => s.pendFault 2 (x.1 + 65536 * x.2.1)) s).chargeAll (ls.map fun x => (x.2.2.1, x.2.2.2))

/-- The buffer control logic of a core restores COMPLETE and TAKEN from the headers in local memory (R231). -/
def State.findHeaders (s : State) (p : Nat × Core) : State :=
  s.modCore p.1 fun c => { c with bufs := Vector.ofFn fun ch =>
    let b := vget c.bufs ch.val {}
    { b with recs := b.recs.map fun r =>
        let f := s.natAt (lmKey p.1 (recOff c ch.val r + 3)) 1
        if r.freed || r.pad then r else { r with complete := f.testBit 0, taken := f.testBit 1 } } }

/-- The drained state reloaded; a narrowing that was under way begins again. DEDUCED (log 55): unsafe. -/
def State.reload (s : State) (d : Drained) : State :=
  let s1 := { s with
    cores := d.cores, ctxs := d.ctxs, domains := d.domains
    clusters := d.resident.map fun (p : Nat × List Nat) => (p.1, { ({} : Cluster) with resident := p.2 })
    mem := d.mem.foldl (fun m (c : Host.Cell) => memPut m c.1 c.2) s.mem
    tags := d.tags.foldl (fun t g => insNat g t) s.tags
    errs := s.errs ++ d.errs
    host := { s.host with pfstage := 3 } }
  let again (l : Launch) : Launch := if l.moving.isSome then { l with graceAt := s1.launchCyc l + BitVec.ofNat 64 l.timeout } else l
  (d.cores.foldl State.findHeaders { s1 with launches := d.launches.map again }).chargeCut d.lost

/-- PFCTL.RUN. DEDUCED (log 55): unsafe. -/
def State.pfRun (s : State) : State :=
  if s.host.pfstage == 3 then { s with host := { s.host with pfstage := 0 } }
  else match s.host.drained with
    | some d => if s.host.pfvalid && s.host.pfstage == 0 && !s.host.off then s.reload d else s
    | none => s

def execPfctlRun (s : State) : Res := .next s.pfRun

/-- PFCTL.DISCARD. -/
def State.pfDiscard (s : State) : State := { s with host := { s.host with pfvalid := false } }
def execPfctlDiscard (s : State) : Res := .next s.pfDiscard

/-! ## Reset (R493, R520) -/

/-- Package reset: registers take their reset values, the race control words of the contexts among them (R346); memory keeps its
contents otherwise. DEDUCED (log 11): unsafe. DEDUCED (log 12): unsafe. -/
def State.packageReset (s : State) : State :=
  let t := { s.unpowered with
    mem := s.mem, tags := s.tags, errs := s.errs
    host := { s.unpowered.host with off := false } }
  (s.ctxs.filter fun c => c.2.valid).foldl (fun t c => t.sidePut (s.raceCtl c.1) 32 0) t

def execPackageReset (s : State) : Res := .next s.packageReset

end Sys2Proof.Machine
end

