-- ==== Sys2Proof/Machine/HostEv.lean ====
section
/-! DEFINITION. The host at the package's edge: boot and the mailbox, the host window, writes of registers that have no row of their
own, and soft errors (R5, R20, R250, R276, R337, R391, R403 to R405, R422, R468, R485, R504, R514 to R522). -/
namespace Sys2Proof.Machine

/-! ## Boot (R521) -/

/-- Where the firmware image and the measured boot log lie in board flash (R512), and the size of the image's place. DEDUCED
(log 56): unsafe. -/
def flashFirmware : Nat := 0
def flashLog : Nat := 0x04100000
def firmwareMax : Nat := 2 ^ 26

/-- An entry of the measured boot log. DESIGN CHOICE (log 9): safe. DEDUCED (log 56): unsafe. -/
def logEntry (body : List Byte) (stage : Nat) : List Byte :=
  bytesOf (Config.sha512 body) 64 ++ bytesOf (BitVec.ofNat 64 stage) 8 ++ bytesOf (BitVec.ofNat 64 body.length) 8

/-- The die map as board flash holds it, in both copies; a flash that was never given one leaves the map of reset. DEDUCED (log 12): unsafe. -/
def Fabric.loadMap (f : Fabric) (bs : List Byte) : Fabric :=
  if bs.all (· == 0) then f
  else
    let m : Vector (BitVec 16) 16 := Vector.ofFn fun i => ofBytes 16 ((bs.drop (2 * i.val)).take 2)
    { f with map0 := m, map1 := m }

/-- Every link to a neighbour is trained. DEDUCED (log 56): unsafe. -/
def State.trainLinks (s : State) : State :=
  (List.range (portList s.pkg.toNat).length).foldl (fun s q =>
    if (portPeer s.pkg.toNat q).isNone then s else s.setPort q { s.port q with state := 1 }) s

/-- POWER_ON_BOOT: the firmware in flash is verified; a bad one is waited for with FWBAD, a good one starts Badger, which loads the
die map, trains the links, builds the routing tables, logs its stages and sets READY. -/
def execPowerOnBoot (s : State) : Res :=
  if s.host.ready then .next s
  else
    let img := s.bytesAt (flashKey flashFirmware) firmwareMax
    let s0 := { s with host := { s.host with off := false } }
    if !Config.firmwareValid img then .next { s0 with host := { s0.host with fwbad := true } }
    else
      let log := logEntry img 0 ++ Config.bootStages
      let s1 := s0.writeBytes (flashKey flashLog) log
      let s2 := ({ s1 with fab := s1.fab.loadMap (s1.bytesAt (flashKey flashMap) 32) }.trainLinks).buildRoutes
      .next { s2 with host := { s2.host with ready := true, fwbad := false, boots := s2.host.boots + 1, log := log, pfvalid := s2.drainValid } }

/-! ## The mailbox (R520, R522) -/

/-- A mailbox command completes with a status. DEDUCED (log 57): unsafe. -/
def State.mailDone (s : State) (cmd status : Nat) : State :=
  { s with host := { s.host with mbcmd := BitVec.ofNat 8 cmd, mbstat := BitVec.ofNat 8 status } }.irq 19

/-- The bytes of the attestation report that are signed. DESIGN CHOICE (log 9): safe. -/
def State.reportBody (s : State) (nonce : List Byte) : List Byte :=
  nonce ++ s.fab.mapBytes ++ bytesOf s.host.boots 7 ++ [BitVec.ofNat 8 (b2n s.fab.epoch)] ++ bytesOf s.reft 8 ++
  bytesOf Config.serial 8 ++ bytesOf (Config.fwVersion (s.bytesAt (flashKey flashFirmware) firmwareMax)) 4

/-- The attestation report (R522). -/
def State.report (s : State) (nonce : List Byte) : List Byte :=
  let body := s.reportBody nonce
  body ++ (List.range 132).map (Config.signature body)

/-- ATTEST. -/
def State.attest (s : State) : State :=
  (s.hostWrite s.host.mbaddr.toNat (s.report (s.hostRead s.host.mbaddr.toNat 64))).mailDone 1 2

/-- READLOG: the measured boot log, then its SHA-512. -/
def State.readLog (s : State) : State :=
  (s.hostWrite s.host.mbaddr.toNat (s.host.log ++ bytesOf (Config.sha512 s.host.log) 64)).mailDone 2 2

/-- READCERT. -/
def State.readCert (s : State) : State := (s.hostWrite s.host.mbaddr.toNat Config.certificate).mailDone 3 2

/-- FWLOAD: a valid image goes to flash and the package is reset. DESIGN CHOICE (log 9): safe. -/
def State.fwLoad (s : State) : State :=
  let img := s.hostRead s.host.mbaddr.toNat s.host.mblen.toNat
  if !Config.firmwareValid img then s.mailDone 4 4
  else ((s.writeBytes (flashKey flashFirmware) (img.take firmwareMax)).mailDone 4 2).packageReset

def execAttest (s : State) : Res := .next (if s.host.off then s else s.attest)
def execReadlog (s : State) : Res := .next (if s.host.off then s else s.readLog)
def execReadcert (s : State) : Res := .next (if s.host.off then s else s.readCert)
def execFwload (s : State) : Res := .next (if s.host.off then s else s.fwLoad)

/-- MBCMD written. DEDUCED (log 57): unsafe. -/
def State.mailbox (s : State) (cmd : Nat) : State :=
  if cmd == 1 then s.attest else if cmd == 2 then s.readLog else if cmd == 3 then s.readCert else if cmd == 4 then s.fwLoad
  else { s with host := { s.host with mbcmd := BitVec.ofNat 8 cmd, mbstat := 3 } }

/-! ## The host window (R516) -/

/-- An access of a part of a range by the host through an aperture. DEDUCED (log 52): unsafe. -/
def hostReq (ap ctx : Nat) (own : BitVec 10) (reft : W64) (write : Bool) (x : W512) (p : Piece) : Req :=
  let ea := rewriteEa own 0 p.ea
  let y := p.inLine x
  let va := fld ea 0 53
  let r : Req := { cid := hostBase + ap, slot := 4, ctx := ctx, ea := ea, n := p.len, data := if write then y.1 else 0
                   mask := if write then y.2 else 0, remote := false, since := reft }
  if formBad ea then { r with op := if write then .store else .load, stage := .refused (if write then sfBADXLATE else xMALFORMED) }
  else match placeOf ea with
    | .localMem none _ _ dbg _ =>
      { r with op := if dbg then (if write then .debugWrite else .debugRead) else if write then .store else .load, stage := .core }
    | .virt none _ =>
      if inCtl va then
        { r with op := if write then .windowWrite else .windowRead
                 stage := if inWindow va p.len then .home else .refused (if write then sfWINDOW else xWINDOW) }
      else { r with op := if write then .store else .load, stage := .walk }
    | _ => { r with op := if write then .store else .load, stage := .fabric }

/-- HOST_WINDOW_ACCESS: an access at an offset of an aperture; through a descriptor with V = 0 it is dropped, and a read gives
ones. DEDUCED (log 52): unsafe. -/
def execHostWindowAccess (ap off n : Nat) (write : Bool) (val : W512) (s : State) : Res :=
  let w := vget s.host.windows ap (0, 0)
  if 16 ≤ ap || 2 ^ 32 < off + n || 64 < n || s.host.off then .next s
  else if !w.2.getLsbD 8 then
    .next (if write then s else { s with out := s.out ++ [.hostData true (lowBytes (BitVec.allOnes 512) n)] })
  else .next ((lineParts (w.1 + BitVec.ofNat 64 off) n).foldl (fun s p => s.addReq (hostReq ap (fld w.2 0 6) s.pkg s.reft write val p)) s)

/-! ## Counters (R403, R422, R468) -/

/-- An event counter of a counter block: the M-dies', the S-dies', the ports'. -/
def isEvent (blk idx : Nat) : Bool :=
  if blk < 6 then (3 ≤ idx && idx ≤ 6) || (0x18 ≤ idx && idx ≤ 0x1E) || (0x20 ≤ idx && idx ≤ 0x26)
  else if blk < 8 then 2 ≤ idx && idx ≤ 8
  else blk < 40 && idx ≤ 4

/-- A counter written: zero clears an event counter. -/
def State.counterWrite (s : State) (blk idx : Nat) (x : W64) : State :=
  if x != 0 || !isEvent blk idx then s
  else if blk < 6 then s.setMdie blk { s.mdie blk with count := tblErase idx (s.mdie blk).count }
  else if blk < 8 then { s with dir := { s.dir with count := tblErase (16 * (blk - 6) + idx) s.dir.count } }
  else s.setPort (blk - 8) { s.port (blk - 8) with count := tblErase idx (s.port (blk - 8)).count }

def execCounterClear (blk idx : Nat) (val : W64) (s : State) : Res := .next (s.counterWrite blk idx val)

/-! ## Other registers (R5, R515) -/

def State.modHost (s : State) (f : HostSt → HostSt) : State := { s with host := f s.host }

/-- A register of a ring's block written (R352). -/
def State.ringWrite (s : State) (n o : Nat) (x : W64) : State :=
  let r := s.ring n
  if o == 0x00 then s.setRing n { r with rbase := packFields 64 [(12, 52, fld x 12 52), (0, 5, fld x 0 5)] }
  else if o == 0x08 then s.setRing n { r with tail := x.extractLsb' 0 32 }
  else if o == 0x20 then
    let s1 := s.setRing n { r with en := x.getLsbD 2 }
    if x.getLsbD 0 then s1.resumeRing n (x.getLsbD 1) else s1
  else if o == 0x28 then s.setRing n { r with rcomp := packFields 64 [(12, 52, fld x 12 52), (0, 5, fld x 0 5)] }
  else s

/-- A register of a sink block written (R446). -/
def State.sinkWrite (s : State) (k o : Nat) (x : W64) : State :=
  let b := s.sink k
  if o == 0x00 then s.setSink k { b with tsb := packFields 64 [(12, 52, fld x 12 52), (0, 5, fld x 0 5)] }
  else if o == 0x10 then s.setSink k { b with tail := x.extractLsb' 0 32 }
  else if o == 0x18 then s.setSink k { b with adapt := x.getLsbD 7, min := if fld x 0 5 < 10 then 10 else x.extractLsb' 0 5 }
  else s

/-- PFTAIL written: records up to it are consumed (R518). DEDUCED (log 48): unsafe. -/
def HostSt.setPftail (h : HostSt) (x : BitVec 32) : HostSt :=
  { h with pftail := x, pend := h.pend.drop (h.pend.length - (h.pfhead - x).toNat) }

/-- ESYNC written. -/
def State.esyncWrite (s : State) (x : W64) : State :=
  match execEsync (x.extractLsb' 0 18) s with
  | .next s1 => s1
  | .fault _ => s
  | .refused _ => s

/-- A register of the global block written (R504, R511). -/
def State.globalWrite (s : State) (o : Nat) (x : W64) : State :=
  if o == 0x008 then s.setPower { s.power with cap := powerVal (x.extractLsb' 0 16), pincap := powerVal (x.extractLsb' 16 16) }
  else if 0x100 ≤ o && o < 0x180 then s.setCeil ((o - 0x100) / 8) (x.extractLsb' 0 4)
  else if o == 0x180 then s.setPower { s.power with tokmax := if 512 < fld x 0 10 then 512 else x.extractLsb' 0 10 }
  else if 0x200 ≤ o && o < 0x280 then s.droopWrite ((o - 0x200) / 8) x
  else if o == 0x400 then (if x.getLsbD 1 then s.pfDiscard else if x.getLsbD 0 then s.pfRun else s)
  else s

/-- A 64-bit register of the host register space written. -/
def State.hostRegWrite (s : State) (o : Nat) (x : W64) : State :=
  if o % 8 != 0 || s.host.off then s
  else if o < 0x10000 then s.globalWrite o x
  else if o < 0x10400 then s.ringWrite ((o - 0x10000) / 64) (o % 64) x
  else if o == 0x11000 then s.modHost fun h => { h with ctxb := packFields 64 [(13, 27, fld x 13 27)] }
  else if 0x20000 ≤ o && o < 0x20800 then s.sinkWrite ((o - 0x20000) / 32) (o % 32) x
  else if o == 0x21000 then s.modHost fun h => { h with egtb := packFields 64 [(15, 25, fld x 15 25)] }
  else if o == 0x21008 then s.esyncWrite x
  else if 0x30000 ≤ o && o < 0x30C00 then s.counterWrite ((o - 0x30000) / 0x200) (o % 0x200 / 8) x
  else if 0x31000 ≤ o && o < 0x31100 then s.counterWrite (6 + (o - 0x31000) / 0x80) (o % 0x80 / 8) x
  else if 0x32000 ≤ o && o < 0x32800 then s.counterWrite (8 + (o - 0x32000) / 0x40) (o % 0x40 / 8) x
  else if o == 0x42008 then s.modHost fun h => h.setPftail (x.extractLsb' 0 32)
  else if o == 0x50000 then s.mailbox x.toNat
  else if o == 0x50010 then s.modHost fun h => { h with mbaddr := x }
  else if o == 0x50018 then s.modHost fun h => { h with mblen := x }
  else if 0x60000 ≤ o && o < 0x60100 then
    let j := (o - 0x60000) / 16
    let w := vget s.host.windows j (0, 0)
    s.modHost fun h => { h with windows := vset h.windows j (if o % 16 == 0 then (x, w.2) else (w.1, packFields 64 [(8, 1, fld x 8 1), (0, 6, fld x 0 6)])) }
  else s

/-- REGISTER_WRITE: a write sets the fields of a register under their access codes. -/
def execRegisterWrite (sp : RegSpace) (off : Nat) (val : W64) (s : State) : Res :=
  match sp with
  | .host => .next (s.hostRegWrite off val)
  | .mdie m => .next (if m < 6 && off < 128 && off % 8 == 0 then s.mdieWrite m off val else s)
  | .handler => .next ((List.range 8).foldl (fun s j => s.hwWrite (off + j) (BitVec.ofNat 8 (fld val (8 * j) 8))) s)
  | .core cid => .next ((s.debugWrite cid off 8 (val.zeroExtend 512)).getD s)

/-- PFHEAD with LOST (R518). -/
def HostSt.pfheadWord (h : HostSt) : W64 := BitVec.ofNat 64 (h.pfhead.toNat + 2 ^ 32 * h.pflost.toNat)

/-- PFHEAD_READ: LOST is returned and cleared by the read. -/
def execPfheadRead (s : State) : Res := .next (State.readOut { s with host := { s.host with pflost := 0 } } s.host.pfheadWord)

/-! ## Soft errors -/

/-- A stored word's check bits no longer hold. DEDUCED (log 36): unsafe. -/
def State.addErr (s : State) (key : Nat) (double : Bool) : State :=
  if s.errs.contains (key, true) then s
  else { s with errs := s.errs.filter (fun e => e.1 != key) ++ [(key, double || s.errs.contains (key, false))] }

/-- An error of HBM cells: the ECC corrects one in each 32 bytes (R404). DEDUCED (log 36): unsafe. -/
def State.hbmErr (s : State) (pa : Nat) (double : Bool) : State :=
  let line := pa / 64
  let e := (unitKey line (pa % 64 / 32), false)
  if s.errs.contains (cellKey line, true) then s
  else if double || s.errs.contains e then { s with errs := s.errs.filter (fun x => x != e) ++ [(cellKey line, true)] }
  else { s with errs := s.errs ++ [e] }

/-- A bit of a tile's word, or of its residue (bits 32 and 33), flips. DEDUCED (log 36): unsafe. -/
def Tile.flip (t : Tile) (word bit : Nat) : Tile :=
  if bit < 32 then { t with words := tblSet word (tblGetD t.words word 0 ^^^ BitVec.twoPow 32 bit) t.words }
  else { t with residues := tblSet word (tblGetD t.residues word 0 ^^^ BitVec.twoPow 2 (bit - 32)) t.residues }

/-- An LLC line's storage fails: a single error, of a word that has no other, is corrected at its read, in a foreign line at once; beyond
that a clean line is dropped and fetched again, a dirty home line is poisoned, and a dirty foreign line can no longer be decoded. DEDUCED
(log 36): unsafe. -/
def State.llcErr (s : State) (md line : Nat) (double : Bool) : State :=
  match (s.mdie md).llc[line]? with
  | none => s
  | some l =>
    let drop := s.setMdie md { s.mdie md with llc := (s.mdie md).llc.eraseIdx line }
    if !double then (if l.frn then s.countM md 0x06 else { s with errs := s.errs ++ [(poisonKey l.line, false)] })
    else if !l.frn then (if l.dirty then s.poison (l.line) else drop)
    else if !l.dirty then drop
    else s.setMdie md { s.mdie md with llc := (s.mdie md).llc.set line { l with hdr := BitVec.allOnes 24 } }

/-- A directory entry fails in one copy, which the mirror repairs, or in both. -/
def State.dirErr (s : State) (pl : Nat) (both : Bool) : State :=
  if both then s.dirBothLost pl else if (s.dirGet pl).isNone then s else s.countD pl 7 1

/-- SOFT_ERROR: a bit of stored state flips of itself. -/
def execSoftError (site : ErrSite) (s : State) : Res :=
  match site with
  | .gReg cid slot reg _ => .next (if 4 ≤ slot || 64 ≤ reg || reg == 0 then s
      else s.modSlot cid slot fun sl => { sl with g := vset sl.g reg { vget sl.g reg {} with bad := true } })
  | .vReg cid slot reg _ => .next (if 4 ≤ slot || 32 ≤ reg then s
      else s.modSlot cid slot fun sl => { sl with v := vset sl.v reg { vget sl.v reg {} with bad := true } })
  | .localWord cid word double => .next (if 65536 ≤ word then s else s.addErr (lmKey cid (8 * word)) double)
  | .tile cl tile word bit => .next (if 16 ≤ tile || 256 ≤ word || 34 ≤ bit then s
      else let c := s.cluster cl; s.setCluster cl { c with tiles := vset c.tiles tile ((vget c.tiles tile {}).flip word bit) })
  | .llc md line double => .next (s.llcErr md line double)
  | .metadata pa double => .next (if double then s.addErr (metaKey pa) true else s.countH (paMdie pa) (pa / 64 % 2) 0x1E)
  | .hbm pa double => .next (s.hbmErr pa double)
  | .directory pline both => .next (s.dirErr pline both)

end Sys2Proof.Machine
end

