-- ==== Sys2Proof/Machine/Dispatch.lean ====
section
/-! DEFINITION. The meaning of each constructor of Instr. -/
namespace Sys2Proof.Machine

def exec (i : Instr) (s : State) : Host.Outcome State Fault Refusal :=
  match i with
  | .add f => Sys2Proof.Machine.execAdd f s
  | .addi f => Sys2Proof.Machine.execAddi f s
  | .addiF96 f => Sys2Proof.Machine.execAddiF96 f s
  | .addiF128 f => Sys2Proof.Machine.execAddiF128 f s
  | .sub f => Sys2Proof.Machine.execSub f s
  | .addc f => Sys2Proof.Machine.execAddc f s
  | .subb f => Sys2Proof.Machine.execSubb f s
  | .mul f => Sys2Proof.Machine.execMul f s
  | .div f => Sys2Proof.Machine.execDiv f s
  | .rem f => Sys2Proof.Machine.execRem f s
  | .negR f => Sys2Proof.Machine.execNeg f s
  | .absR f => Sys2Proof.Machine.execAbs f s
  | .minR f => Sys2Proof.Machine.execMin f s
  | .minF96 f => Sys2Proof.Machine.execMinF96 f s
  | .maxR f => Sys2Proof.Machine.execMax f s
  | .maxF96 f => Sys2Proof.Machine.execMaxF96 f s
  | .andR f => Sys2Proof.Machine.execAnd f s
  | .andF96 f => Sys2Proof.Machine.execAndF96 f s
  | .orR f => Sys2Proof.Machine.execOr f s
  | .orF96 f => Sys2Proof.Machine.execOrF96 f s
  | .xorR f => Sys2Proof.Machine.execXor f s
  | .xorF96 f => Sys2Proof.Machine.execXorF96 f s
  | .andn f => Sys2Proof.Machine.execAndn f s
  | .orn f => Sys2Proof.Machine.execOrn f s
  | .shl f => Sys2Proof.Machine.execShl f s
  | .shlF96 f => Sys2Proof.Machine.execShlF96 f s
  | .shr f => Sys2Proof.Machine.execShr f s
  | .shrF96 f => Sys2Proof.Machine.execShrF96 f s
  | .sar f => Sys2Proof.Machine.execSar f s
  | .sarF96 f => Sys2Proof.Machine.execSarF96 f s
  | .rol f => Sys2Proof.Machine.execRol f s
  | .rolF96 f => Sys2Proof.Machine.execRolF96 f s
  | .ror f => Sys2Proof.Machine.execRor f s
  | .rorF96 f => Sys2Proof.Machine.execRorF96 f s
  | .clz f => Sys2Proof.Machine.execClz f s
  | .ctz f => Sys2Proof.Machine.execCtz f s
  | .popc f => Sys2Proof.Machine.execPopc f s
  | .brev f => Sys2Proof.Machine.execBrev f s
  | .bswap f => Sys2Proof.Machine.execBswap f s
  | .bfx f => Sys2Proof.Machine.execBfx f s
  | .bfi f => Sys2Proof.Machine.execBfi f s
  | .sel f => Sys2Proof.Machine.execSel f s
  | .cmp f => Sys2Proof.Machine.execCmp f s
  | .cmpF96 f => Sys2Proof.Machine.execCmpF96 f s
  | .li f => Sys2Proof.Machine.execLi f s
  | .liF96 f => Sys2Proof.Machine.execLiF96 f s
  | .liF128 f => Sys2Proof.Machine.execLiF128 f s
  | .mov f => Sys2Proof.Machine.execMov f s
  | .cbound f => Sys2Proof.Machine.execCbound f s
  | .cboundF96 f => Sys2Proof.Machine.execCboundF96 f s
  | .cperm f => Sys2Proof.Machine.execCperm f s
  | .cpermF96 f => Sys2Proof.Machine.execCpermF96 f s
  | .coff f => Sys2Proof.Machine.execCoff f s
  | .coffF96 f => Sys2Proof.Machine.execCoffF96 f s
  | .coffF128 f => Sys2Proof.Machine.execCoffF128 f s
  | .cseta f => Sys2Proof.Machine.execCseta f s
  | .csetaF96 f => Sys2Proof.Machine.execCsetaF96 f s
  | .csetaF128 f => Sys2Proof.Machine.execCsetaF128 f s
  | .cget f => Sys2Proof.Machine.execCget f s
  | .cclr f => Sys2Proof.Machine.execCclr f s
  | .cchan f => Sys2Proof.Machine.execCchan f s
  | .cchanF96 f => Sys2Proof.Machine.execCchanF96 f s
  | .csub f => Sys2Proof.Machine.execCsub f s
  | .nop f => Sys2Proof.Machine.execNop f s
  | .nopF96 f => Sys2Proof.Machine.execNopF96 f s
  | .nopF128 f => Sys2Proof.Machine.execNopF128 f s
  | .b f => Sys2Proof.Machine.execB f s
  | .bF96 f => Sys2Proof.Machine.execBF96 f s
  | .bp f => Sys2Proof.Machine.execBp f s
  | .bpF96 f => Sys2Proof.Machine.execBpF96 f s
  | .call f => Sys2Proof.Machine.execCall f s
  | .callF96 f => Sys2Proof.Machine.execCallF96 f s
  | .jmp f => Sys2Proof.Machine.execJmp f s
  | .ret f => Sys2Proof.Machine.execRet f s
  | .loop f => Sys2Proof.Machine.execLoop f s
  | .loopF96 f => Sys2Proof.Machine.execLoopF96 f s
  | .wait f => Sys2Proof.Machine.execWait f s
  | .yield f => Sys2Proof.Machine.execYield f s
  | .actend f => Sys2Proof.Machine.execActend f s
  | .ld f => Sys2Proof.Machine.execLd f s
  | .ldF96 f => Sys2Proof.Machine.execLdF96 f s
  | .st f => Sys2Proof.Machine.execSt f s
  | .stF96 f => Sys2Proof.Machine.execStF96 f s
  | .ldv f => Sys2Proof.Machine.execLdv f s
  | .ldvF96 f => Sys2Proof.Machine.execLdvF96 f s
  | .stv f => Sys2Proof.Machine.execStv f s
  | .stvF96 f => Sys2Proof.Machine.execStvF96 f s
  | .ldvg f => Sys2Proof.Machine.execLdvg f s
  | .stvs f => Sys2Proof.Machine.execStvs f s
  | .ldc f => Sys2Proof.Machine.execLdc f s
  | .ldcF96 f => Sys2Proof.Machine.execLdcF96 f s
  | .stc f => Sys2Proof.Machine.execStc f s
  | .stcF96 f => Sys2Proof.Machine.execStcF96 f s
  | .pref f => Sys2Proof.Machine.execPref f s
  | .prefF96 f => Sys2Proof.Machine.execPrefF96 f s
  | .touch f => Sys2Proof.Machine.execTouch f s
  | .touchF96 f => Sys2Proof.Machine.execTouchF96 f s
  | .fence f => Sys2Proof.Machine.execFence f s
  | .drain f => Sys2Proof.Machine.execDrain f s
  | .amo f => Sys2Proof.Machine.execAmo f s
  | .amoF96 f => Sys2Proof.Machine.execAmoF96 f s
  | .amof f => Sys2Proof.Machine.execAmof f s
  | .amofF96 f => Sys2Proof.Machine.execAmofF96 f s
  | .cas f => Sys2Proof.Machine.execCas f s
  | .mcst f => Sys2Proof.Machine.execMcst f s
  | .mcstF96 f => Sys2Proof.Machine.execMcstF96 f s
  | .mred f => Sys2Proof.Machine.execMred f s
  | .mredF96 f => Sys2Proof.Machine.execMredF96 f s
  | .l1inv f => Sys2Proof.Machine.execL1inv f s
  | .l1wb f => Sys2Proof.Machine.execL1wb f s
  | .fadd f => Sys2Proof.Machine.execFadd f s
  | .faddF96 f => Sys2Proof.Machine.execFaddF96 f s
  | .faddF128 f => Sys2Proof.Machine.execFaddF128 f s
  | .fsub f => Sys2Proof.Machine.execFsub f s
  | .fsubF96 f => Sys2Proof.Machine.execFsubF96 f s
  | .fsubF128 f => Sys2Proof.Machine.execFsubF128 f s
  | .fmul f => Sys2Proof.Machine.execFmul f s
  | .fmulF96 f => Sys2Proof.Machine.execFmulF96 f s
  | .fmulF128 f => Sys2Proof.Machine.execFmulF128 f s
  | .fma f => Sys2Proof.Machine.execFma f s
  | .fdiv f => Sys2Proof.Machine.execFdiv f s
  | .fsqrt f => Sys2Proof.Machine.execFsqrt f s
  | .fmin f => Sys2Proof.Machine.execFmin f s
  | .fminF96 f => Sys2Proof.Machine.execFminF96 f s
  | .fmax f => Sys2Proof.Machine.execFmax f s
  | .fmaxF96 f => Sys2Proof.Machine.execFmaxF96 f s
  | .fsgn f => Sys2Proof.Machine.execFsgn f s
  | .fcmp f => Sys2Proof.Machine.execFcmp f s
  | .fcmpF96 f => Sys2Proof.Machine.execFcmpF96 f s
  | .fclass f => Sys2Proof.Machine.execFclass f s
  | .fcvt f => Sys2Proof.Machine.execFcvt f s
  | .ftoi f => Sys2Proof.Machine.execFtoi f s
  | .itof f => Sys2Proof.Machine.execItof f s
  | .fround f => Sys2Proof.Machine.execFround f s
  | .vadd f => Sys2Proof.Machine.execVadd f s
  | .vaddF96 f => Sys2Proof.Machine.execVaddF96 f s
  | .vsub f => Sys2Proof.Machine.execVsub f s
  | .vsubF96 f => Sys2Proof.Machine.execVsubF96 f s
  | .vmul f => Sys2Proof.Machine.execVmul f s
  | .vmulF96 f => Sys2Proof.Machine.execVmulF96 f s
  | .vfma f => Sys2Proof.Machine.execVfma f s
  | .vmin f => Sys2Proof.Machine.execVmin f s
  | .vminF96 f => Sys2Proof.Machine.execVminF96 f s
  | .vmax f => Sys2Proof.Machine.execVmax f s
  | .vmaxF96 f => Sys2Proof.Machine.execVmaxF96 f s
  | .vsgn f => Sys2Proof.Machine.execVsgn f s
  | .vcmp f => Sys2Proof.Machine.execVcmp f s
  | .vcmpF96 f => Sys2Proof.Machine.execVcmpF96 f s
  | .vsel f => Sys2Proof.Machine.execVsel f s
  | .vand f => Sys2Proof.Machine.execVand f s
  | .vandF96 f => Sys2Proof.Machine.execVandF96 f s
  | .vor f => Sys2Proof.Machine.execVor f s
  | .vorF96 f => Sys2Proof.Machine.execVorF96 f s
  | .vxor f => Sys2Proof.Machine.execVxor f s
  | .vxorF96 f => Sys2Proof.Machine.execVxorF96 f s
  | .vshl f => Sys2Proof.Machine.execVshl f s
  | .vshlF96 f => Sys2Proof.Machine.execVshlF96 f s
  | .vshr f => Sys2Proof.Machine.execVshr f s
  | .vshrF96 f => Sys2Proof.Machine.execVshrF96 f s
  | .vsar f => Sys2Proof.Machine.execVsar f s
  | .vsarF96 f => Sys2Proof.Machine.execVsarF96 f s
  | .vred f => Sys2Proof.Machine.execVred f s
  | .vscan f => Sys2Proof.Machine.execVscan f s
  | .vperm f => Sys2Proof.Machine.execVperm f s
  | .vbcast f => Sys2Proof.Machine.execVbcast f s
  | .vbcastF96 f => Sys2Proof.Machine.execVbcastF96 f s
  | .vbcastF128 f => Sys2Proof.Machine.execVbcastF128 f s
  | .vext f => Sys2Proof.Machine.execVext f s
  | .vins f => Sys2Proof.Machine.execVins f s
  | .vcvt f => Sys2Proof.Machine.execVcvt f s
  | .vquant f => Sys2Proof.Machine.execVquant f s
  | .vdeq f => Sys2Proof.Machine.execVdeq f s
  | .vexp2 f => Sys2Proof.Machine.execVexp2 f s
  | .vlog2 f => Sys2Proof.Machine.execVlog2 f s
  | .vrcp f => Sys2Proof.Machine.execVrcp f s
  | .vrsq f => Sys2Proof.Machine.execVrsq f s
  | .vlut f => Sys2Proof.Machine.execVlut f s
  | .vdot f => Sys2Proof.Machine.execVdot f s
  | .vmov f => Sys2Proof.Machine.execVmov f s
  | .vmovPop f => Sys2Proof.Machine.execVmovPop f s
  | .vmovPush f => Sys2Proof.Machine.execVmovPush f s
  | .laccClr f => Sys2Proof.Machine.execLaccClr f s
  | .laccAdd f => Sys2Proof.Machine.execLaccAdd f s
  | .laccMac f => Sys2Proof.Machine.execLaccMac f s
  | .laccRd f => Sys2Proof.Machine.execLaccRd f s
  | .laccMrg f => Sys2Proof.Machine.execLaccMrg f s
  | .sbind f => Sys2Proof.Machine.execSbind f s
  | .sbindF128 f => Sys2Proof.Machine.execSbindF128 f s
  | .sfree f => Sys2Proof.Machine.execSfree f s
  | .sstat f => Sys2Proof.Machine.execSstat f s
  | .send f => Sys2Proof.Machine.execSend f s
  | .sendF96 f => Sys2Proof.Machine.execSendF96 f s
  | .sendr f => Sys2Proof.Machine.execSendr f s
  | .hset f => Sys2Proof.Machine.execHset f s
  | .hmask f => Sys2Proof.Machine.execHmask f s
  | .hmaskF96 f => Sys2Proof.Machine.execHmaskF96 f s
  | .launch f => Sys2Proof.Machine.execLaunch f s
  | .evset f => Sys2Proof.Machine.execEvset f s
  | .evsetF96 f => Sys2Proof.Machine.execEvsetF96 f s
  | .evclr f => Sys2Proof.Machine.execEvclr f s
  | .evclrF96 f => Sys2Proof.Machine.execEvclrF96 f s
  | .evwait f => Sys2Proof.Machine.execEvwait f s
  | .evwaitF96 f => Sys2Proof.Machine.execEvwaitF96 f s
  | .evtest f => Sys2Proof.Machine.execEvtest f s
  | .evtestF96 f => Sys2Proof.Machine.execEvtestF96 f s
  | .barrier f => Sys2Proof.Machine.execBarrier f s
  | .groupid f => Sys2Proof.Machine.execGroupid f s
  | .corenum f => Sys2Proof.Machine.execCorenum f s
  | .dopen f => Sys2Proof.Machine.execDopen f s
  | .dclose f => Sys2Proof.Machine.execDclose f s
  | .dabort f => Sys2Proof.Machine.execDabort f s
  | .dstat f => Sys2Proof.Machine.execDstat f s
  | .jwait f => Sys2Proof.Machine.execJwait f s
  | .jwaitF96 f => Sys2Proof.Machine.execJwaitF96 f s
  | .jpoll f => Sys2Proof.Machine.execJpoll f s
  | .jpollF96 f => Sys2Proof.Machine.execJpollF96 f s
  | .jstat f => Sys2Proof.Machine.execJstat f s
  | .srd f => Sys2Proof.Machine.execSrd f s
  | .swr f => Sys2Proof.Machine.execSwr f s
  | .trap f => Sys2Proof.Machine.execTrap f s
  | .bkpt f => Sys2Proof.Machine.execBkpt f s
  | .mark f => Sys2Proof.Machine.execMark f s
  | .markF96 f => Sys2Proof.Machine.execMarkF96 f s
  | .killg f => Sys2Proof.Machine.execKillg f s
  | .resume f => Sys2Proof.Machine.execResume f s
  | .pgreply f => Sys2Proof.Machine.execPgreply f s
  | .tlbinv f => Sys2Proof.Machine.execTlbinv f s
  | .loadResponse id x => Sys2Proof.Machine.execLoadResponse id x s
  | .storeAck id x => Sys2Proof.Machine.execStoreAck id x s
  | .storeFaultReport id x => Sys2Proof.Machine.execStoreFaultReport id x s
  | .unreachResponse id => Sys2Proof.Machine.execUnreachResponse id s
  | .depositArrival cid dir => Sys2Proof.Machine.execDepositArrival cid dir s
  | .messageAccept mid => Sys2Proof.Machine.execMessageAccept mid s
  | .payloadComplete cid chan k crcOk => Sys2Proof.Machine.execPayloadComplete cid chan k crcOk s
  | .select cid => Sys2Proof.Machine.execSelect cid s
  | .agePromotion cid chan => Sys2Proof.Machine.execAgePromotion cid chan s
  | .actTimeout cid slot => Sys2Proof.Machine.execActTimeout cid slot s
  | .waitWake cid slot => Sys2Proof.Machine.execWaitWake cid slot s
  | .evwaitWake cid slot => Sys2Proof.Machine.execEvwaitWake cid slot s
  | .jwaitWake cid slot => Sys2Proof.Machine.execJwaitWake cid slot s
  | .barrierComplete k => Sys2Proof.Machine.execBarrierComplete k s
  | .sendQueueIssue cid => Sys2Proof.Machine.execSendQueueIssue cid s
  | .messageRefused mid x => Sys2Proof.Machine.execMessageRefused mid x s
  | .sendRetry cid mid => Sys2Proof.Machine.execSendRetry cid mid s
  | .spillOffer cid => Sys2Proof.Machine.execSpillOffer cid s
  | .spillHeadTimeout cid => Sys2Proof.Machine.execSpillHeadTimeout cid s
  | .lmRefresh cid bank row => Sys2Proof.Machine.execLmRefresh cid bank row s
  | .ephemeralSweep cid row => Sys2Proof.Machine.execEphemeralSweep cid row s
  | .remoteCoreAccess id => Sys2Proof.Machine.execRemoteCoreAccess id s
  | .homeAccess id => Sys2Proof.Machine.execHomeAccess id s
  | .pageWalk id => Sys2Proof.Machine.execPageWalk id s
  | .jobAccept win => Sys2Proof.Machine.execJobAccept win s
  | .mma cl => Sys2Proof.Machine.execMma cl s
  | .mzero cl => Sys2Proof.Machine.execMzero cl s
  | .mload cl => Sys2Proof.Machine.execMload cl s
  | .mstore cl => Sys2Proof.Machine.execMstore cl s
  | .mtcfg cl => Sys2Proof.Machine.execMtcfg cl s
  | .mtrel cl => Sys2Proof.Machine.execMtrel cl s
  | .copy cl => Sys2Proof.Machine.execCopy cl s
  | .conv cl => Sys2Proof.Machine.execConv cl s
  | .quant cl => Sys2Proof.Machine.execQuant cl s
  | .gather cl => Sys2Proof.Machine.execGather cl s
  | .scatter cl => Sys2Proof.Machine.execScatter cl s
  | .fill cl => Sys2Proof.Machine.execFill cl s
  | .jobComplete eng k => Sys2Proof.Machine.execJobComplete eng k s
  | .areduce sd k => Sys2Proof.Machine.execAreduce sd k s
  | .rscatter sd k => Sys2Proof.Machine.execRscatter sd k s
  | .agather sd k => Sys2Proof.Machine.execAgather sd k s
  | .bcast sd k => Sys2Proof.Machine.execBcast sd k s
  | .cearb sd k => Sys2Proof.Machine.execCearb sd k s
  | .cefence sd k => Sys2Proof.Machine.execCefence sd k s
  | .collectiveGatePoll sd k => Sys2Proof.Machine.execCollectiveGatePoll sd k s
  | .collectiveListRead sd k => Sys2Proof.Machine.execCollectiveListRead sd k s
  | .collectiveStep sd k peer dat => Sys2Proof.Machine.execCollectiveStep sd k peer dat s
  | .handlerRun id => Sys2Proof.Machine.execHandlerRun id s
  | .handlerInstall n => Sys2Proof.Machine.execHandlerInstall n s
  | .handlerRemove n => Sys2Proof.Machine.execHandlerRemove n s
  | .handlerInstallDone n => Sys2Proof.Machine.execHandlerInstallDone n s
  | .multicastSplit id => Sys2Proof.Machine.execMulticastSplit id s
  | .packetInject sd k => Sys2Proof.Machine.execPacketInject sd k s
  | .intermediateForward k => Sys2Proof.Machine.execIntermediateForward k s
  | .flitReceive port flit => Sys2Proof.Machine.execFlitReceive port flit s
  | .syncSend port => Sys2Proof.Machine.execSyncSend port s
  | .syncReceive port flit => Sys2Proof.Machine.execSyncReceive port flit s
  | .linkDown port peerAck => Sys2Proof.Machine.execLinkDown port peerAck s
  | .linkRetrain port => Sys2Proof.Machine.execLinkRetrain port s
  | .routeTableBuild => Sys2Proof.Machine.execRouteTableBuild s
  | .dieMapUpdate entry x => Sys2Proof.Machine.execDieMapUpdate entry x s
  | .epochFlip => Sys2Proof.Machine.execEpochFlip s
  | .epochDrained => Sys2Proof.Machine.execEpochDrained s
  | .llcFill k => Sys2Proof.Machine.execLlcFill k s
  | .hbmRequest md k => Sys2Proof.Machine.execHbmRequest md k s
  | .refreshSlot md st q => Sys2Proof.Machine.execRefreshSlot md st q s
  | .allbankRefreshStart md st q => Sys2Proof.Machine.execAllbankRefreshStart md st q s
  | .allbankRefreshEnd md st q => Sys2Proof.Machine.execAllbankRefreshEnd md st q s
  | .gets r pline ctx vpn => Sys2Proof.Machine.execGets r pline ctx vpn s
  | .getm r pline ctx vpn => Sys2Proof.Machine.execGetm r pline ctx vpn s
  | .putm r pline dat => Sys2Proof.Machine.execPutm r pline dat s
  | .puto r pline dat => Sys2Proof.Machine.execPuto r pline dat s
  | .pute r pline => Sys2Proof.Machine.execPute r pline s
  | .puts r pline => Sys2Proof.Machine.execPuts r pline s
  | .directoryForward h ctx vline r excl => Sys2Proof.Machine.execDirectoryForward h ctx vline r excl s
  | .directoryInvalidate h ctx vline => Sys2Proof.Machine.execDirectoryInvalidate h ctx vline s
  | .foreignRequestReissue id => Sys2Proof.Machine.execForeignRequestReissue id s
  | .remoteL1Flush p ctx va size => Sys2Proof.Machine.execRemoteL1Flush p ctx va size s
  | .tlbinvAck k p => Sys2Proof.Machine.execTlbinvAck k p s
  | .migrationGo md => Sys2Proof.Machine.execMigrationGo md s
  | .migrationCommit md => Sys2Proof.Machine.execMigrationCommit md s
  | .migrationClose md => Sys2Proof.Machine.execMigrationClose md s
  | .mqmaxRead md => Sys2Proof.Machine.execMqmaxRead md s
  | .collectorEnqueue k => Sys2Proof.Machine.execCollectorEnqueue k s
  | .faultPacketMerge j k => Sys2Proof.Machine.execFaultPacketMerge j k s
  | .collectorPop sc => Sys2Proof.Machine.execCollectorPop sc s
  | .debugWindowWrite cid off n x => Sys2Proof.Machine.execDebugWindowWrite cid off n x s
  | .stopRequest cid x => Sys2Proof.Machine.execStopRequest cid x s
  | .stopComplete cid => Sys2Proof.Machine.execStopComplete cid s
  | .sfqclr cid x => Sys2Proof.Machine.execSfqclr cid x s
  | .dlytclr cid x => Sys2Proof.Machine.execDlytclr cid x s
  | .dumpStart sc => Sys2Proof.Machine.execDumpStart sc s
  | .dumpComplete sc => Sys2Proof.Machine.execDumpComplete sc s
  | .dumpTakeover sc => Sys2Proof.Machine.execDumpTakeover sc s
  | .traceSample cid => Sys2Proof.Machine.execTraceSample cid s
  | .traceDrain cl => Sys2Proof.Machine.execTraceDrain cl s
  | .sinkEvaluate ctx => Sys2Proof.Machine.execSinkEvaluate ctx s
  | .clusterGate cl forced => Sys2Proof.Machine.execClusterGate cl forced s
  | .tshRead ctx => Sys2Proof.Machine.execTshRead ctx s
  | .rloghRead ctx => Sys2Proof.Machine.execRloghRead ctx s
  | .raceSweep ctx => Sys2Proof.Machine.execRaceSweep ctx s
  | .raceSweepDone ctx => Sys2Proof.Machine.execRaceSweepDone ctx s
  | .serviceCoreStart sc pcc entry caps => Sys2Proof.Machine.execServiceCoreStart sc pcc entry caps s
  | .padPacket ring => Sys2Proof.Machine.execPadPacket ring s
  | .nopPacket ring => Sys2Proof.Machine.execNopPacket ring s
  | .ctxinit ring => Sys2Proof.Machine.execCtxinit ring s
  | .ctxfree ring => Sys2Proof.Machine.execCtxfree ring s
  | .launchPacket ring => Sys2Proof.Machine.execLaunchPacket ring s
  | .eventPacket ring => Sys2Proof.Machine.execEventPacket ring s
  | .resync ring => Sys2Proof.Machine.execResync ring s
  | .vacate ring => Sys2Proof.Machine.execVacate ring s
  | .ringResume ring => Sys2Proof.Machine.execRingResume ring s
  | .ringResumeSkip ring => Sys2Proof.Machine.execRingResumeSkip ring s
  | .schedulingPass => Sys2Proof.Machine.execSchedulingPass s
  | .launchRetire lid => Sys2Proof.Machine.execLaunchRetire lid s
  | .vacateGraceExpiry lid => Sys2Proof.Machine.execVacateGraceExpiry lid s
  | .narrowRemap lid => Sys2Proof.Machine.execNarrowRemap lid s
  | .widen lid => Sys2Proof.Machine.execWiden lid s
  | .domainComplete ctx did => Sys2Proof.Machine.execDomainComplete ctx did s
  | .domainError ctx did => Sys2Proof.Machine.execDomainError ctx did s
  | .domainRestore ctx did => Sys2Proof.Machine.execDomainRestore ctx did s
  | .rootReissue ctx did => Sys2Proof.Machine.execRootReissue ctx did s
  | .parityDelta egrp o pos isQ delta dtag => Sys2Proof.Machine.execParityDelta egrp o pos isQ delta dtag s
  | .esync x => Sys2Proof.Machine.execEsync x s
  | .esyncDone => Sys2Proof.Machine.execEsyncDone s
  | .estatRead => Sys2Proof.Machine.execEstatRead s
  | .lineRepair pa peers => Sys2Proof.Machine.execLineRepair pa peers s
  | .erasureRebuild pa target peers => Sys2Proof.Machine.execErasureRebuild pa target peers s
  | .heartbeat heard => Sys2Proof.Machine.execHeartbeat heard s
  | .neighbourSilent p => Sys2Proof.Machine.execNeighbourSilent p s
  | .lossDeclaration d votes => Sys2Proof.Machine.execLossDeclaration d votes s
  | .selfFence => Sys2Proof.Machine.execSelfFence s
  | .coreRetire core whole readable => Sys2Proof.Machine.execCoreRetire core whole readable s
  | .cdieReplace die spare => Sys2Proof.Machine.execCdieReplace die spare s
  | .timeSync up => Sys2Proof.Machine.execTimeSync up s
  | .freqStep die => Sys2Proof.Machine.execFreqStep die s
  | .relockComplete die => Sys2Proof.Machine.execRelockComplete die s
  | .droopStretch die lost => Sys2Proof.Machine.execDroopStretch die lost s
  | .powerEvaluate pwr => Sys2Proof.Machine.execPowerEvaluate pwr s
  | .pstepPin level => Sys2Proof.Machine.execPstepPin level s
  | .powerStep x => Sys2Proof.Machine.execPowerStep x s
  | .freqCeilWrite die x => Sys2Proof.Machine.execFreqCeilWrite die x s
  | .droopcClear die x => Sys2Proof.Machine.execDroopcClear die x s
  | .counterClear blk idx x => Sys2Proof.Machine.execCounterClear blk idx x s
  | .thermalLimit die temp => Sys2Proof.Machine.execThermalLimit die temp s
  | .thermalTrip die temp => Sys2Proof.Machine.execThermalTrip die temp s
  | .powerFailTrap => Sys2Proof.Machine.execPowerFailTrap s
  | .drainComplete => Sys2Proof.Machine.execDrainComplete s
  | .pfctlRun => Sys2Proof.Machine.execPfctlRun s
  | .pfctlDiscard => Sys2Proof.Machine.execPfctlDiscard s
  | .pfheadRead => Sys2Proof.Machine.execPfheadRead s
  | .powerOnBoot => Sys2Proof.Machine.execPowerOnBoot s
  | .attest => Sys2Proof.Machine.execAttest s
  | .readlog => Sys2Proof.Machine.execReadlog s
  | .readcert => Sys2Proof.Machine.execReadcert s
  | .fwload => Sys2Proof.Machine.execFwload s
  | .hostWindowAccess ap off n write x => Sys2Proof.Machine.execHostWindowAccess ap off n write x s
  | .streamFetch cid slot st => Sys2Proof.Machine.execStreamFetch cid slot st s
  | .streamWrite cid slot st => Sys2Proof.Machine.execStreamWrite cid slot st s
  | .registerWrite sp off x => Sys2Proof.Machine.execRegisterWrite sp off x s
  | .softError site => Sys2Proof.Machine.execSoftError site s
  | .linkLoss port dead => Sys2Proof.Machine.execLinkLoss port dead s
  | .dieLoss d => Sys2Proof.Machine.execDieLoss d s
  | .packageReset => Sys2Proof.Machine.execPackageReset s
  | .laccOperationComplete cid => Sys2Proof.Machine.execLaccOperationComplete cid s
  | .perBankRefreshEnd md st q bank => Sys2Proof.Machine.execPerBankRefreshEnd md st q bank s
  | .hbmRankPowerDown md st => Sys2Proof.Machine.execHbmRankPowerDown md st s
  | .clusterWake cl => Sys2Proof.Machine.execClusterWake cl s
  | .parityDeltaAck k => Sys2Proof.Machine.execParityDeltaAck k s
  | .invalidateAck p pline dirty => Sys2Proof.Machine.execInvalidateAck p pline dirty s
  | .putAck h vline ctx => Sys2Proof.Machine.execPutAck h vline ctx s
  | .taskCompletionNotice ctx did p => Sys2Proof.Machine.execTaskCompletionNotice ctx did p s
  | .directoryOwnerTimeout pline => Sys2Proof.Machine.execDirectoryOwnerTimeout pline s

end Sys2Proof.Machine
end

