-- ==== Sys2Proof/Machine/Time.lean ====
section
/-! DEFINITION. The passing of reference ticks: REFT, the die clocks, watchdog counts and the ages of channels (R47, R232, R237,
R499 to R502). -/
namespace Sys2Proof.Machine

/-- The TCYC increment of a die cycle at a frequency code, in parts of 2^16 (R500): 3 × 65,536 / f, rounded. -/
def tcycInc (code : Nat) : Nat := (2 * 3 * 65536 * 4 + (4 + code)) / (2 * (4 + code))

/-- A die's clock after `n` ticks, and the cycles it counted. A stopped clock counts nothing (R500, R502); the time that
stretched cycles lost is left out (R503). DEDUCED (log 54): unsafe. -/
def Die.pass (d : Die) (n : Nat) : Die × Nat :=
  if !d.running then (d, 0)
  else
    let q := d.phase + (n - d.debt) * (4 + d.code.toNat)
    let cycles := q / 4
    let t := d.frac.toNat + cycles * tcycInc d.code.toNat
    ({ d with phase := q % 4, debt := d.debt - n, cyc := d.cyc + BitVec.ofNat 64 cycles, tcyc := d.tcyc + BitVec.ofNat 64 (t / 65536)
              frac := BitVec.ofNat 16 t }, cycles)

/-- A slot after `n` die cycles of its core: its watchdog counts while it holds an activation. -/
def Slot.pass (sl : Slot) (n : Nat) : Slot :=
  match sl.run with
  | .dormant => sl
  | .suspended _ => sl
  | _ => { sl with wdog := sl.wdog + n }

/-- What a slot wrote into its mailbox registers is no longer of the present cycle (R37). -/
def Core.oldMail (c : Core) : Core := { c with slots := c.slots.map fun sl => { sl with mbNew := 0 } }

/-- A core after `n` cycles: nothing counts while it is frozen. In each cycle one activation may start (R232); of those that passed, only the ones
of the last tick may still be used. -/
def Core.pass (c0 : Core) (frozen : Bool) (n : Nat) : Core :=
  let c := if n == 0 then c0 else { c0.oldMail with starts := n }
  if frozen then c else { (c.ageBy n) with slots := c.slots.map fun sl => sl.pass n }

/-- A row of the ephemeral range after `n` more ticks: a sweep has visited it by the time that it has met the age condition for 2^20 ticks,
so that no stamp wraps (R254). -/
def Row.pass (r : Row) (reft : W64) (n : Nat) : Row :=
  if 626 + 2 ^ 14 ≤ (stampNow reft - r.stamp).toNat + n / 64 then { r with aged := true } else r

/-- `n` reference ticks pass. A tick to be repeated or omitted changes REFT alone (R499). -/
def State.passTime (s : State) (n : Nat) : State :=
  let dies := (List.range 16).map fun d => (d, (s.die d).pass n)
  let cyc (cid : Nat) : Nat := ((dies.getD (dieOf (s.core cid).phys) (0, {}, 0)).2).2
  let ticks := match s.reftAdj with
    | none => n
    | some up => if n == 0 then 0 else if up then n - 1 else n + 1
  { s with
    reft := s.reft + BitVec.ofNat 64 ticks
    reftAdj := if n == 0 then s.reftAdj else none
    dies := dies.map fun p => (p.1, p.2.1)
    cores := s.cores.map fun p =>
      let c0 := p.2.pass (s.frozen p.1) (cyc p.1)
      let c := { c0 with starts := min c0.starts ((7 + (s.dieAt p.1).code.toNat) / 4) }
      (p.1, { c with rows := c.rows.map fun x => (x.1, x.2.pass s.reft n) }) }

end Sys2Proof.Machine
end

