-- ==== Sys2Proof/Machine/Step.lean ====
section
/-! DEFINITION. One step: the next input of the agenda, or, when the agenda is empty, the turn of the slot that the state names.
-/
namespace Sys2Proof.Machine

/-- The turn of slot `turn`: the instruction it fetches, or what happens instead. DESIGN CHOICE (log 1): safe. -/
def turnStep (s : State) : Host.Outcome State Fault Refusal :=
  match s.turnOf s.turn.1 s.turn.2 with
  | .instr i s' => exec i s'
  | .other s' => .next s'

/-- A slot of an existing core. -/
def slotExists (t : Nat × Nat) : Bool := coreExists t.1 && decide (t.2 < 4)

/-- One step. With an empty agenda a slot that cannot issue lets one reference tick pass. DESIGN CHOICE (log 1): safe. -/
def step (s : State) : Host.Outcome State Fault Refusal :=
  match s.agenda with
  | .time n :: rest => .next ({ s with agenda := rest }.passTime n)
  | .event i :: rest => exec i { s with agenda := rest }
  | .arrive d rs :: rest => .next ({ s with agenda := rest }.arriveParts d rs)
  | .arriveMsg m :: rest => .next { s with agenda := rest, msgs := s.msgs ++ [{ m with mid := s.nextId, rmid := m.mid, inFlight := true, back := false }], nextId := s.nextId + 1 }
  | .issue c k :: rest =>
    if slotExists (c, k) then turnStep { s with agenda := rest, turn := (c, k) } else .fault .noSuchSlot
  | [] =>
    if !slotExists s.turn then .fault .noSuchSlot
    else if s.canIssue s.turn.1 s.turn.2 || (s.endCheck s.turn.1 s.turn.2).isSome then turnStep s
    else .next (s.passTime 1)

/-- The whole address space as executable memory: a root capability (R29) whose permission is EXEC. DESIGN CHOICE (log 4): safe.
-/
def rootExec (pc : W64) : W128 := mkCap 0 63 0 0 pEXEC pc.toNat

/-- The state with an instruction's bytes placed where the next step fetches: at local offset 0 of a core, through its self
alias, with the slot running and nothing else due. An instruction of a service core goes to service core 0, any other to worker
core 0. DESIGN CHOICE (log 4): safe. -/
def State.withFetchWord (s : State) (nbits w : Nat) : State :=
  let op := w / 4 % 256
  let cid := if 0xE8 ≤ op && op ≤ 0xEB then svcBase else 0
  let pc := selfAlias 0
  let s1 := { s with mem := memPuts s.mem (lmKey cid 0) (leBytes (nbits / 8) w ++ leBytes (16 - nbits / 8) 0), agenda := [], turn := (cid, 0) }
  s1.modSlot cid 0 fun sl => { sl with run := .running, pc := pc, pcc := rootExec pc, pccTag := true }

end Sys2Proof.Machine
end

