-- ==== Sys2Proof/Machine/HostRead.lean ====
section
/-! DEFINITION. What a 64-bit register of the host register space reads (R5, R352, R403, R422, R446, R468, R485, R504, R507, R511, R515,
R516, R518, R520). The registers cleared by a read have rows of their own that clear them (TSH_READ, ESTAT_READ, PFHEAD_READ). -/
namespace Sys2Proof.Machine

/-- A counter of M-die `m` (R403): gauges give their value, others what was counted. DEDUCED (log 62): unsafe. -/
def State.mdieCounter (s : State) (m idx : Nat) : W64 :=
  let ls := (s.mdie m).llc
  if idx == 0 then BitVec.ofNat 64 (sectorsUsed ls)
  else if idx == 1 then BitVec.ofNat 64 ls.length
  else if idx == 2 then BitVec.ofNat 64 (ls.filter (·.frn)).length
  else if 8 ≤ idx && idx ≤ 16 then BitVec.ofNat 64 (ls.filter fun l => l.slist.length == idx - 8).length
  else if isEvent m idx then tblGetD (s.mdie m).count idx 0 else 0

/-- A counter of S-die `sd` (R422). DEDUCED (log 62): unsafe. -/
def State.sdieCounter (s : State) (sd idx : Nat) : W64 :=
  let es := s.dir.ents.filter fun e => e.state != stI
  if idx == 0 then BitVec.ofNat 64 es.length
  else if idx == 1 then BitVec.ofNat 64 (es.filter (·.crs)).length
  else if isEvent (6 + sd) idx then tblGetD s.dir.count (16 * sd + idx) 0 else 0

/-- A counter of port `q` (R468). DEDUCED (log 62): unsafe. -/
def State.portCounter (s : State) (q idx : Nat) : W64 :=
  if idx == 5 then BitVec.ofNat 64 (s.port q).state.toNat
  else if isEvent (8 + q) idx then tblGetD (s.port q).count idx 0 else 0

/-- A register of the global block (R504, R507, R515). -/
def State.globalRead (s : State) (o : Nat) : Nat :=
  if o == 0x000 then s.gstat.toNat
  else if o == 0x008 then s.pstepcap.toNat
  else if o == 0x010 then s.pstat.toNat
  else if 0x100 ≤ o && o < 0x180 then (s.die ((o - 0x100) / 8)).ceil.toNat + 16 * (s.die ((o - 0x100) / 8)).code.toNat
  else if o == 0x180 then s.power.tokmax.toNat
  else if 0x200 ≤ o && o < 0x280 then (s.die ((o - 0x200) / 8)).droopc.toNat
  else if 0x300 ≤ o && o < 0x3D8 then (tblGetD s.power.temps ((o - 0x300) / 8) 0).toNat
  else 0

/-- A register of a ring's block (R352). -/
def Ring.read (r : Ring) (o : Nat) : Nat :=
  if o == 0x00 then r.rbase.toNat
  else if o == 0x08 then r.tail.toNat
  else if o == 0x10 then r.head.toNat
  else if o == 0x18 then r.rstat.toNat
  else if o == 0x20 then 4 * b2n r.en
  else if o == 0x28 then r.rcomp.toNat
  else if o == 0x30 then r.chead.toNat
  else 0

/-- A register of a trace sink block (R446). -/
def Sink.read (b : Sink) (o : Nat) : Nat :=
  if o == 0x00 then b.tsb.toNat
  else if o == 0x08 then b.tsh.toNat
  else if o == 0x10 then b.tail.toNat
  else b.min.toNat + 128 * b2n b.adapt + 256 * b.cur.toNat

/-- A word of the pending-fault list (R518): record `i` is held while it is appended and not consumed; what the place of a consumed
record reads as the manual does not say. DESIGN CHOICE (log 5): safe. DEDUCED (log 48): unsafe. -/
def HostSt.pendWord (h : HostSt) (i j : Nat) : W64 :=
  let first := h.pfhead - BitVec.ofNat 32 h.pend.length
  match h.pend[(i + 256 - first.toNat % 256) % 256]? with
  | some r => r.extractLsb' (64 * j) 64
  | none => Config.spentWord (4 * i + j)

/-- A 64-bit register of the host register space as it reads now; an offset without a register, or one that is only written, reads 0. -/
def State.hostRegRead (s : State) (o : Nat) : W64 :=
  let h := s.host
  if o < 0x10000 then BitVec.ofNat 64 (s.globalRead o)
  else if o < 0x10400 then BitVec.ofNat 64 ((s.ring ((o - 0x10000) / 64)).read (o % 64))
  else if o == 0x11000 then h.ctxb
  else if 0x20000 ≤ o && o < 0x20800 then BitVec.ofNat 64 ((s.sink ((o - 0x20000) / 32)).read (o % 32))
  else if o == 0x21000 then h.egtb
  else if o == 0x21008 then BitVec.ofNat 64 (h.esGrp.toNat + 256 * b2n h.esAll + 2 ^ 17 * b2n h.esBusy)
  else if o == 0x21010 then h.estat
  else if 0x30000 ≤ o && o < 0x30C00 then s.mdieCounter ((o - 0x30000) / 0x200) (o % 0x200 / 8)
  else if 0x31000 ≤ o && o < 0x31100 then s.sdieCounter ((o - 0x31000) / 0x80) (o % 0x80 / 8)
  else if 0x32000 ≤ o && o < 0x32800 then s.portCounter ((o - 0x32000) / 0x40) (o % 0x40 / 8)
  else if 0x40000 ≤ o && o < 0x42000 then h.pendWord ((o - 0x40000) / 32) (o % 32 / 8)
  else if o == 0x42000 then h.pfheadWord
  else if o == 0x42008 then BitVec.ofNat 64 h.pftail.toNat
  else if o == 0x50000 then BitVec.ofNat 64 h.mbcmd.toNat
  else if o == 0x50008 then BitVec.ofNat 64 h.mbstat.toNat
  else if o == 0x50010 then h.mbaddr
  else if o == 0x50018 then h.mblen
  else if 0x60000 ≤ o && o < 0x60100 then
    let w := vget h.windows ((o - 0x60000) / 16) (0, 0)
    if o % 16 == 0 then w.1 else w.2
  else 0

end Sys2Proof.Machine
end

