-- ==== Sys2Proof/Safety.lean ====
section
/-! DEFINITION. What counts as a safe run: every state reached keeps the invariants of the state's own form; and the terms
in which claims about single instructions are made. -/
namespace Sys2Proof.Machine

/-- g0, p0 and their like hold what they read as (R21, R34): no write has changed them. -/
def Slot.wired (sl : Slot) : Bool := vget sl.g 0 {} == {} && vget sl.p 0 0 == 0

/-- The memory of a state is in its one form. -/
def State.wf (s : State) : Bool := memWf s.mem

/-- A run of `n` steps answers a state and every state on its way is in form. -/
def safeRun : Nat → State → Bool
  | 0, s => s.wf
  | n + 1, s => s.wf && (match step s with
    | .next s' => safeRun n s'
    | .fault _ => false
    | .refused _ => false)

/-! ## Terms of the claims -/

/-- The slot whose turn it is. -/
def State.cur (s : State) : Slot := s.slotAt s.turn.1 s.turn.2

/-- An instruction with fields `i` and register uses `u` executes up to its own effect: its slot exists (R20), no store of the slot has met the bound of
R430, its predicate holds (R77), no register it uses is pending (R138), every mailbox source is present (R36), no source has
a parity error (R20), and no source that it does not merely move is marked expired (R141). -/
def State.issues (s : State) (i : Ins) (u : Uses) (vec : Bool) : Bool :=
  decide (s.turn.2 < 4) && !skidFull s.reqs s.turn.1 s.turn.2 && (vec || s.cur.predTrue i.pred) && !s.cur.pends u && !s.cur.mboxMissing u &&
  !parityErr s.cur u && (u.moves || !(u.g.any fun r => (s.cur.readG r).expired))

/-- That slot as the instruction's own effect begins: mailbox sources consumed and the warnings `w` of its encoding set. -/
def State.begun (s : State) (i : Ins) (u : Uses) (w : BitVec 10) : Slot := s.cur.begin i u w

/-- The slot retires with `sl`, `len` bytes on or at `target` (R123, R126). -/
def State.retires (s : State) (sl : Slot) (len : Nat) (target : Option W64) : Res :=
  .next (s.retire s.turn.1 s.turn.2 sl len target)

/-- Where it executes, instruction `x` retires with the slot that `body` gives. -/
def State.acts (s : State) (x : Instr) (i : Ins) (u : Uses) (vec : Bool) (w : BitVec 10) (body : Slot → Slot) : Prop :=
  s.issues i u vec = true → exec x s = s.retires (body (s.begun i u w)) i.len none

/-- Where it executes, instruction `x` reads the g registers `us` and writes `v`, untagged, to its destination d. -/
def State.putsG (s : State) (x : Instr) (i : Ins) (us : List RegNo) (w : BitVec 10) (v : Slot → Nat) : Prop :=
  s.acts x i { g := us, dg := [i.d] } false w fun sl => sl.putG i.d (v sl)

/-- The warnings of an integer form (R87). -/
def intWarn (i : Ins) : BitVec 10 := warnA i.mod 0 false i.hasImm false

/-- Source a, and source b or the immediate, as TYPE reads them (R100, R101). -/
def srcX (i : Ins) (sl : Slot) : Int := intRead i.ty (sl.g64 i.a)
def srcY (i : Ins) (sl : Slot) : Int := intRead i.ty (srcB i sl)
/-- The same as raw n-bit values. -/
def rawX (i : Ins) (sl : Slot) : Nat := (sl.g64 i.a).toNat % 2 ^ intWidth i.ty
def rawY (i : Ins) (sl : Slot) : Nat := (srcB i sl).toNat % 2 ^ intWidth i.ty

/-- The bytes `bytes` of v[r] carry no expired mark. -/
def State.clean (s : State) (r : RegNo) (bytes : BitVec 64) : Bool := (s.cur.readV r).expired &&& bytes == 0

/-- The elements of width `w` that are active delivered in increasing order into v[d], each from the SEED that the one before it left;
the other elements keep their value (R34, R58, R174). -/
def vecDone (i : Ins) (w : Nat) (f : W64 → Nat → Rnd) (sl : Slot) : Slot :=
  let m := sl.laneMask i.pred
  let r := (activeElems m w).foldl (fun (l : Lanes) j => l.put w j (f l.seed j)) { v := 0, seed := sl.seed }
  (sl.afterRnd r.flags r.seed).putV i.d (activeBytes m w) r.v

/-- The bytes of the active elements of width `w` for an instruction of the slot whose turn it is. -/
def State.laneBytes (s : State) (i : Ins) (w : Nat) : BitVec 64 := activeBytes (s.cur.laneMask i.pred) w

/-- A vector instruction, which no predicate squashes, retires with the slot that `body` gives, where its v sources `us` carry no
expired mark in the bytes of active elements of width `w`. -/
def State.actsV (s : State) (x : Instr) (i : Ins) (u : Uses) (w : Nat) (warn : BitVec 10) (body : Slot → Slot) : Prop :=
  (u.v.all fun r => s.clean r (s.laneBytes i w)) = true → s.acts x i u true warn body

/-- Element `j` of v[a], and of v[b] or the immediate (R174). -/
def elA (i : Ins) (sl : Slot) (j : Nat) : Nat := vElem (sl.readV i.a).val (tyBytes i.ty) j
def elB (i : Ins) (sl : Slot) (j : Nat) : Nat :=
  if i.hasImm then vElem (vOfElems (tyBytes i.ty) (List.replicate (64 / tyBytes i.ty) (vecImm i))) (tyBytes i.ty) j
  else vElem (sl.readV i.b).val (tyBytes i.ty) j

/-- No deposit waits for a core (R37), for the one whose turn it is. -/
def State.stillAt (s : State) (c : Nat) : Bool := [0, 1, 2, 3].all fun l => (vget (s.core c).links l []).isEmpty
def State.still (s : State) : Bool := s.stillAt s.turn.1

/-- Nor does an acquire of the slot whose turn it is that has retired wait to return (R147). -/
def State.calm (s : State) : Bool := s.still && !acqOut s.accs s.turn.1 s.turn.2

/-- The same slot in a later state. -/
def State.then_ (s t : State) : Slot := t.slotAt s.turn.1 s.turn.2

/-- Slot `k` of core `c` has passed an instruction of `len` bytes (R123, R126). -/
def State.passedAt (s t : State) (c k len : Nat) : Prop :=
  (t.slotAt c k).pc = ((s.slotAt c k).advance len none).pc ∧ (t.slotAt c k).run = .running

/-- So has the slot whose turn it is. -/
def State.passed (s t : State) (len : Nat) : Prop := s.passedAt t s.turn.1 s.turn.2 len

/-- The slot has passed the instruction, and g[d] holds `v` untagged (R22); g0 holds nothing. -/
def State.gaveAt (s t : State) (c k len : Nat) (d : RegNo) (v : Nat) : Prop :=
  s.passedAt t c k len ∧ (d ≠ 0 → (t.slotAt c k).readG d = { val := BitVec.ofNat 128 v })

def State.gave (s t : State) (len : Nat) (d : RegNo) (v : Nat) : Prop := s.gaveAt t s.turn.1 s.turn.2 len d v

/-- The executing core in a later state. -/
def State.coreIn (s t : State) : Core := t.core s.turn.1

/-- Every part of the `n` bytes at `ea` lies in the executing core's own local memory, from offset `off`, and no earlier request of the
core to these bytes is still to perform (R316). -/
def State.ownBytes (s : State) (ea : W64) (n off : Nat) : Prop :=
  ∀ p ∈ splitLines ea 0 n, ownLocal s.turn.1 p.ea = some (off + p.off) ∧ s.ownAhead s.turn.1 (off + p.off) p.len = false

/-- Bytes `off` to `off + n` of the own local memory hold no uncorrectable error and no expired byte (R250, R253). -/
def State.sound (s : State) (off n : Nat) : Prop :=
  errIn s.errs (lmKey s.turn.1 off) n 8 true = false ∧ ∀ j < n, s.lmExpired s.turn.1 (off + j) = false

/-- No access under way bears the number that the next one takes. -/
def State.nextFree (s : State) : Prop := ∀ a ∈ s.accs, a.gid ≠ s.nextId

/-- Every byte outside `lo` to `lo + n` reads as before. -/
def State.keepsElse (s t : State) (lo n : Nat) : Prop := ∀ a, ¬(lo ≤ a ∧ a < lo + n) → memGet t.mem a = memGet s.mem a

/-- Of the registers below the mailboxes no other than `dg` and `dv` of the slot whose turn it is change, in no slot of its core; nor do
predicates, FPC, SEED, CLK, GEN, the horizon, DID, the PCC or the loop; and no other core changes. -/
def State.slotsKept (s t : State) (dg dv : List RegNo) : Prop :=
  (∀ c, c ≠ s.turn.1 → t.core c = s.core c) ∧ ∀ k < 4,
    let a := s.slotAt s.turn.1 k
    let b := t.slotAt s.turn.1 k
    (∀ r : RegNo, r.toNat < 56 → (k = s.turn.2 ∧ r ∈ dg) ∨ b.readG r = a.readG r) ∧
    (∀ r : RegNo, (k = s.turn.2 ∧ r ∈ dv) ∨ b.readV r = a.readV r) ∧
    b.p = a.p ∧ b.fpc = a.fpc ∧ b.seed = a.seed ∧ b.clk = a.clk ∧ b.gen = a.gen ∧ b.hzn = a.hzn ∧ b.did = a.did ∧
    b.pcc = a.pcc ∧ b.pccTag = a.pccTag ∧ (k ≠ s.turn.2 → b.loop = a.loop ∧ b.pc = a.pc ∧ b.run = a.run)

/-- A precise fault of the slot whose turn it is, and nothing else (R9). -/
def State.faults (s : State) (t : Trap) : Res := .next (s.preciseFault s.turn.1 s.turn.2 t)

/-- An engine holds job `j`, of which `P` is true now. -/
def State.jobNow (t : State) (eng : Nat) (j : Job) (P : Job → Prop) : Prop := ∃ q ∈ t.engineJobs eng, q.same j = true ∧ P q

/-- Copy job `j` of operation `op` with plan `p` moves on in cluster `cl`. -/
def State.copies (s : State) (cl op : Nat) (j : Job) (p : CopyPlan) : Prop :=
  s.current cl isCopyOp = some j ∧ cmdOp j.cmd = op ∧ s.dieRuns (s.physCluster cl / 512) = true ∧ j.running = true ∧ j.ended = none ∧
  isColl cl = false ∧ s.copyPlan j.cid j.cmd = some p

/-- Collective command `j` of operation `op`, at place `k` of S-die `sd`, runs. -/
def State.collects (s : State) (sd k op : Nat) (j : Job) : Prop :=
  s.collJob sd k = some j ∧ cmdOp j.cmd = op ∧ s.halted = false ∧ j.running = true ∧ j.ended = none

end Sys2Proof.Machine
end

