-- ==== Sys2Proof/WellFormed.lean ====
section
/-! DEFINITION. Which terms of the syntax stand for an encoded instruction: the check of step 7 of R85, by the rows of
Decode.lean. A device event has no encoding. -/
namespace Sys2Proof

/-- The fields are those that a row of the opcode tables admits for this very constructor. -/
def wellFormed (i : Instr) : Bool :=
  match encOf i with
  | some (.r op f) =>
    match findRow op rowsR with
    | some r => r.ok f && r.make f == some i
    | none => false
  | some (.i op f) =>
    match findRow op rowsI with
    | some r => r.ok f && r.make f == some i
    | none => false
  | some (.x op f) =>
    match findRow op rowsX with
    | some r => r.ok f && r.make f == some i
    | none => false
  | some (.l op f) =>
    match findRow op rowsL with
    | some r => r.ok f && r.make f == some i
    | none => false
  | none => false

end Sys2Proof
end

