-- ==== Sys2Proof/Certificates/Slice0/Obligations.lean ====
section
/-! DEFINITION. The statements for the provers. Where the spec says that an instruction executes normally is `State.issues` with
the conditions named beside it; what retiring does to the slot and its core is stated once, under Retirement. -/

open Sys2Proof Sys2Proof.Machine

/-! ## Integer instructions (R100 to R113) -/

/-- R104, R106: sums, differences, products, minima and maxima of the sources as TYPE reads them; the high half under `.hi`.

R22, R100: a result is the value modulo 2^n, extended to 64 bits by sign for a signed TYPE and by zeros for an unsigned one; a
source is read in the same way. -/
def Obligations.IntegerArithmeticResults : Prop :=
  (∀ s : State,
  (∀ f, s.putsG (.add f) (insR f) [f.a, f.b] (intWarn (insR f)) fun sl => intRes (insR f).ty (srcX (insR f) sl + srcY (insR f) sl)) ∧
  (∀ f, s.putsG (.addi f) (insIA f) [f.a] (intWarn (insIA f)) fun sl => intRes (insIA f).ty (srcX (insIA f) sl + srcY (insIA f) sl)) ∧
  (∀ f, s.putsG (.addiF96 f) (insX f) [f.a] (intWarn (insX f)) fun sl => intRes (insX f).ty (srcX (insX f) sl + srcY (insX f) sl)) ∧
  (∀ f, s.putsG (.addiF128 f) (insL f) [f.a] (intWarn (insL f)) fun sl => intRes (insL f).ty (srcX (insL f) sl + srcY (insL f) sl)) ∧
  (∀ f, s.putsG (.sub f) (insR f) [f.a, f.b] (intWarn (insR f)) fun sl => intRes (insR f).ty (srcX (insR f) sl - srcY (insR f) sl)) ∧
  (∀ f, s.putsG (.mul f) (insR f) [f.a, f.b] (intWarn (insR f)) fun sl =>
    intRes (insR f).ty (if f.mod.getLsbD 10 then srcX (insR f) sl * srcY (insR f) sl / 2 ^ intWidth (insR f).ty
      else srcX (insR f) sl * srcY (insR f) sl)) ∧
  (∀ f, s.putsG (.negR f) (insR f) [f.a] (intWarn (insR f)) fun sl => intRes (insR f).ty (-srcX (insR f) sl)) ∧
  (∀ f, s.putsG (.absR f) (insR f) [f.a] (intWarn (insR f)) fun sl => intRes (insR f).ty ((srcX (insR f) sl).natAbs : Int)) ∧
  (∀ f, s.putsG (.minR f) (insR f) [f.a, f.b] (intWarn (insR f)) fun sl => intRes (insR f).ty (min (srcX (insR f) sl) (srcY (insR f) sl))) ∧
  (∀ f, s.putsG (.minF96 f) (insX f) [f.a] (intWarn (insX f)) fun sl => intRes (insX f).ty (min (srcX (insX f) sl) (srcY (insX f) sl))) ∧
  (∀ f, s.putsG (.maxR f) (insR f) [f.a, f.b] (intWarn (insR f)) fun sl => intRes (insR f).ty (max (srcX (insR f) sl) (srcY (insR f) sl))) ∧
  (∀ f, s.putsG (.maxF96 f) (insX f) [f.a] (intWarn (insX f)) fun sl => intRes (insX f).ty (max (srcX (insX f) sl) (srcY (insX f) sl)))) ∧
  (∀ (t : Nat) (v : Int) (x : W64), t ≤ 8 →
  let n := intWidth t
  (n = 8 ∨ n = 16 ∨ n = 32 ∨ n = 64) ∧
  (intSigned t = true → intRes t v = ((BitVec.ofInt n v).signExtend 64).toNat ∧ intRead t x = (x.setWidth n).toInt) ∧
  (intSigned t = false → intRes t v = ((BitVec.ofInt n v).zeroExtend 64).toNat ∧ intRead t x = (x.setWidth n).toNat))

/-- R108: the logic instructions on the n-bit values of the sources; `~y` is the complement within n bits.

R109: shifts and rotates of the n-bit value by source b modulo n. -/
def Obligations.LogicAndShiftResults : Prop :=
  (∀ s : State,
  (∀ f, s.putsG (.andR f) (insR f) [f.a, f.b] (intWarn (insR f)) fun sl => intRes (insR f).ty ((rawX (insR f) sl &&& rawY (insR f) sl : Nat) : Int)) ∧
  (∀ f, s.putsG (.andF96 f) (insX f) [f.a] (intWarn (insX f)) fun sl => intRes (insX f).ty ((rawX (insX f) sl &&& rawY (insX f) sl : Nat) : Int)) ∧
  (∀ f, s.putsG (.orR f) (insR f) [f.a, f.b] (intWarn (insR f)) fun sl => intRes (insR f).ty ((rawX (insR f) sl ||| rawY (insR f) sl : Nat) : Int)) ∧
  (∀ f, s.putsG (.orF96 f) (insX f) [f.a] (intWarn (insX f)) fun sl => intRes (insX f).ty ((rawX (insX f) sl ||| rawY (insX f) sl : Nat) : Int)) ∧
  (∀ f, s.putsG (.xorR f) (insR f) [f.a, f.b] (intWarn (insR f)) fun sl => intRes (insR f).ty ((rawX (insR f) sl ^^^ rawY (insR f) sl : Nat) : Int)) ∧
  (∀ f, s.putsG (.xorF96 f) (insX f) [f.a] (intWarn (insX f)) fun sl => intRes (insX f).ty ((rawX (insX f) sl ^^^ rawY (insX f) sl : Nat) : Int)) ∧
  (∀ f, s.putsG (.andn f) (insR f) [f.a, f.b] (intWarn (insR f)) fun sl =>
    intRes (insR f).ty ((rawX (insR f) sl &&& (2 ^ intWidth (insR f).ty - 1 - rawY (insR f) sl) : Nat) : Int)) ∧
  (∀ f, s.putsG (.orn f) (insR f) [f.a, f.b] (intWarn (insR f)) fun sl =>
    intRes (insR f).ty ((rawX (insR f) sl ||| (2 ^ intWidth (insR f).ty - 1 - rawY (insR f) sl) : Nat) : Int))) ∧
  (∀ s : State,
  let shl (i : Ins) (sl : Slot) : Nat := intRes i.ty ((rawX i sl * 2 ^ (rawY i sl % intWidth i.ty) : Nat) : Int)
  let shr (i : Ins) (sl : Slot) : Nat := intRes i.ty ((rawX i sl / 2 ^ (rawY i sl % intWidth i.ty) : Nat) : Int)
  let sar (i : Ins) (sl : Slot) : Nat := intRes i.ty ((BitVec.ofNat (intWidth i.ty) (rawX i sl)).toInt / 2 ^ (rawY i sl % intWidth i.ty))
  let rol (i : Ins) (sl : Slot) : Nat :=
    intRes i.ty (((BitVec.ofNat (intWidth i.ty) (rawX i sl)).rotateLeft (rawY i sl % intWidth i.ty)).toNat : Int)
  let ror (i : Ins) (sl : Slot) : Nat :=
    intRes i.ty (((BitVec.ofNat (intWidth i.ty) (rawX i sl)).rotateRight (rawY i sl % intWidth i.ty)).toNat : Int)
  (∀ f, s.putsG (.shl f) (insR f) [f.a, f.b] (intWarn (insR f)) (shl (insR f))) ∧
  (∀ f, s.putsG (.shlF96 f) (insX f) [f.a] (intWarn (insX f)) (shl (insX f))) ∧
  (∀ f, s.putsG (.shr f) (insR f) [f.a, f.b] (intWarn (insR f)) (shr (insR f))) ∧
  (∀ f, s.putsG (.shrF96 f) (insX f) [f.a] (intWarn (insX f)) (shr (insX f))) ∧
  (∀ f, s.putsG (.sar f) (insR f) [f.a, f.b] (intWarn (insR f)) (sar (insR f))) ∧
  (∀ f, s.putsG (.sarF96 f) (insX f) [f.a] (intWarn (insX f)) (sar (insX f))) ∧
  (∀ f, s.putsG (.rol f) (insR f) [f.a, f.b] (intWarn (insR f)) (rol (insR f))) ∧
  (∀ f, s.putsG (.rolF96 f) (insX f) [f.a] (intWarn (insX f)) (rol (insX f))) ∧
  (∀ f, s.putsG (.ror f) (insR f) [f.a, f.b] (intWarn (insR f)) (ror (insR f))) ∧
  (∀ f, s.putsG (.rorF96 f) (insX f) [f.a] (intWarn (insX f)) (ror (insX f))))

/-- R110: the five instructions of opcode 0x17. The count of CLZ and of CTZ is the one number c for which c zero bits stand above
or below the outermost 1, and n for 0.

R111: the control word's field of `len` bits at `pos` extracted, or replaced. -/
def Obligations.BitCountAndFieldResults : Prop :=
  (∀ (s : State) (f : FR),
  let i := insR f
  let n := intWidth i.ty
  let u := rawX i (s.begun i { g := [f.a], dg := [f.d] } (intWarn i))
  (∃ c ≤ n, (∀ j < n, n - c ≤ j → u.testBit j = false) ∧ (c < n → u.testBit (n - 1 - c) = true) ∧
    s.putsG (.clz f) i [f.a] (intWarn i) fun _ => c) ∧
  (∃ c ≤ n, (∀ j < c, u.testBit j = false) ∧ (c < n → u.testBit c = true) ∧
    s.putsG (.ctz f) i [f.a] (intWarn i) fun _ => c) ∧
  s.putsG (.popc f) i [f.a] (intWarn i) (fun _ => ((List.range n).filter u.testBit).length) ∧
  (∃ r : Nat, r < 2 ^ n ∧ (∀ j < n, r.testBit j = u.testBit (n - 1 - j)) ∧ s.putsG (.brev f) i [f.a] (intWarn i) fun _ => intRes i.ty (r : Int)) ∧
  (∃ r : Nat, r < 2 ^ n ∧ (∀ j < n / 8, r / 256 ^ j % 256 = u / 256 ^ (n / 8 - 1 - j) % 256) ∧
    s.putsG (.bswap f) i [f.a] (intWarn i) fun _ => intRes i.ty (r : Int))) ∧
  (∀ (s : State) (f : FR),
  let i := insR f
  let pos (ctl : W64) : Nat := ctl.toNat % 64
  let len (ctl : W64) : Nat := min (min (ctl.toNat / 256 % 128) 64) (64 - pos ctl)
  s.putsG (.bfx f) i [f.a, f.b] (intWarn i) (fun sl =>
    let v := (sl.g64 f.a).toNat / 2 ^ pos (sl.g64 f.b) % 2 ^ len (sl.g64 f.b)
    if i.ty = 4 ∧ v.testBit (len (sl.g64 f.b) - 1) = true then v + 2 ^ 64 - 2 ^ len (sl.g64 f.b) else v) ∧
  ∃ r : Slot → W64,
    (∀ sl, ∀ j < 64, (r sl).getLsbD j =
      if pos (sl.g64 f.c) ≤ j ∧ j < pos (sl.g64 f.c) + len (sl.g64 f.c) then (sl.g64 f.b).getLsbD (j - pos (sl.g64 f.c))
      else (sl.g64 f.a).getLsbD j) ∧
    s.putsG (.bfi f) i [f.a, f.b, f.c] (intWarn i) (fun sl => (r sl).toNat))

/-- R105: ADDC and SUBB deliver the n-bit sum or difference with the carry or borrow of bit 0 of c, or under `.co` the carry or
borrow out; sources are read unsigned and the result is zero-extended.

R107: division truncates toward zero; a zero divisor gives all ones and the dividend and sets WARN.DIVZ; the one signed
overflow gives the dividend and 0. -/
def Obligations.CarryAndDivisionResults : Prop :=
  (∀ (s : State) (f : FR),
  let i := insR f
  let n := intWidth i.ty
  let rd (sl : Slot) (r : RegNo) : Nat := (sl.g64 r).toNat % 2 ^ n
  let cin (sl : Slot) : Nat := rd sl f.c % 2
  s.putsG (.addc f) i [f.a, f.b, f.c] (warnA i.mod 0 false false false) (fun sl =>
    let t := rd sl f.a + rd sl f.b + cin sl
    if f.mod.getLsbD 10 then t / 2 ^ n else t % 2 ^ n) ∧
  s.putsG (.subb f) i [f.a, f.b, f.c] (warnA i.mod 0 false false false) (fun sl =>
    if f.mod.getLsbD 10 then (if rd sl f.a < rd sl f.b + cin sl then 1 else 0)
    else (rd sl f.a + 2 ^ (n + 1) - rd sl f.b - cin sl) % 2 ^ n)) ∧
  (∀ (s : State) (f : FR),
  let i := insR f
  let n := intWidth i.ty
  let u : Uses := { g := [f.a, f.b], dg := [f.d] }
  let x := srcX i (s.begun i u (intWarn i))
  let y := srcY i (s.begun i u (intWarn i))
  (y = 0 →
    s.acts (.div f) i u false (intWarn i) (fun sl => (sl.addWarn wDIVZ).putG f.d (intRes i.ty (2 ^ n - 1))) ∧
    s.acts (.rem f) i u false (intWarn i) (fun sl => (sl.addWarn wDIVZ).putG f.d (intRes i.ty x))) ∧
  (y ≠ 0 → intSigned i.ty = true → x = -2 ^ (n - 1) → y = -1 →
    s.putsG (.div f) i [f.a, f.b] (intWarn i) (fun _ => intRes i.ty x) ∧
    s.putsG (.rem f) i [f.a, f.b] (intWarn i) (fun _ => 0)) ∧
  (y ≠ 0 → ¬(intSigned i.ty = true ∧ x = -2 ^ (n - 1) ∧ y = -1) → ∃ q r : Int,
    x = y * q + r ∧ r.natAbs < y.natAbs ∧ 0 ≤ x * r ∧
    s.putsG (.div f) i [f.a, f.b] (intWarn i) (fun _ => intRes i.ty q) ∧
    s.putsG (.rem f) i [f.a, f.b] (intWarn i) (fun _ => intRes i.ty r)))

/-- R112: CMP writes all ones or zero to p[d]; the condition alone fixes the signedness.

R113: MOV and SEL copy a whole register with its tag, and the mark of an expired value with it; LI writes its immediate by
R100 and R101. -/
def Obligations.CompareAndMoveResults : Prop :=
  (∀ s : State,
  let holds (i : Ins) (sl : Slot) : Prop :=
    let n := intWidth i.ty
    let ux := rawX i sl
    let uy := rawY i sl
    let sx := (BitVec.ofNat n ux).toInt
    let sy := (BitVec.ofNat n uy).toInt
    match i.sub.toNat with
    | 0 => ux = uy
    | 1 => ux ≠ uy
    | 2 => sx < sy
    | 3 => sx ≤ sy
    | 4 => sx > sy
    | 5 => sx ≥ sy
    | 6 => ux < uy
    | 7 => ux ≤ uy
    | 8 => ux > uy
    | 9 => ux ≥ uy
    | _ => ux &&& uy ≠ 0
  (∀ f, f.sub.toNat ≤ 10 → ∀ r : BitVec 16,
    (holds (insR f) (s.begun (insR f) { g := [f.a, f.b] } (intWarn (insR f))) → r = 0xFFFF) →
    (¬holds (insR f) (s.begun (insR f) { g := [f.a, f.b] } (intWarn (insR f))) → r = 0) →
    s.acts (.cmp f) (insR f) { g := [f.a, f.b] } false (intWarn (insR f)) fun sl => sl.writeP f.d.toNat r) ∧
  (∀ f, f.sub.toNat ≤ 10 → ∀ r : BitVec 16,
    (holds (insX f) (s.begun (insX f) { g := [f.a] } (intWarn (insX f))) → r = 0xFFFF) →
    (¬holds (insX f) (s.begun (insX f) { g := [f.a] } (intWarn (insX f))) → r = 0) →
    s.acts (.cmpF96 f) (insX f) { g := [f.a] } false (intWarn (insX f)) fun sl => sl.writeP f.d.toNat r)) ∧
  (∀ s : State,
  (∀ f, s.acts (.mov f) (insR f) { g := [f.a], dg := [f.d], moves := true } false (intWarn (insR f))
    fun sl => sl.writeG f.d (sl.readG f.a)) ∧
  (∀ f, s.acts (.sel f) (insR f) { g := [f.a, f.b], dg := [f.d], moves := true } false (intWarn (insR f))
    fun sl => sl.writeG f.d (if (sl.readP f.c.toNat).getLsbD 0 = true then sl.readG f.a else sl.readG f.b)) ∧
  (∀ f, s.putsG (.li f) (insIA f) [] (intWarn (insIA f)) fun _ => intRes (insIA f).ty (intRead (insIA f).ty (insIA f).imm64)) ∧
  (∀ f, s.putsG (.liF96 f) (insX f) [] (intWarn (insX f)) fun _ => intRes (insX f).ty (intRead (insX f).ty (insX f).imm64)) ∧
  (∀ f, s.putsG (.liF128 f) (insL f) [] (intWarn (insL f)) fun _ => intRes (insL f).ty (intRead (insL f).ty (insL f).imm64)))

/-! ## Capability instructions (R114 to R120) -/

/-- R117, R118, R120: CPERM, COFF, CSETA and CCLR copy a capability with one change each; CGET reads one field; CSUB compares. A tagged
source whose bounds decode otherwise at its new address loses its tag with WARN.CAPCLR.

R116, R119: CBOUND and CCHAN write a narrowed capability, tagged, where their checks pass.

R115, R116: the faults of CBOUND, in their order: TAG, KIND, MALFORMED, BOUNDS, INEXACT with the requested length. -/
def Obligations.CapabilityResults : Prop :=
  (∀ s : State,
  let perm (i : Ins) (m : W64) (sl : Slot) : Slot :=
    let x := sl.readG i.a
    sl.writeG i.d { val := setFld x.val 64 12 (capPerm x.val &&& m.extractLsb' 0 12).toNat, tag := x.tag }
  let move (i : Ins) (a : W64) (sl : Slot) : Slot :=
    let x := sl.readG i.a
    let n := capWithAddr x.val a
    let same := decide (capDecode n = capDecode x.val)
    (if x.tag && !same then sl.addWarn wCAPCLR else sl).writeG i.d { val := n, tag := x.tag && same }
  let ub (f : FR) : Uses := { g := [f.a, f.b], dg := [f.d] }
  (∀ f, s.acts (.cperm f) (insR f) (ub f) false 0 fun sl => perm (insR f) (sl.g64 f.b) sl) ∧
  (∀ f, s.acts (.cpermF96 f) (insX f) { g := [f.a], dg := [f.d] } false 0 fun sl => perm (insX f) (insX f).immZ sl) ∧
  (∀ f, s.acts (.coff f) (insR f) (ub f) false 0 fun sl => move (insR f) (sl.g64 f.a + sl.g64 f.b) sl) ∧
  (∀ f, s.acts (.coffF96 f) (insX f) { g := [f.a], dg := [f.d] } false 0 fun sl => move (insX f) (sl.g64 f.a + (insX f).immS) sl) ∧
  (∀ f, s.acts (.coffF128 f) (insL f) { g := [f.a], dg := [f.d] } false 0 fun sl => move (insL f) (sl.g64 f.a + (insL f).immS) sl) ∧
  (∀ f, s.acts (.cseta f) (insR f) (ub f) false 0 fun sl => move (insR f) (sl.g64 f.b) sl) ∧
  (∀ f, s.acts (.csetaF96 f) (insX f) { g := [f.a], dg := [f.d] } false 0 fun sl => move (insX f) (insX f).immS sl) ∧
  (∀ f, s.acts (.csetaF128 f) (insL f) { g := [f.a], dg := [f.d] } false 0 fun sl => move (insL f) (insL f).immS sl) ∧
  (∀ f, s.acts (.cclr f) (insR f) { g := [f.a], dg := [f.d] } false 0 fun sl =>
    sl.writeG f.d { val := (sl.readG f.a).val, tag := false }) ∧
  (∀ f, f.sub.toNat ≤ 5 → s.putsG (.cget f) (insR f) [f.a] 0 fun sl =>
    let x := sl.readG f.a
    match f.sub.toNat, capDecode x.val with
    | 0, _ => x.val.toNat % 2 ^ 64
    | 1, some (b, _) => b
    | 2, some (b, t) => if t - b = 2 ^ 64 then 0xFFFFFFFFFFFFFFFF else t - b
    | 3, _ => x.val.toNat / 2 ^ 64 % 2 ^ 12
    | 4, _ => x.val.toNat / 2 ^ 122 % 4
    | 5, _ => if x.tag then 1 else 0
    | _, _ => 0) ∧
  (∀ f, s.putsG (.csub f) (insR f) [f.a, f.b] 0 fun sl => if capSubset (sl.readG f.a) (sl.readG f.b) then 1 else 0)) ∧
  (∀ s : State,
  let ok (c : W128) (len : Nat) (round : Bool) (n : W128) : Prop :=
    ∃ pb pt nb nt, capDecode c = some (pb, pt) ∧ pb ≤ capAddr c ∧ capAddr c + len ≤ pt ∧
      ((capEncode (capAddr c) (capAddr c + len)).2.2.2 = true ∨ round = true) ∧
      n = capWithBounds c (capEncode (capAddr c) (capAddr c + len)).1 (capEncode (capAddr c) (capAddr c + len)).2.1
        (capEncode (capAddr c) (capAddr c + len)).2.2.1 ∧
      capDecode n = some (nb, nt) ∧ pb ≤ nb ∧ nt ≤ pt
  let usable (x : GReg) : Prop := x.tag = true ∧ x.val.toNat / 2 ^ 124 = 0 ∧ capKind x.val ≠ 3
  let chan (c : W128) (v : Nat) (n : W128) : Prop :=
    ∃ pb pt, capDecode c = some (pb, pt) ∧ v = v / 2 ^ 36 % 2 ^ 27 * 2 ^ 36 + v % 32 ∧ pb ≤ v ∧ v + 1 ≤ pt ∧
      n = capWithBounds (capWithAddr c (BitVec.ofNat 64 v)) (capEncode v (v + 1)).1 (capEncode v (v + 1)).2.1 (capEncode v (v + 1)).2.2.1
  let isChan (x : GReg) : Prop := x.tag = true ∧ x.val.toNat / 2 ^ 124 = 0 ∧ capKind x.val = 2
  (∀ f n, let u : Uses := { g := [f.a, f.b], dg := [f.d] }
    usable (s.cur.readG f.a) → ok (s.cur.readG f.a).val (s.cur.g64 f.b).toNat (f.mod.getLsbD 0) n →
    s.acts (.cbound f) (insR f) u false 0 fun sl => sl.writeG f.d { val := n, tag := true }) ∧
  (∀ f n, let u : Uses := { g := [f.a], dg := [f.d] }
    usable (s.cur.readG f.a) → ok (s.cur.readG f.a).val (insX f).immZ.toNat (f.mod.getLsbD 0) n →
    s.acts (.cboundF96 f) (insX f) u false 0 fun sl => sl.writeG f.d { val := n, tag := true }) ∧
  (∀ f n, let u : Uses := { g := [f.a, f.b], dg := [f.d] }
    isChan (s.cur.readG f.a) → chan (s.cur.readG f.a).val (s.cur.g64 f.b).toNat n →
    s.acts (.cchan f) (insR f) u false 0 fun sl => sl.writeG f.d { val := n, tag := true }) ∧
  (∀ f n, let u : Uses := { g := [f.a], dg := [f.d] }
    isChan (s.cur.readG f.a) →
    chan (s.cur.readG f.a).val (capAddr (s.cur.readG f.a).val / 32 * 32 + f.imm.toNat % 32) n →
    s.acts (.cchanF96 f) (insX f) u false 0 fun sl => sl.writeG f.d { val := n, tag := true })) ∧
  (∀ (s : State) (f : FR),
  let x := s.cur.readG f.a
  let len := s.cur.g64 f.b
  let stops (sub : Nat) (aux : W64) : Prop :=
    exec (.cbound f) s = s.faults { cause := cCAP_FAULT, sub := sub, reg := f.a.toNat, addr := s.cur.g64 f.a, aux := aux }
  s.issues (insR f) { g := [f.a, f.b], dg := [f.d] } false = true →
  (x.tag = false → stops 1 0) ∧
  (x.tag = true → (x.val.toNat / 2 ^ 124 ≠ 0 ∨ capKind x.val = 3) → stops 2 0) ∧
  (x.tag = true → x.val.toNat / 2 ^ 124 = 0 → capKind x.val ≠ 3 →
    (capDecode x.val = none → stops 5 0) ∧
    (∀ pb pt, capDecode x.val = some (pb, pt) →
      ((capAddr x.val < pb ∨ pt < capAddr x.val + len.toNat) → stops 4 0) ∧
      (pb ≤ capAddr x.val → capAddr x.val + len.toNat ≤ pt → f.mod.getLsbD 0 = false →
        (capEncode (capAddr x.val) (capAddr x.val + len.toNat)).2.2.2 = false → stops 7 len))))

/-- R116, R117, R119: no capability instruction widens. A tagged result decodes within its source's bounds and holds none of bits
[10:0] of PERM that its source lacks; the kind is kept. -/
def Obligations.CapabilitiesNeverWiden : Prop := ∀ (x : GReg) (n : W128),
  let within (y : W128) : Prop :=
    capPerm y &&& ~~~capPerm x.val = 0 ∧ capKind y = capKind x.val ∧
    ∀ pb pt nb nt, capDecode x.val = some (pb, pt) → capDecode y = some (nb, nt) → nb < nt → pb ≤ nb ∧ nt ≤ pt
  (∀ len r, cboundVal x.val len r = .ok n → within n) ∧
  (∀ v, v < 2 ^ 64 → cchanVal x v = .ok n → within n) ∧
  (∀ a : W64, capDecode (capWithAddr x.val a) = capDecode x.val → within (capWithAddr x.val a)) ∧
  (∀ m : BitVec 12, within (setFld x.val 64 12 (capPerm x.val &&& m).toNat))

/-- R29, R31: the encoding of bounds holds at least the bytes asked for: decoded with an address among them, and where they are
exact it decodes to them. -/
def Obligations.BoundsEncodingHoldsRequest : Prop := ∀ (c : W128) (base top : Nat),
  base ≤ top → top ≤ 2 ^ 64 → capAddr c = base →
  let r := capEncode base top
  ∀ b t, capDecode (capWithBounds c r.1 r.2.1 r.2.2.1) = some (b, t) →
    b ≤ base ∧ top ≤ t ∧ (r.2.2.2 = true → b = base ∧ t = top)

/-! ## Control instructions (R121 to R130) -/

/-- R124, R125, R130: NOP, the branches, calls and jumps. A jump checks its capability, which becomes PCC.

R125: a jump through a register that is untagged, of another kind than Memory, without EXEC, or not a multiple of 4, faults at
the instruction and writes nothing. -/
def Obligations.TransferResults : Prop :=
  (∀ s : State,
  let goTo (i : Ins) (sl : Slot) : W64 := sl.pc + i.immS * 4
  let present (r : RegNo) : Bool := s.cur.mbp.getLsbD (r.toNat - 56)
  let link (sl : Slot) (len : Nat) : W128 := capWithAddr sl.pcc (sl.pc + BitVec.ofNat 64 len)
  let linked (sl : Slot) (d : RegNo) (len : Nat) : Slot :=
    let keep := decide (capDecode (link sl len) = capDecode sl.pcc)
    (sl.addWarn (if keep then 0 else wCAPCLR)).writeG d { val := link sl len, tag := keep }
  let jumps (x : GReg) : Prop := x.tag = true ∧ x.val.toNat / 2 ^ 122 = 0 ∧ hasPerm x.val pEXEC = true ∧ x.val.toNat % 4 = 0
  (∀ f, s.acts (.nop f) (insR f) {} false 0 id) ∧
  (∀ f, s.acts (.nopF96 f) (insX f) {} false 0 id) ∧
  (∀ f, s.acts (.nopF128 f) (insL f) {} false 0 id) ∧
  (∀ f, s.issues (insI f) {} false = true →
    exec (.b f) s = s.retires (s.begun (insI f) {} 0) 8 (some (goTo (insI f) s.cur))) ∧
  (∀ f, s.issues (insX f) {} false = true →
    exec (.bF96 f) s = s.retires (s.begun (insX f) {} 0) 12 (some (goTo (insX f) s.cur))) ∧
  (∀ f, s.issues (insI f) {} false = true →
    exec (.bp f) s = s.retires (s.begun (insI f) {} 0) 8 (if present f.a ≠ f.mod.getLsbD 0 then some (goTo (insI f) s.cur) else none)) ∧
  (∀ f, s.issues (insX f) {} false = true →
    exec (.bpF96 f) s = s.retires (s.begun (insX f) {} 0) 12 (if present f.a ≠ f.mod.getLsbD 0 then some (goTo (insX f) s.cur) else none)) ∧
  (∀ f, let u : Uses := { dg := [1] }
    s.issues (insI f) u false = true →
    exec (.call f) s = s.retires (linked (s.begun (insI f) u 0) 1 8) 8 (some (goTo (insI f) s.cur))) ∧
  (∀ f, let u : Uses := { dg := [1] }
    s.issues (insX f) u false = true →
    exec (.callF96 f) s = s.retires (linked (s.begun (insX f) u 0) 1 12) 12 (some (goTo (insX f) s.cur))) ∧
  (∀ f, let u : Uses := { g := [f.a], dg := [f.d] }
    s.issues (insR f) u false = true → jumps (s.cur.readG f.a) →
    exec (.jmp f) s = s.retires { linked (s.begun (insR f) u 0) f.d 8 with pcc := (s.cur.readG f.a).val, pccTag := true } 8
      (some (s.cur.g64 f.a))) ∧
  (∀ f, let u : Uses := { g := [f.a], dg := [0] }
    s.issues (insR f) u false = true → jumps (s.cur.readG f.a) →
    exec (.ret f) s = s.retires { linked (s.begun (insR f) u 0) 0 8 with pcc := (s.cur.readG f.a).val, pccTag := true } 8
      (some (s.cur.g64 f.a)))) ∧
  (∀ (s : State) (f : FR),
  let x := s.cur.readG f.a
  let a := s.cur.g64 f.a
  let stops (t : Trap) : Prop := exec (.jmp f) s = s.faults t ∧ (f.d = 0 → exec (.ret f) s = s.faults t)
  s.issues (insR f) { g := [f.a], dg := [f.d] } false = true →
  (x.tag = false → stops { cause := cCAP_FAULT, sub := 1, reg := f.a.toNat, addr := a }) ∧
  (x.tag = true → x.val.toNat / 2 ^ 122 ≠ 0 → stops { cause := cCAP_FAULT, sub := 2, reg := f.a.toNat, addr := a }) ∧
  (x.tag = true → x.val.toNat / 2 ^ 122 = 0 → hasPerm x.val pEXEC = false →
    stops { cause := cCAP_FAULT, sub := 3, reg := f.a.toNat, addr := a }) ∧
  (x.tag = true → x.val.toNat / 2 ^ 122 = 0 → hasPerm x.val pEXEC = true → x.val.toNat % 4 ≠ 0 →
    stops { cause := cSTRADDLE, addr := a }))

/-- R126: LOOP starts a body that ends at its target, or passes it when the count is 0.

R128, R129: WAIT ends at once when a selected condition holds, with the set in g[d] and the latches that fired cleared; else its
slot sleeps. YIELD passes and lets its slot rest for 16 cycles. -/
def Obligations.LoopAndWaitResults : Prop :=
  (∀ s : State,
  let starts (x : Instr) (i : Ins) : Prop :=
    let u : Uses := { g := [i.a] }
    let sl := s.begun i u 0
    let goTo := s.cur.pc + i.immS * 4
    s.issues i u false = true →
    (s.cur.g64 i.a = 0 → exec x s = s.retires { sl with loop := { sl.loop with lact := false } } i.len (some goTo)) ∧
    (s.cur.g64 i.a ≠ 0 → exec x s = s.retires { sl with
      loop := { lact := true, lstart := s.cur.pc + BitVec.ofNat 64 i.len, lend := goTo, lcnt := s.cur.g64 i.a } } i.len none)
  (∀ f, starts (.loop f) (insI f)) ∧ (∀ f, starts (.loopF96 f) (insX f))) ∧
  (∀ (s : State) (f : FR),
  let i := insR f
  let u : Uses := { g := if f.sub.getLsbD 2 then [f.a] else [], dg := [f.d] }
  let conds := f.sub.toNat % 16
  let bit (n : Nat) (b : Bool) : Nat := if b && conds.testBit n then 2 ^ n else 0
  let fired := bit 0 s.cur.msgl + bit 1 s.cur.jobl + bit 2 (decide (s.cur.g64 f.a ≤ s.reft)) + bit 3 (decide ((s.begun i u 0).mbp ≠ 0))
  (s.issues i u false = true → fired ≠ 0 →
    exec (.wait f) s = s.retires ({ s.begun i u 0 with msgl := s.cur.msgl && !(conds.testBit 0)
                                                       jobl := s.cur.jobl && !(conds.testBit 1) }.putG f.d fired) 8 none) ∧
  (s.issues i u false = true → fired = 0 →
    exec (.wait f) s = .next (s.sleepSlot s.turn.1 s.turn.2
      { s.begun i u 0 with run := .sleeping (.wait f.d (BitVec.ofNat 4 conds) ((s.begun i u 0).g64 f.a)) })) ∧
  (s.issues i {} false = true → ∃ t, s.retires (s.begun i {} 0) 8 none = .next t ∧
    exec (.yield f) s = .next (t.modSlot s.turn.1 s.turn.2 fun x => { x with run := .sleeping (.yield (s.cycOf s.turn.1 + 16)) })))

/-! ## Retirement (R123, R126, R127, R37) -/

/-- R126, R127: what retiring does to its slot's PC and loop: a taken transfer goes to its target and ends the loop unless the target
lies from LSTART up to LEND; anything else goes on, or back to LSTART at LEND while passes remain.

What retiring changes: the slot, through deposits that waited mailbox registers of the core's slots (R37), and the counts of
R430. No other core changes, nor memory, nor any request's contents. -/
def Obligations.RetirementAdvancesAndFrame : Prop :=
  (∀ (sl : Slot) (len : Nat),
  let next := sl.pc + BitVec.ofNat 64 len
  (∀ t : W64, (sl.advance len (some t)).pc = t ∧
    (sl.advance len (some t)).loop.lact = (sl.loop.lact && decide (sl.loop.lstart ≤ t ∧ t < sl.loop.lend))) ∧
  ((sl.loop.lact = false ∨ next ≠ sl.loop.lend) → (sl.advance len none).pc = next ∧ (sl.advance len none).loop = sl.loop) ∧
  (sl.loop.lact = true → next = sl.loop.lend → 1 < sl.loop.lcnt.toNat →
    (sl.advance len none).pc = sl.loop.lstart ∧ (sl.advance len none).loop = { sl.loop with lcnt := sl.loop.lcnt - 1 }) ∧
  (sl.loop.lact = true → next = sl.loop.lend → sl.loop.lcnt.toNat ≤ 1 →
    (sl.advance len none).pc = next ∧ (sl.advance len none).loop.lact = false)) ∧
  (∀ (s : State) (sl : Slot) (len : Nat) (target : Option W64) (cid k : Nat), k < 4 →
  let t := s.retire cid k sl len target
  t.mem = s.mem ∧ t.tags = s.tags ∧ t.errs = s.errs ∧ t.agenda = s.agenda ∧ t.out = s.out ∧ t.ctxs = s.ctxs ∧ t.host = s.host ∧
  (∀ c, c ≠ cid → t.core c = s.core c) ∧
  (∀ j < 4, ∀ r : RegNo, r.toNat < 56 →
    (t.slotAt cid j).readG r = (if j = k then sl else s.slotAt cid j).readG r) ∧
  (∀ j < 4, (t.slotAt cid j).v = (if j = k then sl else s.slotAt cid j).v ∧
    (t.slotAt cid j).p = (if j = k then sl else s.slotAt cid j).p ∧
    (t.slotAt cid j).pc = (if j = k then (sl.advance len target).pc else (s.slotAt cid j).pc)) ∧
  ((∀ l < 4, vget (s.core cid).links l [] = []) → t.core cid = (s.core cid).setSlot k (sl.advance len target)) ∧
  t.reqs = s.reqs.map fun r => if r.isOf cid k then { r with retired := r.retired + 1 } else r)

/-! ## Scalar floating point (R165 to R173) -/

/-- R165 to R167: the arithmetic forms deliver one rounding of the exact result of their operands, with the flags that the operation
and the rounding raise and the SEED after it.

R168 to R173: the forms that select, compare, classify or convert. -/
def Obligations.FloatResults : Prop :=
  (∀ s : State,
  let rd (i : Ins) (sl : Slot) : Bool := sl.mode (mRm i.mod) == 3
  let x (i : Ins) (sl : Slot) : FVal := operandF i.ty sl.ftz (sl.g64 i.a).toNat
  let y (i : Ins) (sl : Slot) : FVal := operandF i.ty sl.ftz (fpB i sl)
  let z (i : Ins) (sl : Slot) : FVal := operandF i.ty sl.ftz (sl.g64 i.c).toNat
  let gives (c : Instr) (i : Ins) (us : List RegNo) (v : Slot → FVal × FFlags) : Prop :=
    s.acts c i { g := us, dg := [i.d] } false (warnFp i i.ty true) fun sl =>
      let r := roundF i.ty (sl.mode (mRm i.mod)) sl.ftz (mSat i.mod && satApplies i.ty) sl.seed (v sl).1
      { sl with fpc := sl.fpc ||| (r.flags ||| (v sl).2), seed := r.seed }.putG i.d r.bits
  (∀ f, let i := insR f; gives (.fadd f) i [f.a, f.b] fun sl => addF (rd i sl) (x i sl) (y i sl)) ∧
  (∀ f, let i := insX f; gives (.faddF96 f) i [f.a] fun sl => addF (rd i sl) (x i sl) (y i sl)) ∧
  (∀ f, let i := insL f; gives (.faddF128 f) i [f.a] fun sl => addF (rd i sl) (x i sl) (y i sl)) ∧
  (∀ f, let i := insR f; gives (.fsub f) i [f.a, f.b] fun sl => addF (rd i sl) (x i sl) ((y i sl).negate true)) ∧
  (∀ f, let i := insX f; gives (.fsubF96 f) i [f.a] fun sl => addF (rd i sl) (x i sl) ((y i sl).negate true)) ∧
  (∀ f, let i := insL f; gives (.fsubF128 f) i [f.a] fun sl => addF (rd i sl) (x i sl) ((y i sl).negate true)) ∧
  (∀ f, let i := insR f; gives (.fmul f) i [f.a, f.b] fun sl => mulF (x i sl) (y i sl)) ∧
  (∀ f, let i := insX f; gives (.fmulF96 f) i [f.a] fun sl => mulF (x i sl) (y i sl)) ∧
  (∀ f, let i := insL f; gives (.fmulF128 f) i [f.a] fun sl => mulF (x i sl) (y i sl)) ∧
  (∀ f, let i := insR f; gives (.fma f) i [f.a, f.b, f.c] fun sl =>
    fmaF (rd i sl) (f.sub.getLsbD 0) (f.sub.getLsbD 1) (x i sl) (y i sl) (z i sl)) ∧
  (∀ f, let i := insR f; gives (.fdiv f) i [f.a, f.b] fun sl => divF (x i sl) (y i sl)) ∧
  (∀ f, let i := insR f; gives (.fsqrt f) i [f.a] fun sl => sqrtF (x i sl)) ∧
  (∀ f, let i := insR f; gives (.itof f) i [f.a] fun sl =>
    let n := intRead (f.sub.toNat % 32) (sl.g64 f.a)
    (.fin (decide (n < 0)) n.natAbs 0 false, 0))) ∧
  (∀ s : State,
  let xb (i : Ins) (sl : Slot) : Nat := (sl.g64 i.a).toNat
  let minmax (c : Instr) (i : Ins) (us : List RegNo) (big : Bool) : Prop :=
    s.acts c i { g := us, dg := [i.d] } false (warnFp i i.ty false) fun sl =>
      let r := minMaxF i.ty big sl.ftz (xb i sl) (fpB i sl)
      { sl with fpc := sl.fpc ||| r.2 }.putG i.d r.1
  let cmp (c : Instr) (i : Ins) (us : List RegNo) : Prop :=
    s.acts c i { g := us } false (warnFp i 0 false) fun sl =>
      let r := cmpCondF i.ty (i.sub.toNat % 16) sl.ftz (xb i sl) (fpB i sl)
      { sl with fpc := sl.fpc ||| r.2 }.writeP i.d.toNat (if r.1 then 0xFFFF else 0)
  let rnd (c : Instr) (i : Ins) (r : Slot → Rnd) : Prop :=
    s.acts c i { g := [i.a], dg := [i.d] } false (warnFp i i.ty true) fun sl =>
      { sl with fpc := sl.fpc ||| (r sl).flags, seed := (r sl).seed }.putG i.d (r sl).bits
  (∀ f, minmax (.fmin f) (insR f) [f.a, f.b] false) ∧ (∀ f, minmax (.fminF96 f) (insX f) [f.a] false) ∧
  (∀ f, minmax (.fmax f) (insR f) [f.a, f.b] true) ∧ (∀ f, minmax (.fmaxF96 f) (insX f) [f.a] true) ∧
  (∀ f, s.putsG (.fsgn f) (insR f) [f.a, f.b] (warnFp (insR f) (insR f).ty false) fun sl =>
    sgnF (insR f).ty f.sub.toNat (sl.g64 f.a).toNat (sl.g64 f.b).toNat) ∧
  (∀ f, cmp (.fcmp f) (insR f) [f.a, f.b]) ∧ (∀ f, cmp (.fcmpF96 f) (insX f) [f.a]) ∧
  (∀ f, s.putsG (.fclass f) (insR f) [f.a] (warnFp (insR f) 0 false) fun sl => classF (insR f).ty (sl.g64 f.a).toNat) ∧
  (∀ f, rnd (.fcvt f) (insR f) fun sl =>
    convF (f.sub.toNat % 32) (insR f).ty (sl.mode (mRm f.mod)) sl.ftz (mSat f.mod && satApplies (insR f).ty) sl.seed (sl.g64 f.a).toNat) ∧
  (∀ f, rnd (.fround f) (insR f) fun sl =>
    roundIntF (insR f).ty (sl.mode (mRm f.mod)) sl.ftz (mSat f.mod && satApplies (insR f).ty) sl.seed (sl.g64 f.a).toNat) ∧
  (∀ f, s.acts (.ftoi f) (insR f) { g := [f.a], dg := [f.d] } false (warnA f.mod 0 true false true) fun sl =>
    let r := toIntF (intWidth (insR f).ty) (intSigned (insR f).ty) (sl.mode (mRm f.mod)) sl.seed
      (operandF (f.sub.toNat % 32) sl.ftz (sl.g64 f.a).toNat)
    { sl with fpc := sl.fpc ||| r.2.1, seed := r.2.2 }.putG f.d (intRes (insR f).ty r.1)))

/-- R56: a value that a format holds is delivered as its own code and raises nothing, whatever the mode. -/
def Obligations.RoundingKeepsRepresentable : Prop := ∀ (t mode x : Nat) (sat : Bool) (seed : W64),
  0x0A ≤ t → t ≤ 0x0F → x < 2 ^ (ffmt t).bits → (∃ neg m e, decodeF t x = .fin neg m e false) →
  let r := roundF t mode false sat seed (decodeF t x)
  r.bits = x ∧ r.flags = 0

/-- R56: RNE delivers a nearest value: no finite code of the format lies nearer to the exact one than the code delivered, unless that
one is the overflow's. -/
def Obligations.NearestRoundingIsNearest : Prop := ∀ (t m c : Nat) (e : Int) (neg sat : Bool) (seed : W64),
  0x0A ≤ t → t ≤ 0x0F → c < 2 ^ (ffmt t).bits →
  let r := roundF t 0 false sat seed (.fin neg m e false)
  r.flags &&& fOF = 0 →
  match decodeF t r.bits, decodeF t c with
  | .fin nr mr er _, .fin nc mc ec _ =>
    let e0 := min e (min er ec)
    (sigAt nr mr er e0 - sigAt neg m e e0).natAbs ≤ (sigAt nc mc ec e0 - sigAt neg m e e0).natAbs
  | .fin _ _ _ _, _ => True
  | _, _ => False

/-! ## Vectors (R174 to R188) -/

/-- R34, R174: of the elements of a vector result the active ones are delivered and the others keep their value.

R176: elementwise sums, differences, products, fused products, minima, maxima and sign copies. -/
def Obligations.VectorArithmeticResults : Prop :=
  (∀ (i : Ins) (w : Nat) (f : W64 → Nat → Rnd) (sl : Slot),
  (w = 1 ∨ w = 2 ∨ w = 4 ∨ w = 8) → i.d.toNat < 32 → ∀ j < 64 / w,
  let m := sl.laneMask i.pred
  let new := vElem ((vecDone i w f sl).readV i.d).val w j
  (laneOn m w j = false → new = vElem (sl.readV i.d).val w j) ∧
  (laneOn m w j = true → ∃ seed, new = (f seed j).bits % 2 ^ (8 * w))) ∧
  (∀ s : State,
  let int (i : Ins) (x : Nat) : Int := if i.ty ≤ 4 then (BitVec.ofNat (8 * tyBytes i.ty) x).toInt else x
  let wr (i : Ins) (v : Int) : Nat := (v % 2 ^ (8 * tyBytes i.ty)).toNat
  let fv (i : Ins) (sl : Slot) (x : Nat) : FVal := operandF i.ty sl.ftz x
  let rd (i : Ins) (sl : Slot) : Bool := sl.mode (mRm i.mod) == 3
  let arith (c : Instr) (i : Ins) (fi : Int → Int → Int) (ff : Bool → FVal → FVal → FVal × FFlags) : Prop :=
    s.actsV c i { v := vusesAB i, dv := [i.d] } (tyBytes i.ty) (warnV i (if tInt i.ty then 0 else i.ty) (!tInt i.ty)) fun sl =>
      vecDone i (tyBytes i.ty) (fun seed j =>
        if tInt i.ty then ⟨wr i (fi (int i (elA i sl j)) (int i (elB i sl j))), 0, seed⟩
        else deliverElem i sl seed (ff (rd i sl) (fv i sl (elA i sl j)) (fv i sl (elB i sl j)))) sl
  let minmax (c : Instr) (i : Ins) (big : Bool) : Prop :=
    s.actsV c i { v := vusesAB i, dv := [i.d] } (tyBytes i.ty) (warnV i (if tInt i.ty then 0 else i.ty) false) fun sl =>
      vecDone i (tyBytes i.ty) (fun seed j =>
        let x := elA i sl j
        let y := elB i sl j
        if tInt i.ty then
          ⟨wr i (if big then max (int i x) (int i y) else min (int i x) (int i y)), 0, seed⟩
        else ⟨(minMaxF i.ty big sl.ftz x y).1, (minMaxF i.ty big sl.ftz x y).2, seed⟩) sl
  let sub (b : Bool) (x y : FVal) : FVal × FFlags := addF b x (y.negate true)
  (∀ f, arith (.vadd f) (insR f) (· + ·) addF) ∧ (∀ f, arith (.vaddF96 f) (insX f) (· + ·) addF) ∧
  (∀ f, arith (.vsub f) (insR f) (· - ·) sub) ∧ (∀ f, arith (.vsubF96 f) (insX f) (· - ·) sub) ∧
  (∀ f, arith (.vmul f) (insR f) (· * ·) fun _ => mulF) ∧ (∀ f, arith (.vmulF96 f) (insX f) (· * ·) fun _ => mulF) ∧
  (∀ f, minmax (.vmin f) (insR f) false) ∧ (∀ f, minmax (.vminF96 f) (insX f) false) ∧
  (∀ f, minmax (.vmax f) (insR f) true) ∧ (∀ f, minmax (.vmaxF96 f) (insX f) true) ∧
  (∀ f, let i := insR f
    s.actsV (.vfma f) i { v := [f.a, f.b, f.c], dv := [f.d] } (tyBytes i.ty) (warnV i i.ty true) fun sl =>
      vecDone i (tyBytes i.ty) (fun seed j => deliverElem i sl seed (fmaF (rd i sl) (f.sub.getLsbD 0) (f.sub.getLsbD 1)
        (fv i sl (elA i sl j)) (fv i sl (elB i sl j)) (fv i sl (vElem (sl.readV f.c).val (tyBytes i.ty) j)))) sl) ∧
  (∀ f, let i := insR f
    s.actsV (.vsgn f) i { v := [f.a, f.b], dv := [f.d] } (tyBytes i.ty) (warnV i (if tInt i.ty then 0 else i.ty) false) fun sl =>
      vecDone i (tyBytes i.ty) (fun seed j => ⟨sgnF i.ty f.sub.toNat (elA i sl j) (elB i sl j), 0, seed⟩) sl))

/-- R176: elementwise logic, and shifts by the low bits of source b's element.

R177: VCMP writes a predicate: a bit that governs active elements says whether all of them meet the condition; any other bit keeps
its value.

R178 to R180: the forms that copy elements: VSEL, VMOV, VBCAST, VPERM, VLUT, VEXT and VINS. Copies take expired marks with them;
VPERM and VLUT read only the elements that their indexes name. -/
def Obligations.VectorLogicCompareMoveResults : Prop :=
  (∀ s : State,
  let bits (c : Instr) (i : Ins) (g : Nat → Nat → Nat → Nat) : Prop :=
    s.actsV c i { v := vusesAB i, dv := [i.d] } (tyBytes i.ty) (warnV i (if tInt i.ty then 0 else i.ty) false) fun sl =>
      vecDone i (tyBytes i.ty) (fun seed j => ⟨g (8 * tyBytes i.ty) (elA i sl j) (elB i sl j), 0, seed⟩) sl
  let both (a : FR → Instr) (b : FX → Instr) (g : Nat → Nat → Nat → Nat) : Prop :=
    (∀ f, bits (a f) (insR f) g) ∧ ∀ f, bits (b f) (insX f) g
  both .vand .vandF96 (fun _ x y => x &&& y) ∧ both .vor .vorF96 (fun _ x y => x ||| y) ∧ both .vxor .vxorF96 (fun _ x y => x ^^^ y) ∧
  both .vshl .vshlF96 (fun n x y => x * 2 ^ (y % n) % 2 ^ n) ∧ both .vshr .vshrF96 (fun n x y => x / 2 ^ (y % n)) ∧
  both .vsar .vsarF96 (fun n x y => ((BitVec.ofNat n x).toInt / 2 ^ (y % n) % 2 ^ n).toNat)) ∧
  (∀ s : State,
  let cmp (c : Instr) (i : Ins) : Prop :=
    let w := tyBytes i.ty
    let sl0 := s.begun i { v := vusesAB i } (warnV i 0 false)
    let m := sl0.laneMask i.pred
    let holds (j : Nat) : Bool := (vcmpElem i sl0 (elA i sl0 j) (elB i sl0 j)).1
    let fl := (activeElems m w).foldl (fun fl j => fl ||| (vcmpElem i sl0 (elA i sl0 j) (elB i sl0 j)).2) 0
    ∃ p : BitVec 16,
      (∀ n < 16, p.getLsbD n =
        if (governed w n).any (laneOn m w) then (governed w n).all (fun j => !laneOn m w j || holds j)
        else (sl0.readP i.d.toNat).getLsbD n) ∧
      s.actsV c i { v := vusesAB i } w (warnV i 0 false) fun sl => { sl with fpc := sl.fpc ||| fl }.writeP i.d.toNat p
  (∀ f, tAny (insR f).ty = true → cmp (.vcmp f) (insR f)) ∧ (∀ f, tAny (insX f).ty = true → cmp (.vcmpF96 f) (insX f))) ∧
  (∀ s : State,
  let w (f : FR) : Nat := tyBytes (insR f).ty
  let gathered (i : Ins) (wd : Nat) (src : Slot → Nat → Nat) (sl : Slot) : Slot :=
    let m := sl.laneMask i.pred
    sl.putV i.d (activeBytes m wd) ((activeElems m wd).foldl (fun v j => vSetElem v wd j (src sl j)) 0)
  let bcast (c : Instr) (i : Ins) : Prop :=
    s.acts c i { g := if i.a = 0 then [] else [i.a], dv := [i.d] } true
      (warnA i.mod (if tInt i.ty then 0 else i.ty) false true (!tInt i.ty) ||| (if i.a == 0 && !tInt i.ty then i.immFp.2 else 0)) fun sl =>
      let x := if i.a = 0 then vecImm i else (sl.readG i.a).val.toNat % 2 ^ (8 * tyBytes i.ty)
      sl.putV i.d (activeBytes (sl.laneMask i.pred) (tyBytes i.ty)) (vOfElems (tyBytes i.ty) (List.replicate (64 / tyBytes i.ty) x))
  (∀ f, s.acts (.vsel f) (insR f) { v := [f.a, f.b], dv := [f.d] } true (warnV (insR f) (insR f).ty false) fun sl =>
    let sel := activeBytes (sl.readP f.c.toNat) (w f)
    sl.copyV f.d (activeBytes (sl.laneMask f.pred) (w f)) (mergeBytes (sl.readV f.b).val (sl.readV f.a).val sel)
      (((sl.readV f.a).expired &&& sel) ||| ((sl.readV f.b).expired &&& ~~~sel))) ∧
  (∀ f, s.acts (.vmov f) (insR f) { v := [f.a], dv := [f.d] } true (warnV (insR f) (insR f).ty false) fun sl =>
    sl.copyV f.d (activeBytes (sl.laneMask f.pred) (w f)) (sl.readV f.a).val (sl.readV f.a).expired) ∧
  (∀ f, bcast (.vbcast f) (insIA f)) ∧ (∀ f, bcast (.vbcastF96 f) (insX f)) ∧ (∀ f, bcast (.vbcastF128 f) (insL f)) ∧
  (∀ f, (s.cur.readV f.a).expired = 0 → (s.cur.readV f.b).expired = 0 → (s.cur.readV f.c).expired = 0 →
    s.acts (.vperm f) (insR f) { v := [f.a, f.b, f.c], dv := [f.d] } true (warnV (insR f) (insR f).ty false)
      (gathered (insR f) (w f) fun sl j =>
        let k := vElem (sl.readV f.c).val (w f) j % (2 * (64 / w f))
        if k < 64 / w f then vElem (sl.readV f.a).val (w f) k else vElem (sl.readV f.b).val (w f) (k - 64 / w f))) ∧
  (∀ f, (s.cur.readV f.a).expired = 0 → (s.cur.readV f.b).expired = 0 →
    s.acts (.vlut f) (insR f) { v := [f.a, f.b], dv := [f.d] } true (warnV (insR f) (insR f).ty false)
      (gathered (insR f) (w f) fun sl j => vElem (sl.readV f.b).val (w f) ((sl.readV f.a).val.toNat / 16 ^ j % 16))) ∧
  (∀ f, (s.cur.readV f.a).expired = 0 →
    s.acts (.vext f) (insR f) { g := [f.b], v := [f.a], dg := [f.d] } true
      (warnV (insR f) (if tInt (insR f).ty then 0 else (insR f).ty) false) fun sl =>
      let k := (sl.g64 f.b).toNat % (64 / w f)
      let e := vElem (sl.readV f.a).val (w f) k
      if laneOn (sl.laneMask f.pred) (w f) k then sl.putG f.d (if tInt (insR f).ty then intRes (insR f).ty e else e) else sl) ∧
  (∀ f, s.acts (.vins f) (insR f) { g := [f.a, f.b], dv := [f.d] } true (warnV (insR f) (insR f).ty false) fun sl =>
      let k := (sl.g64 f.b).toNat % (64 / w f)
      if laneOn (sl.laneMask f.pred) (w f) k then
        sl.putV f.d (byteMask (w f * k) (w f)) (vSetElem 0 (w f) k ((sl.readG f.a).val.toNat % 2 ^ (8 * w f)))
      else sl))

/-- R66 to R68, R186 to R188: reductions, scans and dot products. Integer reductions give the sum, the minimum, the maximum or the
bitwise combination of the active elements, or the operation's identity when none is active; a floating one combines neighbours
in a tree. -/
def Obligations.ReductionResults : Prop := ∀ s : State,
  let sg (t x : Nat) : Int := if t ≤ 4 then (BitVec.ofNat (8 * tyBytes t) x).toInt else x
  (∀ f : FR, let i := insR f
    let el := f.sub.toNat % 32
    let op := f.sub.toNat / 32
    let w := tyBytes el
    let act (sl : Slot) : List Nat := (activeElems (sl.laneMask f.pred) w).map (vElem (sl.readV f.a).val w)
    let warn := warnA i.mod (if tInt i.ty then 0 else i.ty) (!tInt el) false true
    let gives (v : Slot → Nat) : Prop := s.acts (.vred f) i { v := [f.a], dg := [f.d] } true warn fun sl => sl.putG f.d (v sl)
    s.clean f.a (s.laneBytes i w) = true → vredOk f.sub f.mod = true →
    (tInt el = true → op = 0 → gives fun sl => intRes i.ty ((act sl).map Int.ofNat).sum) ∧
    (tInt el = true → op = 3 → gives fun sl => intRes i.ty ((act sl).foldl (· &&& ·) (2 ^ (8 * w) - 1) : Nat)) ∧
    (tInt el = true → op = 4 → gives fun sl => intRes i.ty ((act sl).foldl (· ||| ·) 0 : Nat)) ∧
    (tInt el = true → op = 5 → gives fun sl => intRes i.ty ((act sl).foldl (· ^^^ ·) 0 : Nat)) ∧
    (tInt el = true → op = 1 → gives fun sl => intRes i.ty (((act sl).map (sg el)).foldl min
      (if el ≤ 4 then 2 ^ (8 * w - 1) - 1 else 2 ^ (8 * w) - 1))) ∧
    (tInt el = true → op = 2 → gives fun sl => intRes i.ty (((act sl).map (sg el)).foldl max
      (if el ≤ 4 then -2 ^ (8 * w - 1) else 0))) ∧
    (tInt el = false → s.acts (.vred f) i { v := [f.a], dg := [f.d] } true warn fun sl =>
      let leaves := (List.range (64 / w)).map fun j =>
        if laneOn (sl.laneMask f.pred) w j then some (redLeaf i sl el (vElem (sl.readV f.a).val w j)) else none
      let fl0 := leaves.foldl (fun fl l => match l with
        | some p => fl ||| p.2
        | none => fl) 0
      let r := redTree i sl op el (lanesLog w) (leaves.map (Option.map (·.1))) fl0 sl.seed
      { sl with fpc := sl.fpc ||| r.2.1, seed := r.2.2 }.putG f.d (r.1.getD (redIdentity op el i.ty)))) ∧
  (∀ f : FR, let i := insR f
    let w := tyBytes i.ty
    s.actsV (.vscan f) i { v := [f.a], dv := [f.d] } w (warnA i.mod (if tInt i.ty then 0 else i.ty) (!tInt i.ty) false (!tInt i.ty)) fun sl =>
      let m := sl.laneMask f.pred
      let r := (activeElems m w).foldl (fun (p : Lanes × Option Nat) j =>
        let e := elA i sl j
        let r := match p.2 with
          | none => ⟨if tInt i.ty then e else flushCode i.ty sl.ftz e, 0, p.1.seed⟩
          | some acc => redNode i sl (f.sub.toNat / 32) i.ty p.1.seed acc e
        (p.1.put w j r, some r.bits)) ({ v := 0, seed := sl.seed }, none)
      (sl.afterRnd r.1.flags r.1.seed).putV f.d (activeBytes m w) r.1.v) ∧
  (∀ f : FR, let i := insR f
    let w := tyBytes i.ty
    tInt i.ty = true →
    s.actsV (.vdot f) i { v := [f.a, f.b, f.c], dv := [f.d] } 4 (warnA i.mod 0 false false false) fun sl =>
      vecDone i 4 (fun seed j =>
        let es := (List.range (4 / w)).map (· + j * (4 / w))
        ⟨((es.map fun e => sg i.ty (elA i sl e) * sg i.ty (elB i sl e)).sum + sg 3 (vElem (sl.readV f.c).val 4 j)) % 2 ^ 32
          |>.toNat, 0, seed⟩) sl) ∧
  (∀ f : FR, let i := insR f
    tInt i.ty = false →
    s.actsV (.vdot f) i { v := [f.a, f.b, f.c], dv := [f.d] } 4 (warnA i.mod 0x0B true false true) fun sl =>
      vecDone i 4 (vdotLane i sl (sl.readV f.a).val (sl.readV f.b).val (sl.readV f.c).val) sl)

/-- R181 to R183: conversions between element types, and to and from the block formats.

R184, R185: the approximations deliver each active element. The code is the device's own (log entry 3) where it lies within the stated
bound of the exact result, else the rounded exact result; `.sat` turns an overflow into the largest finite value. -/
def Obligations.VectorConversionResults : Prop :=
  (∀ s : State,
  let plain (c : Instr) (i : Ins) : Prop :=
    let src := i.sub.toNat % 32
    let dst := i.ty
    let ps (sl : Slot) : List (Nat × Nat) :=
      (cvtPairs src dst (i.sub.toNat / 32)).filter fun p => laneOn (sl.laneMask i.pred) (tyBytes dst) p.2
    (s.cur.readV i.a).expired = 0 →
    s.acts c i { v := [i.a], dv := [i.d] } true (warnA i.mod (if tInt dst then 0 else dst) (!(tInt src && tInt dst)) false true) fun sl =>
      let r := (ps sl).foldl (fun (l : Lanes) p =>
        l.put (tyBytes dst) p.2 (cvtElem i sl src dst l.seed (vElem (sl.readV i.a).val (tyBytes src) p.1))) { v := 0, seed := sl.seed }
      (sl.afterRnd r.flags r.seed).putV i.d ((ps sl).foldl (fun b p => b ||| byteMask (tyBytes dst * p.2) (tyBytes dst)) 0) r.v
  let quant (c : Instr) (i : Ins) : Prop :=
    let src := i.sub.toNat % 32
    let us := if src = 0x0B then [i.a, i.b] else [i.a]
    tFp32 src = true → (us.all fun r => (s.cur.readV r).expired == 0) = true → s.laneBytes i (tyBytes src) ≠ 0 →
    s.acts c i { v := us, dv := [i.d] } true 0 fun sl =>
      let r := quantise i.ty (mSat i.mod) (quantElems src (sl.laneMask i.pred) sl.ftz (sl.readV i.a).val (sl.readV i.b).val)
      ((sl.addWarn (warnBlock sl i.mod ||| (if mZ i.mod then wMODIGN else 0))).addFlags r.2).putV i.d (BitVec.allOnes 64) (ofBytes 512 r.1)
  let deq (c : Instr) (i : Ins) : Prop :=
    let blk := i.sub.toNat % 32
    let v (sl : Slot) (j : Nat) : FVal := decodeBlock blk (bytesOf (sl.readV i.a).val 64) j
    let half (sl : Slot) (k : Nat) (l : Lanes) : Lanes := (activeElems (sl.laneMask i.pred) 4).foldl (fun (l : Lanes) j =>
      let r := roundF 0x0B 0 false false 0 (v sl (j + k))
      l.put 4 j ⟨r.bits, r.flags &&& fOF, l.seed⟩) l
    (s.cur.readV i.a).expired = 0 →
    (i.ty ≠ 0x0B → s.acts c i { v := [i.a], dv := [i.d] } true (warnA i.mod i.ty true false true) fun sl =>
      let r := (activeElems (sl.laneMask i.pred) 2).foldl (fun (l : Lanes) j =>
        l.put 2 j (roundF i.ty (sl.mode (mRm i.mod)) sl.ftz (mSat i.mod) l.seed (v sl j))) { v := 0, seed := sl.seed }
      (sl.afterRnd r.flags r.seed).putV i.d (activeBytes (sl.laneMask i.pred) (tyBytes i.ty)) r.v) ∧
    (i.ty = 0x0B → s.acts c i { v := [i.a], dv := [i.d, i.d + 1] } true (warnA i.mod i.ty true false true) fun sl =>
      let l1 := half sl 0 { v := 0, seed := sl.seed }
      let l2 := half sl 16 { v := 0, flags := l1.flags, seed := l1.seed }
      let ab := activeBytes (sl.laneMask i.pred) 4
      ((sl.addFlags l2.flags).putV i.d ab l1.v).putV (i.d + 1) ab l2.v)
  (∀ f, let i := insR f; isBlock i.ty = false → isBlock (f.sub.toNat % 32) = false → plain (.vcvt f) i) ∧
  (∀ f, let i := insR f; isBlock i.ty = true → quant (.vcvt f) i) ∧
  (∀ f, let i := insR f; isBlock i.ty = false → isBlock (f.sub.toNat % 32) = true → tFp32 i.ty = true → deq (.vcvt f) i) ∧
  (∀ f, quant (.vquant f) (insR f)) ∧
  (∀ f, let i := insR f; tFp32 i.ty = true → deq (.vdeq f) i)) ∧
  (∀ s : State,
  let gives (c : Instr) (i : Ins) (g : Nat → Nat → RMode → Bool → W64 → Rnd) : Prop :=
    s.actsV c i { v := [i.a], dv := [i.d] } (tyBytes i.ty) (warnV i i.ty true) fun sl =>
      vecDone i (tyBytes i.ty) (fun seed j =>
        let r := g i.ty (elA i sl j) (sl.mode (mRm i.mod)) sl.ftz seed
        if mSat i.mod && satApplies i.ty && r.flags &&& fOF != 0 then
          { r with bits := r.bits / signBit i.ty * signBit i.ty + maxCode i.ty } else r) sl
  (∀ f, gives (.vexp2 f) (insR f) exp2Elem) ∧ (∀ f, gives (.vlog2 f) (insR f) log2Elem) ∧
  (∀ f, gives (.vrcp f) (insR f) rcpElem) ∧ (∀ f, gives (.vrsq f) (insR f) rsqElem) ∧
  (∀ (op t x mode n : Nat) (seed : W64) (z : Encl) (u : Int), 0x0B ≤ t → t ≤ 0x0D →
    let r := deliverApprox op t x mode false seed z n u
    r.flags &&& fOF = 0 →
    fNX &&& ~~~r.flags = 0 ∧ (within t r.bits z n u = true ∨ r.bits = (roundF t mode false false seed (.fin z.neg z.m z.e true)).bits)) ∧
  (∀ (t : Nat) (mode : RMode) (ftz : Bool) (seed : W64), 0x0B ≤ t → t ≤ 0x0D →
    (rcpElem t (nanCode t) mode ftz seed).bits = nanCode t ∧ (rcpElem t 0 mode ftz seed).bits = infCode t ∧
    (rcpElem t 0 mode ftz seed).flags = fDZ ∧ (rsqElem t (signBit t) mode ftz seed).bits = infCode t + signBit t ∧
    (log2Elem t 0 mode ftz seed).bits = infCode t + signBit t ∧ (exp2Elem t (infCode t + signBit t) mode ftz seed).bits = 0))

/-! ## Loads and stores (R132 to R151) -/

/-- R144, R149 to R151: plain loads from the own local memory complete at once. A g register takes the little-endian value, extended
by its TYPE; LDC takes the granule's tag where the capability has LDCAP; a v register takes 64 bytes, or its active elements.
Memory does not change. -/
def Obligations.LocalLoadResults : Prop := ∀ s : State, s.calm = true → s.nextFree →
  let from_ (x : Instr) (i : Ins) (u : Uses) (n align : Nat) (P : Slot → Nat → Prop) : Prop :=
    ∀ raw ea off, s.issues i u false = true → mOrd i.mod = 0 →
      memCheck s s.turn.1 s.cur i.a (memOff i s.cur) n pLD align false = .ok (raw, ea) →
      s.ownBytes ea n off → s.sound off n →
      ∃ t, exec x s = .next t ∧ s.passed t i.len ∧ s.slotsKept t u.dg u.dv ∧ t.mem = s.mem ∧ t.tags = s.tags ∧ P (s.then_ t) off
  let gets (i : Ins) (n : Nat) (sl : Slot) (off : Nat) : Prop :=
    i.d ≠ 0 → sl.readG i.d = { val := loadValue (BitVec.ofNat 5 i.ty) n (s.natAt (lmKey s.turn.1 off) n) }
  let getsCap (i : Ins) (sl : Slot) (off : Nat) : Prop :=
    i.d ≠ 0 → sl.readG i.d = { val := BitVec.ofNat 128 (s.natAt (lmKey s.turn.1 off) 16)
                               tag := hasPerm (s.cur.readG i.a).val pLDCAP && s.tagAt (lmKey s.turn.1 off) }
  let getsV (i : Ins) (sl : Slot) (off : Nat) : Prop :=
    i.d.toNat < 32 → sl.readV i.d = { val := BitVec.ofNat 512 (s.natAt (lmKey s.turn.1 off) 64) }
  (∀ f, from_ (.ld f) (insR f) { g := [f.a, f.b], dg := [f.d] } (memSize (insR f).ty) 1 (gets (insR f) (memSize (insR f).ty))) ∧
  (∀ f, from_ (.ldF96 f) (insX f) { g := [f.a], dg := [f.d] } (memSize (insX f).ty) 1 (gets (insX f) (memSize (insX f).ty))) ∧
  (∀ f, from_ (.ldc f) (insR f) { g := [f.a, f.b], dg := [f.d] } 16 16 (getsCap (insR f))) ∧
  (∀ f, from_ (.ldcF96 f) (insX f) { g := [f.a], dg := [f.d] } 16 16 (getsCap (insX f))) ∧
  (∀ f, from_ (.ldv f) (insR f) { g := [f.a, f.b], dv := [f.d] } 64 1 (getsV (insR f))) ∧
  (∀ f, from_ (.ldvF96 f) (insX f) { g := [f.a], dv := [f.d] } 64 1 (getsV (insX f)))

/-- R145, R149, R150: plain stores to the own local memory write their bytes, little-endian, and no other byte; ST and STV clear the tags
of the granules they touch, STC sets its granule's tag to that of its register.

R151: LDVG and STVS read and write their active elements at the addresses that the index elements name; the highest element's bytes
are final where elements overlap. -/
def Obligations.LocalStoreResults : Prop :=
  (∀ s : State, s.calm = true → s.nextFree → memWf s.mem = true →
  let goTo (x : Instr) (i : Ins) (u : Uses) (n align : Nat) (data : Nat) (tag : Bool) : Prop :=
    ∀ raw ea off, s.issues i u false = true → mOrd i.mod = 0 →
      memCheck s s.turn.1 s.cur i.a (memOff i s.cur) n pST align true = .ok (raw, ea) →
      s.ownBytes ea n off →
      ∃ t, exec x s = .next t ∧ s.passed t i.len ∧ s.slotsKept t [] [] ∧ s.keepsElse t (lmKey s.turn.1 off) n ∧
        t.natAt (lmKey s.turn.1 off) n = data % 2 ^ (8 * n) ∧
        ∀ g, (lmKey s.turn.1 off / 16 ≤ g ∧ g ≤ (lmKey s.turn.1 off + n - 1) / 16) → s.tags.Pairwise (· < ·) → (g ∈ t.tags ↔ tag = true)
  let capOk (i : Ins) : Prop :=
    (s.cur.readG i.d).tag = true → hasPerm (s.cur.readG i.a).val pSTCAP = true
  (∀ f, goTo (.st f) (insR f) { g := [f.d, f.a, f.b] } (memSize (insR f).ty) 1 (s.cur.readG f.d).val.toNat false) ∧
  (∀ f, goTo (.stF96 f) (insX f) { g := [f.d, f.a] } (memSize (insX f).ty) 1 (s.cur.readG f.d).val.toNat false) ∧
  (∀ f, capOk (insR f) → goTo (.stc f) (insR f) { g := [f.d, f.a, f.b] } 16 16 (s.cur.readG f.d).val.toNat (s.cur.readG f.d).tag) ∧
  (∀ f, capOk (insX f) → goTo (.stcF96 f) (insX f) { g := [f.d, f.a] } 16 16 (s.cur.readG f.d).val.toNat (s.cur.readG f.d).tag) ∧
  (∀ f, (s.cur.readV f.d).expired = 0 → goTo (.stv f) (insR f) { g := [f.a, f.b], v := [f.d] } 64 1 (s.cur.readV f.d).val.toNat false) ∧
  (∀ f, (s.cur.readV f.d).expired = 0 → goTo (.stvF96 f) (insX f) { g := [f.a], v := [f.d] } 64 1 (s.cur.readV f.d).val.toNat false)) ∧
  (∀ (s : State) (f : FR), s.calm = true → s.nextFree → memWf s.mem = true →
  let i := insR f
  let w := tyBytes i.ty
  let act (j : Nat) : Prop := j < 64 / w ∧ laneOn (s.cur.readP (f.c.toNat % 8)) w j = true
  let place (perm : BitVec 12) (store : Bool) (off : Nat → Nat) : Prop := ∀ j, act j →
    ∃ raw ea, memCheck s s.turn.1 s.cur f.a (BitVec.ofInt 64 (sextN (8 * w) (vElem (s.cur.readV f.b).val w j))) w perm 1 store = .ok (raw, ea) ∧
      s.ownBytes ea w (off j) ∧ s.sound (off j) w
  (w = 4 ∨ w = 8) → mOrd f.mod = 0 → (s.cur.readV f.b).expired = 0 → f.d.toNat < 32 →
  (∀ off, s.cur.vgDone = 0 → s.issues i { g := [f.a], v := [f.b], dv := [f.d] } false = true → place pLD false off →
    ∃ t, exec (.ldvg f) s = .next t ∧ s.passed t 8 ∧ s.slotsKept t [] [f.d] ∧ t.mem = s.mem ∧ ∀ j < 64 / w,
      (act j → vElem ((s.then_ t).readV f.d).val w j = s.natAt (lmKey s.turn.1 (off j)) w) ∧
      (¬act j → vElem ((s.then_ t).readV f.d).val w j = vElem (s.cur.readV f.d).val w j)) ∧
  (∀ off, s.issues i { g := [f.a], v := [f.b, f.d] } false = true → (s.cur.readV f.d).expired = 0 → place pST true off →
    ∃ t, exec (.stvs f) s = .next t ∧ s.passed t 8 ∧ s.slotsKept t [] [] ∧
      (∀ a, (∀ j, act j → ¬(lmKey s.turn.1 (off j) ≤ a ∧ a < lmKey s.turn.1 (off j) + w)) → memGet t.mem a = memGet s.mem a) ∧
      ∀ j, act j → ∀ b < w, (∀ j', act j' → j < j' → ¬(off j' ≤ off j + b ∧ off j + b < off j' + w)) →
        memGet t.mem (lmKey s.turn.1 (off j) + b) = vByte (s.cur.readV f.d).val (j * w + b)))

/-- R152, R153: PREF passes whatever its address does, and asks for the line of an untranslated address; TOUCH passes where the address
is local or translated.

R154 to R156: FENCE, DRAIN, L1WB and L1INV. A fence with release passes once nothing of its slot is outstanding and no dirty line
is left, and raises CLK; a fence with acquire leaves no line but of LOOSE pages, `.full` none. L1INV of everything empties the L1,
L1WB leaves no dirty byte. -/
def Obligations.PrefetchAndFenceResults : Prop :=
  (∀ s : State,
  let pref (x : Instr) (i : Ins) (u : Uses) : Prop :=
    s.issues i u false = true → ∃ t, exec x s = .next t ∧ t.mem = s.mem ∧ (s.still = true → s.passed t i.len) ∧
      (∀ raw ea, accessCheck s.pkg s.turn.1 s.cur i.a (memOff i s.cur) 8 pLD 1 = .ok (raw, ea) → ea.getLsbD 63 = true →
        fld ea 53 10 = 0x3FF → fld ea 0 53 < ctlBase → s.ldpend s.turn.1 < 64 →
        s.xlate s.turn.1 s.turn.2 (fld ea 0 53 / 64 * 64) .read false = .miss →
        ∃ r ∈ t.reqs, r.op = .fill ∧ r.stage = .walk ∧ r.ea.toNat = ea.toNat / 64 * 64 ∧ r.keep = !i.sub.getLsbD 0)
  let touch (x : Instr) (i : Ins) (u : Uses) : Prop :=
    ∀ raw ea, s.issues i u false = true →
      accessCheck s.pkg s.turn.1 s.cur i.a (memOff i s.cur) 1 (if i.sub.getLsbD 0 then pST else pLD) 1 = .ok (raw, ea) →
      (ea.getLsbD 63 = false → exec x s = s.retires (s.begun i u (warnPref i)) i.len none) ∧
      (∀ pa attr, ea.getLsbD 63 = true → fld ea 53 10 = 0x3FF → fld ea 0 53 < ctlBase →
        s.xlate s.turn.1 s.turn.2 (fld ea 0 53) (if i.sub.getLsbD 0 then .write else .read) false = .ok pa attr →
        ∃ t, exec x s = .next t ∧ t.mem = s.mem ∧ (s.still = true → s.passed t i.len))
  (∀ f, pref (.pref f) (insR f) { g := [f.a, f.b] }) ∧ (∀ f, pref (.prefF96 f) (insX f) { g := [f.a] }) ∧
  (∀ f, touch (.touch f) (insR f) { g := [f.a, f.b] }) ∧ (∀ f, touch (.touchF96 f) (insX f) { g := [f.a] })) ∧
  (∀ (s : State) (f : FR), s.still = true →
  let i := insR f
  let cid := s.turn.1
  let idle : Prop := (∀ r ∈ s.reqs, r.isOf cid s.turn.2 = false ∧ r.by_.contains (cid, s.turn.2) = false) ∧ (∀ a ∈ s.accs, a.cid ≠ cid) ∧
    (s.core cid).slotBusy s.turn.2 = false ∧ (∀ hc ∈ s.l1Cores cid, ∀ l ∈ (s.core hc).l1, l.dirty = 0)
  (s.issues i {} false = true → idle → ∃ t, exec (.fence f) s = .next t ∧ s.passed t 8 ∧ t.mem = s.mem ∧
    (mOrd f.mod ≠ 1 → s.cur.clk ≠ 0xFFFFFFFF → (s.then_ t).clk = s.cur.clk + 1) ∧
    (mOrd f.mod = 1 → (s.then_ t).clk = s.cur.clk) ∧
    ((s.core cid).fused = false → mOrd f.mod ≠ 2 → (mSce f.mod = true → scCLUSTER ≤ mScope f.mod) → ∀ l ∈ (t.core cid).l1,
      l.loose = true ∧ mOrd f.mod = 1)) ∧
  (s.issues i {} false = true → idle → exec (.drain f) s = s.retires (s.begun i {} (warnMem i)) 8 none) ∧
  (f.a = 0 → f.b = 0 → s.issues i { g := [0, 0] } false = true → (s.core cid).fused = false →
    (∃ t, exec (.l1inv f) s = .next t ∧ s.passed t 8 ∧ t.mem = s.mem ∧ (t.core cid).l1 = []) ∧
    (∃ t, exec (.l1wb f) s = .next t ∧ s.passed t 8 ∧ t.mem = s.mem ∧ ∀ l ∈ (t.core cid).l1, l.dirty = 0)))

/-- R157 to R160, R294: an atomic leaves its core as one request that carries its handler, its operand block and its address, and its
slot goes on; the destination of AMOF and CAS is pending until the old value returns.

R161 to R163: a multicast leaves as one request that names its packages, or does nothing when it names none; its slot goes on. -/
def Obligations.AtomicAndMulticastIssueResults : Prop :=
  (∀ s : State, s.calm = true →
  let go (x : Instr) (i : Ins) (u : Uses) (h : BitVec 5) (n : Nat) (opv ret : Bool) (off : W64) (d : W512) : Prop :=
    ∀ raw ea, s.issues i u false = true → mOrd i.mod = 0 → memCheck s s.turn.1 s.cur i.a off n pATOMIC n true = .ok (raw, ea) →
      ea.getLsbD 63 = false → atomAhead s.pkg s.reqs s.turn.1 s.turn.2 ea = false → s.ldpend s.turn.1 < 64 →
      ∃ t, exec x s = .next t ∧ s.passed t i.len ∧ s.slotsKept t u.dg u.dv ∧ t.mem = s.mem ∧
        (∃ r ∈ t.reqs, r.id = s.nextId + 1 ∧ r.op = .atomic h opv ret (s.handlerVersion h.toNat) ∧ r.ea = ea ∧ r.n = n ∧ r.data = d ∧
          r.cid = s.turn.1 ∧ r.slot = s.turn.2) ∧
        (ret = true → opv = false → i.d ≠ 0 → ((s.then_ t).readG i.d).pending = true) ∧
        (ret = true → opv = true → i.d.toNat < 32 → ((s.then_ t).readV i.d).pending = true)
  let amo (x : Instr) (i : Ins) (ab : List RegNo) (ret : Bool) : Prop :=
    let h := i.sub.extractLsb' 0 5
    (i.sub.getLsbD 5 = false → go x i { g := i.d :: ab, dg := if ret then [i.d] else [] } h (s.handlerSize h.toNat) false ret
      (memOff i s.cur) ((s.cur.readG i.d).val.zeroExtend 512)) ∧
    (i.sub.getLsbD 5 = true → (s.cur.readV i.d).expired = 0 →
      go x i { g := ab, v := [i.d], dv := if ret then [i.d] else [] } h (s.handlerSize h.toNat) true ret (memOff i s.cur) (s.cur.readV i.d).val)
  (∀ f, amo (.amo f) (insR f) [f.a, f.b] false) ∧ (∀ f, amo (.amoF96 f) (insX f) [f.a] false) ∧
  (∀ f, amo (.amof f) (insR f) [f.a, f.b] true) ∧ (∀ f, amo (.amofF96 f) (insX f) [f.a] true) ∧
  (∀ f, let u : Uses := { g := [f.a, f.b, f.c, f.d], dg := [f.d] }
    let c := (s.cur.readG f.c).val
    let d := (s.cur.readG f.d).val
    ((insR f).ty = 9 → go (.cas f) (insR f) u 10 16 false true (s.cur.g64 f.b) (BitVec.ofNat 512 (c.toNat + d.toNat * 2 ^ 128))) ∧
    ((insR f).ty ≠ 9 → go (.cas f) (insR f) u 9 8 false true (s.cur.g64 f.b)
      (BitVec.ofNat 512 (c.toNat % 2 ^ 64 + d.toNat % 2 ^ 64 * 2 ^ 64))))) ∧
  (∀ s : State, s.calm = true →
  let go (x : Instr) (i : Ins) (red : Bool) (offs : List RegNo) (off : W64) : Prop :=
    let opv := i.sub.getLsbD 5
    let h := i.sub.extractLsb' 0 5
    let n := if red then s.handlerSize h.toNat else if opv then 64 else memSize i.ty
    let u : Uses := { g := (if opv then [] else [i.d]) ++ (i.a :: offs), v := (if opv then [i.d] else []) ++ [i.b, i.b + 1] }
    ∀ raw ea, s.issues i u false = true → mOrd i.mod = 0 →
      accessCheck s.pkg s.turn.1 s.cur i.a off n (pST ||| pMCAST) (if red then n else 1) = .ok (raw, ea) →
      (∀ r : RegNo, (s.cur.readV r).expired = 0) → ea.getLsbD 63 = false →
      (∀ q ∈ mcList (mcDests s.cur i.b), ∀ p ∈ splitLines ea 0 n,
        atomAhead s.pkg s.reqs s.turn.1 s.turn.2 (mcAddr s.pkg p.ea q) = false) →
      (∀ o, s.pkg.toNat ∈ mcList (mcDests s.cur i.b) → ownLocal s.turn.1 (mcAddr s.pkg ea s.pkg.toNat) = some o →
        localBad (s.core s.turn.1) s.cur o n true = false) →
      (mcList (mcDests s.cur i.b) = [] → exec x s = s.retires (s.begun i u (storeOrder i).2) i.len none) ∧
      (mcList (mcDests s.cur i.b) ≠ [] → s.ldpend s.turn.1 < 64 →
        ∃ t, exec x s = .next t ∧ s.passed t i.len ∧ s.slotsKept t [] [] ∧ t.mem = s.mem ∧ ∃ r ∈ t.reqs, r.id = s.nextId + 1 ∧
          r.op = .mcast (mcDests s.cur i.b) (if red then some (h, opv, s.handlerVersion h.toNat) else none) ∧ r.ea = ea ∧ r.n = n)
  (∀ f, go (.mcst f) (insR f) false [f.c] (s.cur.g64 f.c)) ∧ (∀ f, go (.mcstF96 f) (insX f) false [] (insX f).immS) ∧
  (∀ f, go (.mred f) (insR f) true [f.c] (s.cur.g64 f.c)) ∧ (∀ f, go (.mredF96 f) (insX f) true [] (insX f).immS))

/-! ## The long accumulator and streams (R189 to R200) -/

/-- R189 to R191: the accumulator is a 640-bit integer N, a multiple of 2^-320. CLR makes it 0, ADD and MAC add an exact addend modulo
2^640 or set NV for a NaN or an infinity, MRG adds another one, RD rounds it once into a pending register, which
LACC_OPERATION_COMPLETE fills when the operation's cycles have passed. Each needs the port free and holds it. -/
def Obligations.AccumulatorResults : Prop := ∀ (s : State) (f : FR),
  let cid := s.turn.1
  let i := insR f
  let sl (u : Uses) (w : BitVec 10) : Slot := s.begun i u w
  let n (o : Nat) : Int := laccN s cid o
  let holds (t : State) (rd : Option (RegNo × W64)) : Prop := ∃ c, (s.coreIn t).lacc = [{ slot := s.turn.2, rd := rd, cycles := c, since := s.cycOf cid }]
  let ready (o : Nat) : Prop := (s.core cid).lacc = [] ∧ acqOut s.accs cid s.turn.2 = false ∧ s.ownAhead cid o 80 = false
  let changes (x : Instr) (us : List RegNo) (perm : BitVec 12) (reads : Nat → List Nat) (new : Nat → Int) : Prop :=
    ∀ o, s.issues i { g := us } false = true → ready o →
      laccCheck s cid (sl { g := us } (laccWarn i)) i f.b perm true = .ok o → laccWordsBad s cid (reads o) = none →
      ∃ t, exec x s = .next t ∧ s.passed t 8 ∧ holds t none ∧ s.slotsKept t [] [] ∧ s.keepsElse t (lmKey cid o) 80 ∧
        (laccN t cid o : Int) = new o % 2 ^ 640
  let addend (v : FVal) (x : Int) : Prop := ∃ neg m e sn, v = .fin neg m e sn ∧ x = sigAt neg m e (-320)
  let addends (x : Instr) (us : List RegNo) (v : FVal) : Prop :=
    (∀ a, addend v a → changes x us (pLD ||| pST) (fun o => addTouches s cid o (some a)) fun o => n o + a) ∧
    ((¬∃ a, addend v a) → ∀ o, s.issues i { g := us } false = true → ready o →
      laccCheck s cid (sl { g := us } (laccWarn i)) i f.b (pLD ||| pST) true = .ok o →
      ∃ t, exec x s = .next t ∧ s.passed t 8 ∧ holds t none ∧ t.mem = s.mem ∧ (s.then_ t).fpc = s.cur.fpc ||| fNV)
  memWf s.mem = true →
  changes (.laccClr f) [f.a, f.b] pST (fun _ => []) (fun _ => 0) ∧
  addends (.laccAdd f) [f.a, f.b, f.c] (decodeF i.ty (s.cur.g64 f.c).toNat) ∧
  addends (.laccMac f) [f.a, f.b, f.c, f.d]
    (match decodeF 0x0B (s.cur.g64 f.c).toNat, decodeF 0x0B (s.cur.g64 f.d).toNat with
      | .fin nx mx ex _, .fin ny my ey _ => .fin (nx != ny) (mx * my) (ex + ey) false
      | _, _ => .nan false) ∧
  (∀ o2, laccCheck s cid (sl { g := [f.a, f.b, f.c] } (laccWarn i)) i f.c (pLD ||| pST) false = .ok o2 → laccReadBad s cid o2 = none →
    s.ownAhead cid o2 80 = false →
    changes (.laccMrg f) [f.a, f.b, f.c] (pLD ||| pST) laccWords fun o => n o + n o2) ∧
  (∀ o, s.issues i { g := [f.a, f.b], dg := [f.d] } false = true → ready o →
    laccCheck s cid (sl { g := [f.a, f.b], dg := [f.d] } 0) i f.b pLD false = .ok o → laccReadBad s cid o = none →
    let z := sextN 640 (laccN s cid o)
    let r := roundF i.ty (s.cur.mode (mRm f.mod)) (s.cur.ftz && i.ty == 0x0B) false s.cur.seed (.fin (z < 0) z.natAbs (-320) false)
    ∃ t, exec (.laccRd f) s = .next t ∧ s.passed t 8 ∧ holds t (some (f.d, BitVec.ofNat 64 r.bits)) ∧ t.mem = s.mem ∧
      (s.then_ t).fpc = s.cur.fpc ||| r.flags ∧ (s.then_ t).seed = r.seed ∧
      (f.d ≠ 0 → s.still = true → ((s.then_ t).readG f.d).pending = true)) ∧
  (∀ c x rest, (s.core c).lacc = x :: rest → (s.cycOf c - x.since).toNat < x.cycles → exec (.laccOperationComplete c) s = .next s) ∧
  (∀ c x rest, x.slot < 4 → (s.core c).lacc = x :: rest → x.cycles ≤ (s.cycOf c - x.since).toNat → ∃ t, exec (.laccOperationComplete c) s = .next t ∧ (t.core c).lacc = rest ∧
    t.mem = s.mem ∧ (x.rd = none → t.slotAt c x.slot = s.slotAt c x.slot) ∧
    ∀ r v, x.rd = some (r, v) → r ≠ 0 → (t.slotAt c x.slot).readG r = { val := v.zeroExtend 128 })

/-- R193 to R200: SBIND binds a stream whose descriptor is legal and whose pattern the capability holds; SFREE frees it, SSTAT says how
it stands, a pop takes its first entry and a push adds one. A fetch takes the next entry from memory through the chain, a write
stores one. -/
def Obligations.StreamResults : Prop := ∀ s : State,
  let cid := s.turn.1
  let binds (x : Instr) (i : Ins) (u : Uses) (d : W512) : Prop := ∀ t,
    s.issues i u false = true → s.inputFmt cid (s.cur.readG i.a).val d = some t → sdLegal d t (i.mod.getLsbD 0) = true →
    extentCheck s cid (s.begun i u 0) i.a d (itemBytes t ((chainFmt t (sdChain d)).getD 5) (i.mod.getLsbD 0)) (i.mod.getLsbD 0) = none →
    acqOut s.accs cid s.turn.2 = false →
    (∀ o ∈ lutOffs d, s.ownAhead cid o 64 = false ∧ errIn s.errs (lmKey cid o) 64 8 true = false ∧ s.lmMarks cid o 64 = 0) →
    exec x s = .next (((lutOffs d).foldl (fun s o => s.countCorr cid o 64) s).retire cid s.turn.2 ((s.begun i u 0).setStream (i.d.toNat % 4)
      { state := if i.mod.getLsbD 0 then 2 else 1, desc := d, cap := (s.cur.readG i.a).val, ifmt := BitVec.ofNat 5 t
        luts := (lutOffs d).map fun o => ofBytes 512 (s.lmRead cid o 64) }) i.len none)
  let warn (i : Ins) : BitVec 10 := warnA i.mod (if tInt i.ty then 0 else i.ty) false false false
  (∀ f, (s.cur.readV f.b).expired = 0 → binds (.sbind f) (insR f) { g := [f.a], v := [f.b] } (s.cur.readV f.b).val) ∧
  (∀ f, binds (.sbindF128 f) (insL f) { g := [f.a] } (BitVec.ofNat 512 ((insL f).imm % 2 ^ 64 + f.sub.toNat % 32 * 2 ^ 480))) ∧
  (∀ f, s.acts (.sfree f) (insR f) {} false 0 fun sl => sl.setStream (f.a.toNat % 4) {}) ∧
  (∀ f, s.putsG (.sstat f) (insR f) [] 0 fun sl =>
    let x := sl.stream (f.a.toNat % 4)
    if x.state = 0 then 0
    else x.state.toNat + x.queue.length * 8 + (if x.fin then 64 else 0) + (if x.ovr then 128 else 0) +
      min (x.total - x.moved) 0xFFFFFFFF * 2 ^ 32) ∧
  (∀ f, let i := insR f
    let sl := s.begun i { dv := [f.d] } (warn i)
    let x := s.cur.stream (f.a.toNat % 4)
    let bytes := activeBytes (s.cur.laneMask i.pred) (tyBytes i.ty)
    s.issues i { dv := [f.d] } true = true → x.state = 1 →
    (bytes = 0 → exec (.vmovPop f) s = s.retires sl 8 none) ∧
    (bytes ≠ 0 → x.total ≤ x.moved → acqOut s.accs cid s.turn.2 = false →
      exec (.vmovPop f) s = s.retires ((sl.putV f.d bytes 0).setStream (f.a.toNat % 4) { x with fin := true }) 8 none) ∧
    (∀ e rest, bytes ≠ 0 → x.moved < x.total → x.queue = e :: rest → e.trap = none → e.left = 0 → acqOut s.accs cid s.turn.2 = false →
      exec (.vmovPop f) s = s.retires ((sl.copyV f.d bytes e.data e.expired).setStream (f.a.toNat % 4)
        { x with queue := rest, moved := x.moved + min x.perEntry (x.total - x.moved) }) 8 none)) ∧
  (∀ f, let i := insR f
    let sl := s.begun i { v := [f.a] } (warn i)
    let x := s.cur.stream (f.d.toNat % 4)
    let bytes := activeBytes (s.cur.laneMask i.pred) (tyBytes i.ty)
    let step := min x.perEntry (x.total - x.moved)
    s.issues i { v := [f.a] } true = true → x.state = 2 → (s.cur.readV f.a).expired &&& bytes = 0 →
    (bytes = 0 → exec (.vmovPush f) s = s.retires sl 8 none) ∧
    (bytes ≠ 0 → x.total ≤ x.moved →
      exec (.vmovPush f) s = s.retires (sl.setStream (f.d.toNat % 4) { x with ovr := true }) 8 none) ∧
    (bytes ≠ 0 → x.moved < x.total → x.queue.length < 4 →
      (∀ j < step, ∃ a, streamItem s cid sl x (x.moved + j) (tyBytes x.fmt) true = .ok a) →
      exec (.vmovPush f) s = s.retires (sl.setStream (f.d.toNat % 4)
        { x with queue := x.queue ++ [{ data := (s.cur.readV f.a).val &&& maskBits bytes, pc := s.cur.pc }], moved := x.moved + step }) 8 none)) ∧
  (∀ c k st, k < 4 → st < 4 → let x := (s.slotAt c k).stream st
    s.streamsOn c k = true → x.state = 1 → (∀ e ∈ x.queue, e.todo = 0) → x.queue.length < 4 → x.next < x.total →
    ∃ t, exec (.streamFetch c k st) s = .next t ∧
      ((t.slotAt c k).stream st).next = x.next + min x.perEntry (x.total - x.next) ∧
      ((t.slotAt c k).stream st).queue.length = x.queue.length + 1 ∧
      ∀ a off, sdLegal x.desc x.ifmt.toNat false = true → isBlock x.ifmt.toNat = false → x.next + 1 = x.total → let w := inBytes x.ifmt.toNat
        streamItem s c (s.slotAt c k) x x.next w false = .ok a → (∀ p ∈ splitLines a.2 0 w, ownLocal c p.ea = some (off + p.off) ∧ s.ownAhead c (off + p.off) p.len = false) →
        errIn s.errs (lmKey c off) w 8 true = false → (∀ j < w, s.lmExpired c (off + j) = false) →
        (∀ y ∈ s.accs, y.gid ≠ s.nextId + 1) → (∀ e ∈ x.queue, e.gid ≠ s.nextId) →
        ∃ e, ((t.slotAt c k).stream st).queue = x.queue ++ [e] ∧ e.left = 0 ∧ e.trap = none ∧
          vElem e.data (tyBytes x.fmt) 0 =
            chainElem x.desc x.ifmt.toNat (sdChain x.desc) x.luts (s.natAt (lmKey c off) w) % 2 ^ (8 * tyBytes x.fmt)) ∧
  (∀ c k st e rest, k < 4 → st < 4 → let x := (s.slotAt c k).stream st
    let j0 := x.next % max 1 x.perEntry
    let n := min (x.perEntry - j0) (x.total - x.next)
    s.streamsOn c k = true → x.state = 2 → x.queue = e :: rest →
    (∀ len gid clr w inc, (s.slotAt c k).run ≠ .sleeping (.check len gid clr w inc)) →
    (∀ j < n, ∃ a, streamItem s c (s.slotAt c k) x (x.next + j) (tyBytes x.fmt) true = .ok a ∧
      (s.ldpend c + 4 * n ≤ 64 ∨ ∀ p ∈ splitLines a.2 0 (tyBytes x.fmt), (ownLocal c p.ea).isSome = true)) →
    ∃ t, exec (.streamWrite c k st) s = .next t ∧ ((t.slotAt c k).stream st).queue = rest ∧
      ((t.slotAt c k).stream st).next = x.next + n ∧
      ∀ a off, n = 1 → memWf s.mem = true → let w := tyBytes x.fmt
        streamItem s c (s.slotAt c k) x x.next w true = .ok a →
        (∀ p ∈ splitLines a.2 0 w, ownLocal c p.ea = some (off + p.off) ∧ s.ownAhead c (off + p.off) p.len = false) →
        s.keepsElse t (lmKey c off) w ∧
        t.natAt (lmKey c off) w =
          chainElem x.desc x.ifmt.toNat (sdChain x.desc) x.luts (vElem e.data (tyBytes x.ifmt.toNat) j0) % 2 ^ (8 * w))

/-! ## Messages, handlers and launches (R131, R204 to R212, R474) -/

/-- R204 to R206: SEND leaves one message in its core's send queue, with its payload from v registers or from memory, after its
release; R207: SENDR a deposit on the neighbour's link, or a fault where the rectangle has none.

R208 to R210: HSET writes an entry that passes its checks, keeping a slice that holds messages; HMASK writes the MASK bits it
selects and delivers the earlier ones. -/
def Obligations.SendAndHandlerTableResults : Prop :=
  (∀ s : State, s.still = true →
  let cid := s.turn.1
  let sends (x : Instr) (i : Ins) (len : Nat) (us : List RegNo) : Prop :=
    let vs := (List.range (i.sub.toNat / 2 % 4 + 1)).map fun n => i.a + BitVec.ofNat 6 n
    let u : Uses := { g := us ++ (if i.sub.getLsbD 0 then [i.a] else []), v := if i.sub.getLsbD 0 then [] else vs }
    let goes (pay : List Byte) : Prop :=
      ∃ t m, exec x s = .next t ∧ s.passed t i.len ∧ t.mem = s.mem ∧ (s.coreIn t).sendq = (s.core cid).sendq ++ [m] ∧
        m.payload = pay ∧ m.addr = rewriteEa s.pkg cid (s.cur.g64 i.d) ∧ m.sent = s.reft ∧ m.did = s.cur.did ∧
        (s.cur.clk ≠ 0xFFFFFFFF → m.sclk = s.cur.clk + 1 ∧ (s.then_ t).clk = s.cur.clk + 1) ∧
        m.lid = s.lidOf cid ∧ m.hint = if i.sub.getLsbD 6 then some (i.sub.toNat / 8 % 8) else none
    s.issues i u false = true → sendBad s cid i (s.begun i u 0) = none → s.relWait cid s.turn.2 false = none →
    s.cur.isRoot = false → (s.core cid).sendq.length < 16 →
    (i.sub.getLsbD 0 = false → (∀ r ∈ vs, (s.cur.readV r).expired = 0) →
      goes ((List.range len).map fun j => vByte (s.cur.readV (i.a + BitVec.ofNat 6 (j / 64))).val (j % 64))) ∧
    (∀ bs, i.sub.getLsbD 0 = true → s.payRead cid s.turn.2 (s.begun i u 0) i.a 0 len = .ok (bs, s) → goes bs)
  (∀ f, sends (.send f) (insR f) (s.cur.g64 f.b).toNat [f.d, f.b]) ∧ (∀ f, sends (.sendF96 f) (insX f) (insX f).imm [f.d]) ∧
  (∀ f, let dir := f.sub.toNat % 4
    s.issues (insR f) { g := [f.a] } false = true →
    (s.neighbour cid dir = none → exec (.sendr f) s = s.faults { cause := cCAP_FAULT, sub := 0x0A }) ∧
    (∀ n, s.neighbour cid dir = some n → n ≠ cid → (vget (s.core n).links (dir ^^^ 1) []).length < 4 →
      ∃ t, exec (.sendr f) s = .next t ∧ s.passed t 8 ∧ t.mem = s.mem ∧
        vget (t.core n).links (dir ^^^ 1) [] = vget (s.core n).links (dir ^^^ 1) [] ++
          [{ slot := BitVec.ofNat 2 (f.sub.toNat / 4), reg := f.d, val := (s.cur.readG f.a).val }]))) ∧
  (∀ s : State, s.still = true →
  let cid := s.turn.1
  let c := s.core cid
  let masks (c : Core) (ch : Nat) : Bool := (c.handler ch).getLsbD 66
  let hmask (x : Instr) (i : Ins) (us : List RegNo) (val : BitVec 64) : Prop :=
    s.issues i { g := us, dg := [i.d] } false = true →
    ∃ t m, exec x s = .next t ∧ s.gave t i.len i.d m ∧ t.mem = s.mem ∧ m < 2 ^ 32 ∧
      ∀ ch < 32, m.testBit ch = masks c ch ∧
        masks (s.coreIn t) ch = (if (s.cur.g64 i.a).getLsbD ch then val.getLsbD ch else masks c ch) ∧
        ∀ b, b ≠ 66 → ((s.coreIn t).handler ch).getLsbD b = (c.handler ch).getLsbD b
  (∀ f, let e := (s.cur.readG f.a).val
    let chan := f.sub.toNat % 32
    let old := c.handler chan
    let st := heStatus e c.lmb3.toNat c.nrgn (((List.range 32).filter (· != chan)).map c.handler)
    let moved := (heBase e, heSize e) ≠ (heBase old, heSize old) ∧ c.holdsMsg chan = true
    let u : Uses := { g := [f.a], dg := [f.d] }
    s.issues (insR f) u false = true →
    (st ≠ 0 → exec (.hset f) s = s.retires ((s.begun (insR f) u 0).putG f.d st) 8 none) ∧
    (st = 0 → ∃ t, exec (.hset f) s = .next t ∧ s.gave t 8 f.d (if moved then 1 else 0) ∧ t.mem = s.mem ∧
      (∀ ch < 32, ch ≠ chan → (s.coreIn t).handler ch = c.handler ch) ∧
      vget (s.coreIn t).ep chan 0 = hePrio e ∧ vget (s.coreIn t).age chan 0 = 0 ∧
      heEntry ((s.coreIn t).handler chan) = heEntry e ∧ masks (s.coreIn t) chan = e.getLsbD 66 ∧
      (heBase ((s.coreIn t).handler chan), heSize ((s.coreIn t).handler chan)) =
        (if moved then (heBase old, heSize old) else (heBase e, heSize e)))) ∧
  (∀ f, hmask (.hmask f) (insR f) [f.a, f.b] (s.cur.g64 f.b)) ∧ (∀ f, hmask (.hmaskF96 f) (insX f) [f.a] (BitVec.ofNat 64 (insX f).imm)))

/-- R211, R212: LAUNCH submits what its descriptor names and delivers its status in bits 31:16 and the LID in bits 15:0; status 0 puts
one launch at the end of the context's queue. R131: ACTEND ends its slot's activation. -/
def Obligations.LaunchAndActivationEndResults : Prop := ∀ (s : State) (f : FR), s.still = true →
  let cid := s.turn.1
  let k := s.turn.2
  let i := insR f
  let u : Uses := { g := [f.b, f.c], v := [f.a, f.a + 1], dg := [f.d] }
  let sl := s.begun i u 0
  let st (b : Submission) : Nat := s.submitStatus (s.ctxOf cid) true b
  (∀ b, s.issues i u false = true → capHas sl f.b pEXEC [0] = none → capHas sl f.c pLD [0, 1] = none →
    (s.cur.readV f.a).expired = 0 → (s.cur.readV (f.a + 1)).expired = 0 → s.relWait cid k false = none →
    s.readLaunch cid k sl f.c (launchDesc sl f.a) (sl.readG f.b).val = .ok (b, s) →
    ∃ t lid, exec (.launch f) s = .next t ∧ s.gave t 8 f.d (st b * 65536 + lid) ∧ t.mem = s.mem ∧ lid < 65536 ∧
      (st b ≠ 0 → lid = 0 ∧ t.launches = s.launches) ∧
      (st b = 0 → ∃ l, t.launches = s.launches ++ [l] ∧ l.lid.toNat = lid ∧ l.desc = b.desc ∧ l.table = b.table ∧ l.rgns = b.rgns ∧
        l.ctx = s.ctxOf cid ∧ (s.launches.length < 65535 → 1 ≤ lid ∧ ∀ l' ∈ s.launches, l'.lid ≠ l.lid))) ∧
  (s.issues i {} false = true → s.relWait cid k true = none → s.cur.act.opened = [] → s.cur.act.did = 0 →
    ∃ t, exec (.actend f) s = .next t ∧ (s.then_ t).run = .dormant ∧ (s.then_ t).act = {} ∧ t.mem = s.mem ∧ t.domains = s.domains ∧
      (s.cur.clk ≠ 0xFFFFFFFF → (s.then_ t).clk = s.cur.clk + 1) ∧
      ∀ b ∈ (s.coreIn t).bufs.toList, ∀ r ∈ b.recs, r.rid = s.cur.act.rid → r.pad = true ∨ r.freed = true)

/-! ## Events, groups and jobs (R213 to R216, R220, R128) -/

/-- R213: EVSET and EVCLR change the bits of their mask and deliver the earlier word; EVTEST delivers the bits of its mask that are
set; EVWAIT ends when any or all of them are, else its slot sleeps until the wake that finds them so.

R214 to R216: BARRIER arrives and sleeps; an episode at which every core of the group has arrived wakes them; GROUPID and CORENUM
deliver their fields; a shape larger than the rectangle faults.

R220: what a core says of a job id: a job it keeps (state 2 when it is done), one of more than 64 jobs ago (status 6), or one not
submitted (status 7). JWAIT delivers the status of a done job and sleeps before that, JPOLL says whether it is done, JSTAT gives
its word; the wake ends a JWAIT. -/
def Obligations.EventGroupAndJobResults : Prop :=
  (∀ s : State, s.still = true →
  let cid := s.turn.1
  let ctx := s.ctxOf cid
  let spans (x y : FR → Instr) (z w : FX → Instr) (p : (Instr → Ins → (Slot → W64) → Uses → Prop)) (q : (Instr → Ins → (Slot → W64) → Uses → Prop)) : Prop :=
    (∀ f, p (x f) (insR f) (fun sl => sl.g64 f.b) { g := [f.b], dg := [f.d] }) ∧
    (∀ f, q (y f) (insR f) (fun sl => sl.g64 f.b) { g := [f.b], dg := [f.d] }) ∧
    (∀ f, p (z f) (insX f) (fun _ => BitVec.ofNat 64 (insX f).imm) { dg := [f.d] }) ∧
    (∀ f, q (w f) (insX f) (fun _ => BitVec.ofNat 64 (insX f).imm) { dg := [f.d] })
  let old (i : Ins) : W64 := vget (s.ctx ctx).ev (i.sub.toNat % 4) 0
  let writes (clear : Bool) (x : Instr) (i : Ins) (m : Slot → W64) (u : Uses) : Prop :=
    s.issues i u false = true → s.relWait cid s.turn.2 false = none →
    ∃ t, exec x s = .next t ∧ s.gave t i.len i.d (old i).toNat ∧ t.mem = s.mem ∧
      (∀ w < 4, vget (t.ctx ctx).ev w 0 = if w = i.sub.toNat % 4 then (if clear then old i &&& ~~~(m s.cur) else old i ||| m s.cur)
        else vget (s.ctx ctx).ev w 0) ∧
      (s.cur.clk ≠ 0xFFFFFFFF → (s.then_ t).clk = s.cur.clk + 1)
  let tests (x : Instr) (i : Ins) (m : Slot → W64) (u : Uses) : Prop :=
    s.issues i u false = true →
    ∃ t, exec x s = .next t ∧ s.gave t i.len i.d (old i &&& m s.cur).toNat ∧ t.mem = s.mem ∧ t.ctxs = s.ctxs
  let met (any : Bool) (w m : W64) : Prop := m = 0 ∨ (if any then w &&& m ≠ 0 else w &&& m = m)
  let waits (x : Instr) (i : Ins) (m : Slot → W64) (u : Uses) : Prop :=
    s.issues i u false = true →
    (met (i.sub.getLsbD 2) (old i) (m s.cur) →
      ∃ t, exec x s = .next t ∧ s.gave t i.len i.d (old i &&& m s.cur).toNat ∧ t.mem = s.mem ∧ t.ctxs = s.ctxs) ∧
    (¬met (i.sub.getLsbD 2) (old i) (m s.cur) → exec x s = .next (s.sleepSlot cid s.turn.2
      { s.begun i u 0 with run := .sleeping (.evwait i.len i.d (BitVec.ofNat 2 i.sub.toNat) (i.sub.getLsbD 2) (m s.cur)) }))
  spans .evset .evclr .evsetF96 .evclrF96 (writes false) (writes true) ∧ spans .evtest .evwait .evtestF96 .evwaitF96 tests waits ∧
  (∀ c k len d word any m, k < 4 → s.stillAt c = true → (s.slotAt c k).run = .sleeping (.evwait len d word any m) → s.canWake c k = true →
    let w := vget (s.ctx (s.ctxOf c)).ev word.toNat 0
    (met any w m → ∃ t, exec (.evwaitWake c k) s = .next t ∧ s.gaveAt t c k len d (w &&& m).toNat ∧ t.mem = s.mem) ∧
    (¬met any w m → exec (.evwaitWake c k) s = .next s)) ∧
  (∀ c k d conds dl, k < 4 → s.stillAt c = true → (s.slotAt c k).run = .sleeping (.wait d conds dl) → s.canWake c k = true →
    let sl := s.slotAt c k
    let bit (n : Nat) (b : Bool) : Nat := if b && conds.getLsbD n then 2 ^ n else 0
    let fired := bit 0 sl.msgl + bit 1 sl.jobl + bit 2 (decide (dl ≤ s.reft)) + bit 3 (decide (sl.mbp ≠ 0))
    (fired = 0 → exec (.waitWake c k) s = .next s) ∧
    (fired ≠ 0 → ∃ t, exec (.waitWake c k) s = .next t ∧ s.gaveAt t c k 8 d fired ∧ t.mem = s.mem ∧
      (t.slotAt c k).msgl = (sl.msgl && !conds.getLsbD 0) ∧ (t.slotAt c k).jobl = (sl.jobl && !conds.getLsbD 1)))) ∧
  (∀ s : State, s.still = true →
  let cid := s.turn.1
  let core := coreNo cid
  (∀ f l, s.issues (insR f) {} false = true → s.relWait cid s.turn.2 false = none →
    isSvc cid = false → s.launchOf cid = some l → f.sub ≠ 0xFF →
    let lw := f.sub.toNat % 16
    let lh := f.sub.toNat / 16
    ((l.logw < lw ∨ l.logh < lh) → exec (.barrier f) s = s.faults { cause := cILLEGAL_FIELD }) ∧
    (lw ≤ l.logw → lh ≤ l.logh →
      let gx := l.ox + (gblX core - l.ox) / 2 ^ lw * 2 ^ lw
      let gy := l.oy + (gblY core - l.oy) / 2 ^ lh * 2 ^ lh
      let here (e : Episode) : Prop := e.lid = l.lid ∧ e.shape = f.sub ∧ e.gx = gx ∧ e.gy = gy
      (s.episodes.filter fun e => e.lid == l.lid && e.arrived.contains core).length < 4 →
      ∃ t, exec (.barrier f) s = .next t ∧ (s.then_ t).run = .sleeping (.barrier f.sub true) ∧ (s.then_ t).pc = s.cur.pc ∧
        t.mem = s.mem ∧ ∃ e ∈ t.episodes, here e ∧ core ∈ e.arrived)) ∧
  (∀ f l, s.issues (insR f) { dg := [f.d] } false = true → isSvc cid = false → s.launchOf cid = some l → f.sub ≠ 0xFF →
    f.sub.toNat % 16 ≤ l.logw → f.sub.toNat / 16 ≤ l.logh →
    let lw := f.sub.toNat % 16
    let lh := f.sub.toNat / 16
    let ix := (gblX core - l.ox) / 2 ^ lw
    let iy := (gblY core - l.oy) / 2 ^ lh
    ∃ v : W64, exec (.groupid f) s = s.retires ((s.begun (insR f) { dg := [f.d] } 0).putG f.d v.toNat) 8 none ∧
      v.extractLsb' 0 8 = BitVec.ofNat 8 (l.ox + ix * 2 ^ lw) ∧ v.extractLsb' 8 8 = BitVec.ofNat 8 (l.oy + iy * 2 ^ lh) ∧
      v.extractLsb' 16 8 = BitVec.ofNat 8 ix ∧ v.extractLsb' 24 8 = BitVec.ofNat 8 iy ∧
      v.extractLsb' 32 4 = BitVec.ofNat 4 lw ∧ v.extractLsb' 36 28 = BitVec.ofNat 28 (lh % 16)) ∧
  (∀ f l, s.issues (insR f) { dg := [f.d] } false = true → s.launchOf cid = some l →
    ∃ v : W64, exec (.corenum f) s = s.retires ((s.begun (insR f) { dg := [f.d] } 0).putG f.d v.toNat) 8 none ∧
      v.extractLsb' 0 8 = BitVec.ofNat 8 (gblX core) ∧ v.extractLsb' 8 8 = BitVec.ofNat 8 (gblY core) ∧
      v.extractLsb' 16 16 = BitVec.ofNat 16 core ∧ v.extractLsb' 32 2 = BitVec.ofNat 2 s.turn.2 ∧ v.extractLsb' 34 10 = s.pkg ∧
      v.extractLsb' 44 8 = BitVec.ofNat 8 (gblX core - l.ox) ∧ v.extractLsb' 52 8 = BitVec.ofNat 8 (gblY core - l.oy)) ∧
  (∀ n e l, s.episodes[n]? = some e → (s.launches.find? fun l => l.lid == e.lid && l.state == .running) = some l → e.shape ≠ 0xFF →
    let group := (List.range (2 ^ (e.shape.toNat / 16))).flatMap fun y =>
      (List.range (2 ^ (e.shape.toNat % 16))).map fun x => coreAt (e.gx + x) (e.gy + y)
    ((∃ c ∈ group, c ∉ e.arrived ∧ l.fenced c = false) → exec (.barrierComplete n) s = .next s) ∧
    ((∀ c ∈ group, c ∈ e.arrived ∨ l.fenced c = true) → ∃ t, exec (.barrierComplete n) s = .next t ∧ t.mem = s.mem ∧
      ∀ c ∈ group, ∀ k < 4, (s.slotAt (s.memberCid l.lid c) k).run = .sleeping (.barrier e.shape true) →
        (s.canWake (s.memberCid l.lid c) k = true → (t.slotAt (s.memberCid l.lid c) k).run = .running) ∧
        (s.canWake (s.memberCid l.lid c) k = false → ∃ scope, (t.slotAt (s.memberCid l.lid c) k).run = .sleeping (.barred scope))))) ∧
  (∀ s : State, s.still = true →
  let cid := s.turn.1
  let c := s.core cid
  let age (id : BitVec 16) : Nat := (c.nextJob - id).toNat
  let kept (id : BitVec 16) (h : JobHist) : Prop := 1 ≤ age id ∧ age id ≤ 64 ∧ (c.jobs.find? fun j => j.jid == id) = some h
  let jwait (x : Instr) (i : Ins) (id : BitVec 16) (u : Uses) : Prop := s.issues i u false = true →
    (age id = 0 → exec x s = s.retires ((s.begun i u 0).putG i.d 7) i.len none) ∧
    (64 < age id → exec x s = s.retires ((s.begun i u 0).putG i.d 6) i.len none) ∧
    (∀ h, kept id h → h.state = 2 → ∃ t, exec x s = .next t ∧ s.gave t i.len i.d h.status.toNat ∧ t.mem = s.mem) ∧
    (∀ h, kept id h → h.state ≠ 2 →
      exec x s = .next (s.sleepSlot cid s.turn.2 { s.begun i u 0 with run := .sleeping (.jwait i.len i.d h.jid) }))
  let jpoll (x : Instr) (i : Ins) (id : BitVec 16) (u : Uses) : Prop := s.issues i u false = true →
    ((age id = 0 ∨ 64 < age id) → exec x s = s.retires ((s.begun i u 0).writeP i.d.toNat 0xFFFF) i.len none) ∧
    (∀ h, kept id h → h.state ≠ 2 → exec x s = s.retires ((s.begun i u 0).writeP i.d.toNat 0) i.len none) ∧
    (∀ h, kept id h → h.state = 2 → ∃ t, exec x s = .next t ∧ s.passed t i.len ∧ t.mem = s.mem ∧
      (i.d.toNat % 8 ≠ 0 → (s.then_ t).readP i.d.toNat = 0xFFFF))
  let reg (f : FR) : BitVec 16 := BitVec.ofNat 16 (s.cur.g64 f.b).toNat
  let imm (f : FX) : BitVec 16 := BitVec.ofNat 16 (insX f).imm
  (∀ f, jwait (.jwait f) (insR f) (reg f) { g := [f.b], dg := [f.d] }) ∧ (∀ f, jwait (.jwaitF96 f) (insX f) (imm f) { dg := [f.d] }) ∧
  (∀ f, jpoll (.jpoll f) (insR f) (reg f) { g := [f.b] }) ∧ (∀ f, jpoll (.jpollF96 f) (insX f) (imm f) {}) ∧
  (∀ f, s.issues (insR f) { g := [f.b], dg := [f.d] } false = true →
    ∃ v : W64, exec (.jstat f) s = s.retires ((s.begun (insR f) { g := [f.b], dg := [f.d] } 0).putG f.d v.toNat) 8 none ∧
      (f.sub.getLsbD 0 = true → v = c.nextJob.zeroExtend 64) ∧
      (f.sub.getLsbD 0 = false → v.extractLsb' 48 16 = reg f ∧
        (age (reg f) = 0 → v.extractLsb' 0 2 = 3 ∧ v.extractLsb' 40 8 = 7) ∧
        (64 < age (reg f) → v.extractLsb' 0 2 = 3 ∧ v.extractLsb' 40 8 = 6) ∧
        ∀ h, kept (reg f) h → v.extractLsb' 0 2 = h.state ∧ v.extractLsb' 40 8 = h.status ∧ v.extractLsb' 8 32 = h.bytes)) ∧
  (∀ k len d id h, k < 4 → (s.slotAt cid k).run = .sleeping (.jwait len d id) → s.canWake cid k = true → kept id h →
    (h.state = 2 → ∃ t, exec (.jwaitWake cid k) s = .next t ∧ s.gaveAt t cid k len d h.status.toNat ∧ t.mem = s.mem) ∧
    (h.state ≠ 2 → exec (.jwaitWake cid k) s = .next s)))

/-! ## Containment domains (R217 to R219, R472 to R484, R525) -/

/-- R217 to R219: DOPEN delivers its status and, with status 0, opens a domain in state 1 that becomes current; DCLOSE closes one and
makes its parent current again; DABORT puts one into recovery; DSTAT says how one stands.

R473, R480 to R484, R525: a closed domain without tasks completes and sets its event bit; a notice counts a remote task off; an
error charged to a domain is a failure and an abort; a restored domain goes on to re-issue its root tasks, or is aborted for good;
after the last root task it returns to its state. -/
def Obligations.DomainResults : Prop :=
  (∀ (s : State) (f : FR), s.still = true →
  let cid := s.turn.1
  let k := s.turn.2
  let i := insR f
  let ctx := s.ctxOf cid
  let n := (s.cur.g64 f.a).toNat % 2 ^ 32
  let named : Option Domain := if 1 ≤ n ∧ n ≤ 15 then s.dom ctx (BitVec.ofNat 4 n) else none
  let u : Uses := { g := [f.a], dg := [f.d] }
  let sl := s.begun i u 0
  let tells (x : Instr) (v : Nat) : Prop := exec x s = s.retires (sl.putG f.d v) 8 none
  (∀ bs l, let u : Uses := { g := [f.a, f.b], dg := [f.d] }
    let sl := s.begun i u 0
    let d := domDesc bs
    let ps := domEntries (l.getD 0 [])
    let os := domEntries (l.getD 1 [])
    let st := s.dopenStatus ctx d ps os (s.cur.readG f.b).val
    let id : BitVec 4 := BitVec.ofNat 4 d.did
    s.issues i u false = true → capHas sl f.b pST (List.range 16) = none → s.relWait cid k true = none →
    s.payRead cid k sl f.a 0 64 = .ok (bs, s) →
    s.payReads cid k sl f.a [(d.plist, if d.ok then 16 * d.npres else 0), (d.olist, if d.ok then 16 * d.nout else 0)] = .ok (l, s) →
    (st = 0 → s.callIn ctx (ps.map fun e => (e.1, e.2.1, e.2.2.1 == 1)) = none) →
    ∃ t, exec (.dopen f) s = .next t ∧ s.gave t 8 f.d st ∧
      (st ≠ 0 → t.domains = s.domains ∧ t.mem = s.mem ∧ (s.then_ t).did = s.cur.did) ∧
      (st = 0 → (s.then_ t).did = id ∧ (s.then_ t).act.opened = id :: s.cur.act.opened ∧
        ∃ x, t.dom ctx id = some x ∧ x.state = 1 ∧ x.parent = BitVec.ofNat 4 d.parent ∧ x.fails = 0 ∧ x.roots = [] ∧
          x.depth = (if d.parent = 0 then 1 else ((s.dom ctx (BitVec.ofNat 4 d.parent)).map (·.depth)).getD 0 + 1) ∧
          x.outs = os.map (fun e => (e.1, e.2.1)) ∧ ∀ y ∈ s.domains, ¬(y.ctx = ctx ∧ y.did = id) → y ∈ t.domains)) ∧
  (s.issues i u false = true →
    (named = none → tells (.dclose f) 1 ∧ tells (.dabort f) 1) ∧
    (∀ d, named = some d →
      (d.isOpen = false → tells (.dclose f) 1) ∧
      (d.isOpen = true → s.openKids ctx d.did ≠ [] → tells (.dclose f) 2) ∧
      (d.isOpen = true → s.openKids ctx d.did = [] → ∃ t y, exec (.dclose f) s = .next t ∧ s.gave t 8 f.d 0 ∧ t.mem = s.mem ∧
        t.dom ctx d.did = some y ∧ (d.state = 1 → y.state = 2) ∧ (d.state = 4 → y.state = 4 ∧ y.back = 2) ∧
        (s.then_ t).did = (if d.did ∈ s.cur.act.opened then d.parent else s.cur.did)) ∧
      (d.state ≠ 1 → d.state ≠ 2 → d.state ≠ 4 → tells (.dabort f) 1) ∧
      ((d.state = 1 ∨ d.state = 2 ∨ d.state = 4) → ∃ t y, exec (.dabort f) s = .next t ∧ t.mem = s.mem ∧
        t.dom ctx d.did = some y ∧ y.state = 4 ∧ y.phase = 1 ∧ y.fails = d.fails ∧ y.reexec = f.sub.getLsbD 0 ∧
        (s.cur.act.did ∉ s.domTree ctx d.did → s.gave t 8 f.d 0)))) ∧
  (f.sub.getLsbD 0 = true → s.issues i { dg := [f.d] } false = true →
    exec (.dstat f) s = s.retires ((s.begun i { dg := [f.d] } 0).putG f.d s.cur.did.toNat) 8 none) ∧
  (f.sub.getLsbD 0 = false → s.issues i u false = true →
    (named = none → tells (.dstat f) 0) ∧
    ∀ d, named = some d → d.state ≠ 0 →
      tells (.dstat f) (d.state % 16 + d.depth % 16 * 2 ^ 4 + d.fails % 256 * 2 ^ 8 + d.parent.toNat * 2 ^ 32))) ∧
  (∀ (s : State) (ctx did : Nat) (d : Domain), 1 ≤ did → did ≤ 15 →
  let id : BitVec 4 := BitVec.ofNat 4 did
  s.dom ctx id = some d →
  let mine (g : Nat) : Bool := (s.egEntry g).ctx == ctx
  let becomes (x : Instr) (P : Domain → State → Prop) : Prop := ∃ t y, exec x s = .next t ∧ t.dom ctx id = some y ∧ P y t
  (s.mayComplete ctx id = true → (d.erase = false ∨ (d.phase = 9 ∧ s.syncOpen mine = false)) →
    becomes (.domainComplete ctx did) fun y t => y.state = 3 ∧ y.roots = [] ∧ t.mem = s.mem ∧
      ∀ b, d.ev = some b → (vget (t.ctx ctx).ev (b.toNat / 64) 0).getLsbD (b.toNat % 64) = true) ∧
  (s.mayComplete ctx id = false → exec (.domainComplete ctx did) s = .next s) ∧
  (∀ p, becomes (.taskCompletionNotice ctx did p) fun y t => tblGetD y.remote p 0 = tblGetD d.remote p 0 - 1 ∧ y.state = d.state ∧
    t.mem = s.mem) ∧
  (s.actErrors ctx id ≠ [] →
    ((d.state = 1 ∨ d.state = 2 ∨ (d.state = 4 ∧ d.since ≠ s.reft ∧ d.reexec = true)) →
      becomes (.domainError ctx did) fun y _ => y.state = 4 ∧ y.phase = 1 ∧ y.fails = min 255 (d.fails + 1) ∧ y.reexec = true) ∧
    (d.state = 4 → d.since = s.reft → becomes (.domainError ctx did) fun y _ => y.state = 4 ∧ y.phase = d.phase ∧ y.reexec = d.reexec ∧
      y.fails = if d.byError then d.fails else min 255 (d.fails + 1))) ∧
  (d.state = 4 → d.phase = 1 → s.storesLeft ctx id = false → s.areaBad d = false →
    (d.reexec = false → becomes (.domainRestore ctx did) fun y _ => y.state = 5 ∧ y.roots = []) ∧
    (d.reexec = true → d.escalate = false → becomes (.domainRestore ctx did) fun y _ => y.state = 4 ∧ y.phase = 2 ∧ y.reissued = 0)) ∧
  (d.state = 4 → d.phase = 2 → d.roots[d.reissued]? = none →
    becomes (.rootReissue ctx did) fun y _ => y.state = d.back ∧ y.phase = 0) ∧
  (∀ r m, d.state = 4 → d.phase = 2 → d.roots[d.reissued]? = some r → r.msg = some m → (s.core m.cid).sendq.length < 16 →
    becomes (.rootReissue ctx did) fun y t => y.state = 4 ∧ y.reissued = d.reissued + 1 ∧
      ∃ m1, (t.core m.cid).sendq = (s.core m.cid).sendq ++ [m1] ∧ m1.payload = m.payload ∧ m1.addr = m.addr ∧ m1.inFlight = false))

/-! ## System registers, traps and the service cores (R38 to R49, R221 to R224, R381 to R383) -/

/-- R38, R221: what SRD reads at each number of the map; a number that the map does not hold raises ILLEGAL_FIELD.

R39 to R47, R221: what SWR changes: WARN bits are cleared where 1 is written, FPC and SEED take a legal value, TRCC its fields; a
register that is only read keeps its value; a number that the map does not hold raises ILLEGAL_FIELD. -/
def Obligations.SystemRegisterResults : Prop :=
  (∀ (s : State) (f : FI),
  let cid := s.turn.1
  let c := s.core cid
  let n := f.imm.toNat % 4096
  let reads (v : Nat) : Prop := exec (.srd f) s = s.retires ((s.begun (insI f) { dg := [f.d] } 0).putG f.d v) 8 none
  s.issues (insI f) { dg := [f.d] } false = true →
  (n = 0 → reads s.cur.warn.toNat) ∧ (n = 1 → reads s.cur.fpc.toNat) ∧ (n = 2 → reads s.cur.seed.toNat) ∧
  (n = 3 → reads s.cur.clk.toNat) ∧ (n = 4 → reads s.cur.gen.toNat) ∧ (n = 5 → reads s.cur.actinfo.toNat) ∧
  (∀ j < 3, n = 6 + j → reads (vget s.cur.actts j 0).toNat) ∧ (n = 9 → reads s.cur.mbp.toNat) ∧
  (n = 0x0A → reads s.cur.hznev.toNat) ∧
  (∀ j < 16, n = 0x10 + j → let h := vget s.cur.hzn j {}
    reads (h.writer.toNat + h.clock.toNat * 2 ^ 18 + h.scope.toNat * 2 ^ 50 + (if h.v then 2 ^ 53 else 0))) ∧
  (n = 0x100 → reads c.lmb1.toNat) ∧ (n = 0x101 → reads c.lmb2.toNat) ∧ (n = 0x102 → reads c.lmb3.toNat) ∧
  (∀ j < 8, n = 0x108 + j → reads (vget c.prot j 0).toNat) ∧
  (n = 0x110 → reads (s.die (dieOf c.phys)).cyc.toNat) ∧ (n = 0x111 → reads (s.die (dieOf c.phys)).tcyc.toNat) ∧
  (n = 0x112 → reads s.reft.toNat) ∧ (n = 0x113 → reads (min 64 (s.ldpend cid))) ∧ (n = 0x114 → reads c.trcc.toNat) ∧
  (∀ j < 8, n = 0x120 + 4 * j → reads ((c.sfq[j]?.map fun (r : SfqRec) => r.addr).getD 0).toNat) ∧
  (∀ j < 8, n = 0x121 + 4 * j → reads ((c.sfq[j]?.map fun (r : SfqRec) => r.pc).getD 0).toNat) ∧
  (n = 0x140 → reads (((c.sfq.filter (·.v)).length + if c.sfqOvf then 16 else 0) % 2 ^ 64)) ∧
  (∀ j < 33, let e := vget (s.core c.phys).dlyt j {}
    (n = 0x201 + 4 * j → reads e.transit.toNat) ∧ (n = 0x202 + 4 * j → reads e.queue.toNat) ∧ (n = 0x203 + 4 * j → reads e.run.toNat)) ∧
  ((0x0B ≤ n ∧ n ≤ 0x0F ∨ 0x20 ≤ n ∧ n ≤ 0xFF ∨ 0x103 ≤ n ∧ n ≤ 0x107 ∨ 0x284 ≤ n ∧ n ≤ 0x2FF ∨ 0x302 ≤ n ∨
      isSvc cid = false ∧ 0x300 ≤ n) →
    exec (.srd f) s = s.faults { cause := cILLEGAL_FIELD })) ∧
  (∀ (s : State) (f : FI), s.still = true →
  let cid := s.turn.1
  let n := f.imm.toNat % 4096
  let x := s.cur.g64 f.a
  let sl := s.begun (insI f) { g := [f.a] } 0
  let writes (P : State → Slot → Prop) : Prop := ∃ t, exec (.swr f) s = .next t ∧ s.passed t 8 ∧ t.mem = s.mem ∧ P t (s.then_ t)
  s.issues (insI f) { g := [f.a] } false = true →
  (n = 0 → writes fun _ y => y.warn = sl.warn &&& ~~~(x.extractLsb' 0 10) ∧ y.fpc = s.cur.fpc) ∧
  (n = 1 → x.toNat % 8 < 5 → writes fun _ y => y.fpc = x.extractLsb' 0 9 ∧ y.warn = sl.warn) ∧
  (n = 1 → 5 ≤ x.toNat % 8 → writes fun _ y => y.fpc.extractLsb' 3 6 = x.extractLsb' 3 6 ∧
    y.fpc.extractLsb' 0 3 = s.cur.fpc.extractLsb' 0 3 ∧ y.warn = sl.warn ||| wFMTFIX) ∧
  (n = 2 → writes fun _ y => y.seed = if x = 0 then 1 else x) ∧
  (n = 0x114 → writes fun t _ => let v := (t.core cid).trcc
    v.extractLsb' 0 4 = x.extractLsb' 0 4 ∧ v.toNat / 16 = max 10 (min 24 (x.toNat / 16 % 32))) ∧
  (n = 0x1FF → x.getLsbD 0 = true → s.turn.1 = (s.core cid).phys → writes fun t _ => (t.core cid).dlyt = Vector.replicate 33 {}) ∧
  (isSvc cid = true → n = 0x300 → writes fun t _ => (t.core cid).dmpt = x) ∧
  ((3 ≤ n ∧ n ≤ 0x0A ∨ 0x10 ≤ n ∧ n ≤ 0x1F ∨ 0x100 ≤ n ∧ n ≤ 0x102 ∨ 0x108 ≤ n ∧ n ≤ 0x113 ∨ 0x120 ≤ n ∧ n ≤ 0x140 ∨ 0x200 ≤ n ∧ n ≤ 0x283) →
    exec (.swr f) s = s.retires sl 8 none) ∧
  ((0x0B ≤ n ∧ n ≤ 0x0F ∨ 0x20 ≤ n ∧ n ≤ 0xFF ∨ 0x103 ≤ n ∧ n ≤ 0x107 ∨ 0x284 ≤ n ∧ n ≤ 0x2FF ∨ 0x302 ≤ n ∨
      isSvc cid = false ∧ 0x300 ≤ n) →
    exec (.swr f) s = s.faults { cause := cILLEGAL_FIELD }))

/-- R222, R223: TRAP and BKPT fault with their immediate; MARK passes, and leaves a record where marks are traced.

R224, R381 to R383, R435: on a service core KILLG ends every activation of its group, RESUME returns a frozen core to execution,
PGREPLY retries or ends a refused read, and TLBINV removes the translations of its page and sleeps until every flush is
acknowledged, which TLBINV_ACK counts. -/
def Obligations.TrapAndServiceResults : Prop :=
  (∀ s : State,
  let cid := s.turn.1
  let c := s.core cid
  let cl := clusterOf (coreNo c.phys)
  let mark (x : Instr) (i : Ins) : Prop := s.issues i { g := [i.a] } false = true →
    ∃ t, exec x s = .next t ∧ s.passed t i.len ∧ t.mem = s.mem ∧ (s.still = true → s.slotsKept t [] []) ∧
      ((c.trcc.getLsbD 0 && c.trcc.getLsbD 2) = false → (t.cluster cl).trace = (s.cluster cl).trace) ∧
      (c.trcc.getLsbD 0 = true → c.trcc.getLsbD 2 = true → isSvc cid = false → (s.cluster cl).gated = false → (s.cluster cl).loss = 0 → (s.cluster cl).trace.length < 256 →
        ∃ r, (t.cluster cl).trace = (s.cluster cl).trace ++ [r] ∧ r.extractLsb' 0 8 = 3 ∧
          r.extractLsb' 256 64 = BitVec.ofNat 64 i.imm ∧ r.extractLsb' 320 64 = s.cur.g64 i.a ∧ r.extractLsb' 192 64 = s.cur.pc)
  (∀ f, s.issues (insI f) {} false = true →
    exec (.trap f) s = s.faults { cause := cTRAP, aux := BitVec.ofNat 64 (insI f).imm }) ∧
  (∀ f, s.issues (insI f) {} false = true →
    exec (.bkpt f) s = s.faults { cause := cBKPT, aux := BitVec.ofNat 64 ((insI f).imm % 65536) }) ∧
  (∀ f, mark (.mark f) (insI f)) ∧ (∀ f, mark (.markF96 f) (insX f))) ∧
  (∀ (s : State) (f : FR), s.still = true → isSvc s.turn.1 = true →
  let i := insR f
  let a := s.cur.g64 f.a
  let b := s.cur.g64 f.b
  let sl (us : List RegNo) : Slot := s.begun i { g := us, dg := [f.d] } 0
  let goes (us : List RegNo) : Prop := s.issues i { g := us, dg := [f.d] } false = true
  let tells (x : Instr) (us : List RegNo) (v : Nat) : Prop := exec x s = s.retires ((sl us).putG f.d v) 8 none
  let cores := s.coresNamed (a.toNat % 65536)
  (goes [f.a, f.b] → ((∀ l ∈ s.launches, l.lid.toNat ≠ a.toNat % 65536) → tells (.killg f) [f.a, f.b] (2 ^ 63)) ∧
    ∀ l, (s.launches.find? fun l => l.lid.toNat == a.toNat % 65536) = some l →
      (killGroup l a = none → tells (.killg f) [f.a, f.b] (2 ^ 63)) ∧
      ∀ g, killGroup l a = some g →
        let mine (c : Nat) : Prop := c ∈ g.cores.map (s.memberCid l.lid) ∧ (s.core c).lid = some l.lid
        (¬mine s.turn.1 → ∃ t n, exec (.killg f) s = .next t ∧ s.gave t 8 f.d n ∧
          (n = 0 ↔ ∀ c k, mine c → k < 4 → (s.slotAt c k).run = .dormant) ∧
          ∀ c k, mine c → k < 4 → (t.slotAt c k).run = .dormant)) ∧
  (goes [f.a] →
    ((∀ c ∈ cores, (s.core c).frz.frozen = false) → tells (.resume f) [f.a] 1) ∧
    ∀ c, (cores.find? fun c => (s.core c).frz.frozen) = some c →
      ((s.core c).sfqAny = true → tells (.resume f) [f.a] 2) ∧
      ((s.core c).sfqAny = false → ∃ t, exec (.resume f) s = .next t ∧ s.gave t 8 f.d 0 ∧ t.mem = s.mem ∧
        (t.core c).frz.frozen = false ∧ (t.core c).frz.nested = false ∧
        (let k := fld (s.core c).faultRec 224 2
         (t.slotAt c k).pc = (s.slotAt c k).pc + (if f.sub.getLsbD 0 then BitVec.ofNat 64 (s.skipLen c) else 0) ∧
         (t.slotAt c k).g = (s.slotAt c k).g))) ∧
  (goes [f.a, f.b] → let k := a.toNat % 4
    let named := s.coresNamed (a.toNat / 4 % 65536)
    (2 ≤ b.toNat → tells (.pgreply f) [f.a, f.b] 2) ∧
    (b.toNat < 2 → (∀ c ∈ named, s.awaits c k = false) → tells (.pgreply f) [f.a, f.b] 1) ∧
    ∀ c, (named.find? fun c => s.awaits c k) = some c →
      (b = 0 → ∃ t, exec (.pgreply f) s = .next t ∧ s.gave t 8 f.d 0 ∧ t.mem = s.mem ∧
        (∀ id, (s.slotAt c k).run = .sleeping (.posted id) → (t.slotAt c k).run = .running) ∧
        ∀ r ∈ t.reqs, r.isOf c k = true → r.op.isStore = false → r.stage.isRefused = true → r.again = r) ∧
      (b = 1 → s.frozen c = false → ∃ t, exec (.pgreply f) s = .next t ∧ s.gave t 8 f.d 0 ∧ t.mem = s.mem ∧
        (t.core c).frz.frozen = true ∧ (t.core c).faultRec.extractLsb' 192 8 = BitVec.ofNat 8 cPAGE ∧
        (t.core c).faultRec.extractLsb' 0 64 = (s.slotAt c k).pc)) ∧
  (goes [f.a, f.b] → ∃ t x, exec (.tlbinv f) s = .next t ∧ (s.then_ t).run = .sleeping (.tlbinv f.d x.k) ∧ (s.then_ t).pc = s.cur.pc ∧
    t.mem = s.mem ∧ t.invs = s.invs ++ [x] ∧ s.pkg.toNat ∈ x.wait_ ∧
    ∀ c, ∀ e ∈ (t.core c).utlb, tlbOverlap (b.getLsbD 2) (b.toNat / 8 % 64) (a.toNat % 2 ^ 53) (b.toNat % 4) e = false))

/-! ## Requests, answers and local memory (R37, R138 to R148, R161 to R163, R249 to R262, R293 to R302, R374 to R380, R430) -/

/-- R138, R148, R161, R374, R380, R430: a load's data reaches its register, a store's completion ends it, a refused store leaves a
record and freezes its core, one to an unreachable package is UNREACH; a walk gives its request the physical address of its leaf or
refuses it; a multicast becomes one request for each package. -/
def Obligations.AnswerResults : Prop := ∀ (s : State) (id : Nat) (r : Req), s.reqAt id = some r → r.org = 0x3FF →
  r.slot < 4 → r.cid < hostBase → id < s.nextId →
  let gone (t : State) : Prop := ∀ q ∈ t.reqs, q.id ≠ id
  let reports (x : Instr) (cause : BitVec 8) : Prop := r.mc = false → ∃ t, exec x s = .next t ∧ gone t ∧ t.mem = s.mem ∧
    ((s.core r.cid).sfq.length < 8 → (∀ x ∈ (s.core r.cid).sfq, x.v = true) → (t.core r.cid).sfq =
      (s.core r.cid).sfq ++ [{ addr := r.ea, pc := r.pc, slot := BitVec.ofNat 2 r.slot, cause := cause }]) ∧
    (s.frozen r.cid = false → (t.core r.cid).frz.frozen = true ∧ (t.core r.cid).faultRec.extractLsb' 192 8 = BitVec.ofNat 8 cSTORE)
  (∀ x a d, r.stage = .done → r.op = .load → r.mask = 0 → (s.accs.find? fun a => a.gid == r.grp) = some a → a.dest = .g d → d ≠ 0 →
    a.isLoad = true → a.left = 1 → a.raw = 0 → a.exp = 0 → a.slot < 4 → r.off = 0 → a.n = r.n → r.n ≤ 16 → a.keepTag = false →
    ∃ t, exec (.loadResponse id x) s = .next t ∧ gone t ∧ t.mem = s.mem ∧
      (t.slotAt a.cid a.slot).readG d = { val := loadValue a.ty a.n (r.data.toNat / 2 ^ (8 * (r.ea.toNat % 64)) % 2 ^ (8 * r.n)) }) ∧
  (∀ x, r.stage = .done → r.op = .store → ∃ t, exec (.storeAck id x) s = .next t ∧ gone t ∧ t.mem = s.mem) ∧
  (∀ x c, r.stage = .refused c → r.op = .store → reports (.storeFaultReport id x) c) ∧
  (r.stage = .fabric → r.op = .store → reports (.unreachResponse id) sfUNREACH) ∧
  (r.stage = .walk → r.op = .load → r.grp ≠ 0 → (∀ q ∈ s.reqs, q.id ≠ id → q.stage ≠ .walk) →
    (∀ e level a s1, s.walkReq r = (.leaf e level a, s1) → ∃ t q, exec (.pageWalk id) s = .next t ∧ t.reqAt id = some q ∧
      q.stage = .home ∧ q.pa = xlatePa e level (r.ea.toNat % 2 ^ 53) ∧ q.attr = attrOf e ∧ t.mem = s1.mem) ∧
    (∀ c s1, s.walkReq r = (.fault c, s1) → ∃ t q, exec (.pageWalk id) s = .next t ∧ t.reqAt id = some q ∧
      q.stage = .refused c ∧ t.mem = s1.mem)) ∧
  (∀ dests, r.op = .mcast dests none → 1 ≤ r.n → r.ea.toNat % 64 + r.n ≤ 64 →
    ∃ t new, exec (.multicastSplit id) s = .next t ∧ t.mem = s.mem ∧ t.reqs = s.reqs.filter (fun q => q.id != id) ++ new ∧
      new.map (fun q => (q.op, q.ea, q.n)) = (mcList dests).map fun p =>
        (if r.ea.getLsbD 63 = false ∧ r.ea.getLsbD 35 = true then .debugWrite else .store, mcAddr s.pkg r.ea p, r.n))

/-- R262, R293 to R296, R374: a request performs at its target core or at its home, once every earlier one that it is behind has; a
handler run replaces its result's bytes in one step and delivers what it returns. -/
def Obligations.RequestsPerform : Prop := ∀ (s : State) (id : Nat) (r : Req), s.reqAt id = some r → s.mayPerform r = true → r.org = 0x3FF →
  let answers (t : State) (P : Req → Prop) : Prop := ∃ q, t.reqAt id = some q ∧ q.stage = .done ∧ q.ea = r.ea ∧ P q
  (∀ core self dbg off, r.stage = .core → placeOf r.ea = .localMem none core self dbg off →
    let c := s.placeCid r core self
    let own : Bool := isSvc r.cid || (r.cid == c && r.slot < 8)
    (s.dieAt c).gone = false → (s.dieAt c).dead = false →
    (r.op = .load → (s.core c).admits? own r.lid off r.n false false = true → errIn s.errs (lmKey c off) r.n 8 true = false →
      r.ea.toNat % 64 + r.n ≤ 64 →
      ∃ t, exec (.remoteCoreAccess id) s = .next t ∧ t.mem = s.mem ∧ answers t fun q =>
        q.data.toNat / 2 ^ (8 * (r.ea.toNat % 64)) % 2 ^ (8 * r.n) = s.natAt (lmKey c off) r.n) ∧
    (r.op = .load → (s.core c).admits? own r.lid off r.n false false = false →
      ∃ t q, exec (.remoteCoreAccess id) s = .next t ∧ t.mem = s.mem ∧ t.reqAt id = some q ∧ q.stage = .refused xPROT) ∧
    (r.op = .store → (s.core c).admits? own r.lid off r.n true false = true → memWf s.mem = true → r.ea.toNat % 64 + r.n ≤ 64 →
      ∃ t, exec (.remoteCoreAccess id) s = .next t ∧ (answers t fun _ => True) ∧ s.keepsElse t (lmKey c off) r.n ∧
        t.natAt (lmKey c off) r.n = r.data.toNat / 2 ^ (8 * (r.ea.toNat % 64)) % 2 ^ (8 * r.n)) ∧
    (r.op = .store → (s.core c).admits? own r.lid off r.n true false = false →
      ∃ t q, exec (.remoteCoreAccess id) s = .next t ∧ t.mem = s.mem ∧ t.reqAt id = some q ∧ q.stage = .refused sfPROT)) ∧
  (∀ h opv ret v core self dbg off, r.op = .atomic h opv ret v → r.stage = .handler → h.toNat < 12 →
    placeOf r.ea = .localMem none core self dbg off → dbg = false → memWf s.mem = true →
    let c := s.placeCid r core self
    let x := runFixed h.toNat (r.ea.toNat % 64) (ofBytes 512 (s.lmRead c (off / 64 * 64) 64)) r.data
    let n := fixedSize h.toNat
    r.ea.toNat % 64 + n ≤ 64 →
    ∃ t, exec (.handlerRun id) s = .next t ∧ (answers t fun q => q.data = if ret then x.ret else 0) ∧ s.keepsElse t (lmKey c off) n ∧
      t.natAt (lmKey c off) n = x.line.toNat / 2 ^ (8 * (r.ea.toNat % 64)) % 2 ^ (8 * n)) ∧
  (r.stage = .home → inCtl (r.ea.toNat % 2 ^ 53) = false → r.op = .load → r.attr.cg = false → r.attr.rc = false → s.migOf r.pa = none →
    s.lineHeld (r.pa / 64) = false → s.uncheckedPart r = false → s.needsFill r = false → s.lineBad r.pa = false →
    s.vcStopped r = false → r.mc = false → r.slot < 8 →
    ∃ t, exec (.homeAccess id) s = .next t ∧ answers t fun q => q.data = s.pocLine (r.pa / 64))

/-- R37, R251, R253, R254: a deposit arrives in its mailbox register when its presence bit is clear, and waits while it is set; a refresh
of a bank takes place in its cycle of 32 and corrects the single-bit errors of its row, an ephemeral row apart (R267); a sweep marks a
row of age 626. -/
def Obligations.LocalMemoryEventResults : Prop := ∀ (s : State) (c : Nat),
  (∀ dir d, dir < 4 → vget (s.core c).links dir [] = [d] → d.arrived = false →
    (∀ l < 4, l ≠ dir → vget (s.core c).links l [] = []) →
    let k := d.slot.toNat
    let n := d.reg.toNat % 8
    let sl := s.slotAt c k
    (sl.mbp.getLsbD n = false → sl.mbNew.getLsbD n = false → ∃ t, exec (.depositArrival c dir) s = .next t ∧ t.mem = s.mem ∧
      vget (t.slotAt c k).g (56 + n) {} = { val := d.val } ∧ (t.slotAt c k).mbp = sl.mbp ||| BitVec.twoPow 8 n ∧
      vget (t.core c).links dir [] = [] ∧ (t.slotAt c k).warn = sl.warn) ∧
    (sl.mbp.getLsbD n = true → sl.mbNew.getLsbD n = false → ∃ t, exec (.depositArrival c dir) s = .next t ∧ t.mem = s.mem ∧
      t.slotAt c k = sl ∧ vget (t.core c).links dir [] = [{ d with arrived := true }]) ∧
    (sl.mbNew.getLsbD n = true → ∃ t, exec (.depositArrival c dir) s = .next t ∧ t.mem = s.mem ∧
      vget (t.slotAt c k).g (56 + n) {} = { val := d.val } ∧ (t.slotAt c k).warn = sl.warn ||| wCOLLIDE)) ∧
  (∀ bank row, bank < 16 → row < 512 → s.dieRuns (dieOf (s.core c).phys) = true →
    let off := 1024 * row + 64 * bank
    let single : Bool := errIn s.errs (lmKey c off) 64 8 false
    let due : Prop := ∃ i < (7 + (s.dieAt c).code.toNat) / 4, (s.cycOf c - BitVec.ofNat 64 i).toNat % 32 = 2 * bank % 32
    (due → ∃ t, exec (.lmRefresh c bank row) s = .next t ∧ t.mem = s.mem ∧
      vget (t.core c).bankRef bank 0 = s.cycOf c ∧ (∀ b < 16, b ≠ bank → vget (t.core c).bankRef b 0 = vget (s.core c).bankRef b 0) ∧
      ((s.core c).lmb1.toNat ≤ off → off < (s.core c).lmb2.toNat → t.errs = s.errs ∧ (t.core c).corrc = (s.core c).corrc) ∧
      ((off < (s.core c).lmb1.toNat ∨ (s.core c).lmb2.toNat ≤ off) → errIn t.errs (lmKey c off) 64 8 false = false ∧
        errIn t.errs (lmKey c off) 64 8 true = errIn s.errs (lmKey c off) 64 8 true ∧
        (single = false → (t.core c).corrc = (s.core c).corrc) ∧
        ∀ a b, s.errs = [(a, b)] → single = true → (t.core c).corrc = (s.core c).corrc + 1)) ∧
    (¬due → exec (.lmRefresh c bank row) s = .next s)) ∧
  (∀ row, let x := tblGetD (s.core c).rows row {}
    let old : Bool := x.aged || decide (626 ≤ (BitVec.ofNat 16 (s.reft.toNat / 64) - x.stamp).toNat)
    (old = true → ∃ t, exec (.ephemeralSweep c row) s = .next t ∧ t.mem = s.mem ∧ (tblGetD (t.core c).rows row {}).aged = true ∧
      ∀ q, q ≠ row → tblGetD (t.core c).rows q {} = tblGetD (s.core c).rows q {}) ∧
    (old = false → exec (.ephemeralSweep c row) s = .next s))

/-! ## Messages on their way and selection (R206, R228 to R242, R441) -/

/-- R206, R228 to R241: a core's queue issues a message into the network; where its channel has room it becomes a record, where it has
none it goes back and is sent again after its delay, and where it is not admitted it is lost; a hinted one is offered around its
hint; the last payload byte completes the record and sets MSG. -/
def Obligations.MessageEventResults : Prop := ∀ s : State,
  let own (m : Msg) : Prop := m.spkg = s.pkg ∧ m.origin = 0 ∧ m.quiet = false
  (∀ c m, s.dieRuns (dieOf (s.core c).phys) = true → nextIssue [] (s.core c).sendq = some m → m.cid = c → m.origin = 0 →
    fld m.addr 53 10 = 0x3FF → m.hint = none →
    ∃ t, exec (.sendQueueIssue c) s = .next t ∧ t.mem = s.mem ∧ { m with inFlight := true, back := false } ∈ t.msgs ∧
      ∀ x ∈ (t.core c).sendq, x.mid = m.mid → x.inFlight = true) ∧
  (∀ c mid m, ((s.core c).sendq ++ (s.cluster (s.clusterId c)).held ++ s.msgs).find? (fun m => m.mid == mid && m.cid == c && !m.inFlight &&
      m.retry != 0 && decide (m.readyAt.toNat ≤ (s.cycOf c).toNat)) = some m → fld m.addr 53 10 = 0x3FF → m.hint = none →
    ∃ t, exec (.sendRetry c mid) s = .next t ∧ t.mem = s.mem ∧ { m with inFlight := true, back := false } ∈ t.msgs) ∧
  (∀ mid m, (s.msgs.find? fun m => m.mid == mid) = some m → m.inFlight = true → m.back = false → m.hint = none →
    let c := s.msgCid m
    (s.dieAt c).gone = false → s.dieRuns (dieOf (s.core c).phys) = true →
    (∀ b pos, s.judge c m = .room b pos → m.chan < 32 → ∃ t, exec (.messageAccept mid) s = .next t ∧ (∀ x ∈ t.msgs, x.mid ≠ mid) ∧
      ∃ q ∈ ((t.core c).buf m.chan).recs, q.pos = pos ∧ q.msg = m ∧ q.complete = false ∧ q.taken = false ∧ q.size = m.size) ∧
    (s.judge c m = .full → own m → ∃ t, exec (.messageAccept mid) s = .next t ∧ t.mem = s.mem ∧ { m with back := true } ∈ t.msgs) ∧
    (s.judge c m = .never → own m → ∃ t, exec (.messageAccept mid) s = .next t ∧ (∀ x ∈ t.msgs, x.mid ≠ mid) ∧ t.mem = s.mem ∧
      ((s.core m.cid).sfq.length < 8 → (∀ x ∈ (s.core m.cid).sfq, x.v = true) → (t.core m.cid).sfq =
        (s.core m.cid).sfq ++ [{ addr := m.addr, pc := m.pc, slot := BitVec.ofNat 2 m.sslot.toNat, cause := sfSENDREFUSED }]))) ∧
  (∀ mid x m q, (s.msgs.find? fun m => m.mid == mid) = some m → m.back = true → q ∈ (s.core m.cid).sendq → q.mid = mid →
    let k := min 255 (q.retry.toNat + 1)
    ∃ t, exec (.messageRefused mid x) s = .next t ∧ t.mem = s.mem ∧ (∀ y ∈ t.msgs, y.mid ≠ mid) ∧
      (t.core m.cid).retryc = (s.core m.cid).retryc + 1 ∧ { q with
        retry := BitVec.ofNat 8 k, inFlight := false, back := false
        readyAt := s.cycOf m.cid + BitVec.ofNat 64 (if k ≤ 10 then 64 * 2 ^ (k - 1) else 65536) } ∈ (t.core m.cid).sendq) ∧
  (∀ c m rest l s', tblGetD s.spills (coreNo c) [] = m :: rest → s.hintLaunch m = some l →
    (∀ t0, tblGet (coreNo c) s.spillAt = some t0 → 64 ≤ (s.cycOf (coreNo c) - t0).toNat) →
    ((s.cycOf (coreNo c) - m.headAt).toNat < 4096 → s.place m l (!m.anyCore) (aroundHint (coreNo c) (m.hint.getD 0)) = some s' → ∃ t, exec (.spillOffer c) s = .next t ∧
      t.mem = s'.mem ∧ t.cores = s'.cores ∧ (tblGetD t.spills (coreNo c) []).length = rest.length) ∧
    (let s0 := { s with spills := tblSet (coreNo c) ({ m with anyCore := true } :: rest) s.spills }
     4096 ≤ (s.cycOf (coreNo c) - m.headAt).toNat →
     s0.place { m with anyCore := true } l false (aroundHint (coreNo c) (m.hint.getD 0)) = some s' →
      ∃ t, exec (.spillHeadTimeout c) s = .next t ∧ t.mem = s'.mem ∧ t.cores = s'.cores ∧
        (tblGetD t.spills (coreNo c) []).length = rest.length)) ∧
  (∀ c t0, tblGet (coreNo c) s.spillAt = some t0 → (s.cycOf (coreNo c) - t0).toNat < 64 → exec (.spillOffer c) s = .next s) ∧
  (∀ c chan k r, ((s.core c).buf chan).recs.find? (fun r => r.rid == k && !r.pad && !r.complete && !r.freed) = some r → memWf s.mem = true →
    ∃ t, exec (.payloadComplete c chan k true) s = .next t ∧ (∀ j < 4, (t.slotAt c j).msgl = true) ∧
      t.bytesAt (lmKey c (recOff (s.core c) chan r + 32)) r.msg.payload.length = r.msg.payload ∧
      { r with complete := true, arrived := s.reft } ∈ ((t.core c).buf chan).recs)

/-- R23, R24, R232 to R235, R441, R443: a selection starts the oldest record of the channel that is served in a dormant slot, at the
handler's entry with the payload's capability in g3 and the sender's description in g4; ages promote; a watchdog at its limit is a
fault; a stop that is asked for is complete when every slot is dormant. -/
def Obligations.SelectionResults : Prop := ∀ s : State,
  (∀ c k lc prio chan l r, isSvc c = false → s.frozen c = false → s.stopAsked c = false → s.dieRuns (dieOf (s.core c).phys) = true →
    s.waitingSlots c = [] → s.startHeld c = false → s.freeSlot c = some k → s.served c = some (lc, prio, chan) → s.launchOf lc = some l →
    ((s.core lc).buf chan).oldest = some r → selBreak (s.core lc) lc chan = none →
    let e := (s.core lc).handler chan
    ∃ t, exec (.select c) s = .next t ∧ let y := t.slotAt lc k
      y.run = .running ∧ y.pc = e.extractLsb' 0 64 ∧ y.pccTag = true ∧ y.pcc = capWithAddr l.code (e.extractLsb' 0 64) ∧
      y.readG 3 = { val := g3Of (heBase e + r.pos + 32) r.msg.payload.length, tag := true } ∧
      y.readG 4 = { val := g4Of r.msg } ∧ (∀ j, 5 ≤ j → j < 56 → vget y.g j {} = {}) ∧ y.v = Vector.replicate 32 {} ∧
      y.p = Vector.replicate 8 0 ∧ y.loop.lact = false ∧ y.did = r.msg.did ∧ vget y.actts 2 0 = s.reft ∧
      (s.slotAt lc k).mbp = y.mbp ∧ ∃ q ∈ ((t.core lc).buf chan).recs, q.rid = r.rid ∧ q.taken = true) ∧
  (∀ c chan, chan < 32 → let a := vget (s.core c).age chan 0
    let p := vget (s.core c).ep chan 0
    (4096 ≤ a → ∃ t, exec (.agePromotion c chan) s = .next t ∧ t.mem = s.mem ∧ vget (t.core c).age chan 0 = a - 4096 ∧
      vget (t.core c).ep chan 0 = if p = 3 then 3 else p + 1) ∧
    (a < 4096 → exec (.agePromotion c chan) s = .next s)) ∧
  (∀ c k l, s.launchOf c = some l → (s.slotAt c k).run ≠ .dormant → s.frozen c = false →
    (l.timeout ≤ (s.slotAt c k).wdog → exec (.actTimeout c k) s =
      .next (s.preciseFault c k { cause := cACT_TIMEOUT, aux := (s.slotAt c k).actinfo })) ∧
    ((s.slotAt c k).wdog < l.timeout → exec (.actTimeout c k) s = .next s)) ∧
  (∀ c, (s.core c).frz.stopreq = true → (s.core c).frz.stopped = false →
    ((∀ k < 4, (s.slotAt c k).run = .dormant) → ∃ t, exec (.stopComplete c) s = .next t ∧ t.mem = s.mem ∧
      (t.core c).frz.stopped = true ∧ ∀ k < 4, t.slotAt c k = s.slotAt c k) ∧
    ((∃ k < 4, (s.slotAt c k).run ≠ .dormant) → exec (.stopComplete c) s = .next s))

/-! ## Jobs: the matrix engine, the copy unit and collectives (R268 to R290, R305 to R314) -/

/-- R269, R271, R273: a command whose STV waits at a window enters its queue with the next job id, and its slot goes on; a malformed one
is done at once with status 5; a job whose effect has ended and whose accesses are over completes with its status and sets JOB. -/
def Obligations.JobResults : Prop := ∀ s : State,
  (∀ win c k w d len clr warn inc, isColl win = false → s.jqFree win ≠ 0 →
    s.nextSubmit win = some (c, k) → k < 4 → s.stillAt c = true →
    (s.slotAt c k).run = .sleeping (.submit w d len clr warn inc) → w = win → (s.slotAt c k).isRoot = false →
    let v := (s.slotAt c k).readV d
    let tells (t : State) (st : BitVec 2) (status : BitVec 8) : Prop :=
      (t.core c).nextJob = (s.core c).nextJob + 1 ∧ ∃ h ∈ (t.core c).jobs, h.jid = (s.core c).nextJob ∧ h.state = st ∧ h.status = status
    v.pending = false → v.bad = false → cmdVecs v.val = [] →
    (s.jobBad c v.val = false → ∃ t j, exec (.jobAccept win) s = .next t ∧ s.passedAt t c k len ∧ t.mem = s.mem ∧ tells t 0 0 ∧
      (t.cluster win).queue = (s.cluster win).queue ++ [j] ∧ j.cmd = v.val ∧ j.cid = c ∧ j.slot = k ∧ j.jid = (s.core c).nextJob ∧
      j.ended = none ∧ j.running = false ∧ (t.cluster win).lastAcc = coreIndex c) ∧
    (s.jobBad c v.val = true → ∃ t, exec (.jobAccept win) s = .next t ∧ s.passedAt t c k len ∧ t.mem = s.mem ∧ tells t 2 5 ∧
      (t.cluster win).queue = (s.cluster win).queue ∧ ∀ i < 4, (t.slotAt c i).jobl = true)) ∧
  (∀ eng k j st h, isColl eng = false → (s.engineJobs eng)[k]? = some j → j.ended = some st → j.beat.ids = [] → j.beat.more = false →
    j.untold = false → ((s.core j.cid).jobs.find? fun h => h.jid == j.jid && h.seq == j.seq) = some h →
    ∃ t, exec (.jobComplete eng k) s = .next t ∧ t.mem = s.mem ∧ (t.engineJobs eng).length + 1 = (s.engineJobs eng).length ∧
      (∃ h' ∈ (t.core j.cid).jobs, h'.jid = j.jid ∧ h'.state = 2 ∧ h'.status = st ∧ h'.bytes = BitVec.ofNat 32 j.bytes) ∧
      ∀ i < 4, (t.slotAt j.cid i).jobl = true) ∧
  (∀ eng k j, (s.engineJobs eng)[k]? = some j → j.ended = none → exec (.jobComplete eng k) s = .next s)

/-- R275 to R285: MZERO, MTREL and MTCFG act on every tile that they name; MMA accumulates a K step into its selected words, MLOAD
brings a row of words and MSTORE delivers one. -/
def Obligations.MatrixResults : Prop := ∀ (s : State) (cl : Nat) (j : Job), isColl cl = false → s.swapTiles j = s →
  let c := j.cmd
  let tile (t : State) (n : Nat) : Tile := (t.cluster cl).tile n
  let named (n : Nat) : Bool := (cmdTiles c).testBit n
  let ti := c.toNat / 2 ^ 32 % 16
  let goes (op : Nat) (x : Instr) (P : State → Prop) : Prop := s.matrixJob cl op = some j → ∃ t, exec x s = .next t ∧ P t
  let ends (t : State) : Prop := t.jobNow cl j fun q => q.ended = some 0
  let moves (t : State) (last : Nat) : Prop := t.jobNow cl j fun q => q.pos = j.pos + 1 ∧ q.ended = if j.pos = last then some 0 else none
  let each (t : State) (P : Tile → Tile → Prop) : Prop := t.mem = s.mem ∧ ∀ n < 16, if named n then P (tile s n) (tile t n) else tile t n = tile s n
  let zeroed (y : Tile) : Prop := ∀ a b, y.word a b = 0 ∧ y.residue a b = 0
  goes 2 (.mzero cl) (fun t => ends t ∧ each t fun x y => zeroed y ∧ y.released = false ∧ y.owner = x.owner) ∧
  goes 6 (.mtrel cl) (fun t => ends t ∧ each t fun x y => zeroed y ∧ y.released = true ∧ y.owner = x.owner) ∧
  ((∀ n < 16, named n = true → (tile s n).released = true ∨ ∀ q ∈ (s.cluster cl).queue, q.same j = false → (cmdTiles q.cmd).testBit n = false) →
    goes 5 (.mtcfg cl) fun t => ends t ∧ each t fun _ y => zeroed y ∧ y.released = false ∧ y.owner = BitVec.ofNat 3 (c.toNat / 2 ^ 48 % 16)) ∧
  ((∃ n < 16, named n = true ∧ (tile s n).released = false ∧
      ∃ q ∈ (s.cluster cl).queue, q.same j = false ∧ q.ended = none ∧ (cmdTiles q.cmd).testBit n = true) →
    goes 5 (.mtcfg cl) fun t => t.mem = s.mem ∧ (t.jobNow cl j fun q => q.ended = some 1) ∧ ∀ n < 16, tile t n = tile s n) ∧
  (∀ a b ra rb, let sel := cmdSel c
    let rows (m : Nat) : List Nat := if sel = [] then [] else maskRows m
    let g := ((mmaClass a.fmt).map (·.2.1)).getD 8
    (j.token = true ∨ s.tokenFree (s.physCluster cl / 512) = true) → (j.pos = 0 → (tile s ti).sound sel = true) →
    s.mmaOps j.cid c = some (a, b) → s.operandRows j a j.pos (rows (cmdB c 8 2)) = .ok ra →
    s.operandRows j b j.pos (rows (cmdB c 10 2)) = .ok rb →
    goes 1 (.mma cl) fun t => t.mem = s.mem ∧ moves t (cmdB c 5 1) ∧ (∀ n < 16, n ≠ ti → tile t n = tile s n) ∧
      (tile t ti).released = ((tile s ti).released && sel.isEmpty) ∧ ∀ y < 16, ∀ x < 16, (tile t ti).word y x =
        if (y, x) ∈ sel then stepAcc g (tblGetD ra y []) (tblGetD rb x []) ((tile s ti).word y x) else (tile s ti).word y x) ∧
  (∀ val : Nat → List Byte, let fmt := s.rowFmt j
    let cols := cmdCols c j.pos
    (∀ k ∈ cols, s.engineRead j (cmdDesc c 16).core (((cmdDesc c 16).row j.pos 0).toNat + k * tyBytes fmt) (tyBytes fmt) = .ok (val k)) →
    j.pos < 16 → goes 3 (.mload cl) fun t => t.mem = s.mem ∧ moves t 15 ∧ (∀ n < 16, n ≠ ti → tile t n = tile s n) ∧
      ∀ y < 16, ∀ x < 16, (tile t ti).word y x =
        if y = j.pos ∧ x ∈ cols then BitVec.ofNat 32 (roundF 0x0B 0 false false 0 (decodeF fmt (leNat (val x)))).bits else (tile s ti).word y x) ∧
  (∀ k, let fmt := s.rowFmt j
    let d := cmdDesc c 16
    let core := s.clusterCore j.cid d.core
    let off := (d.row j.pos 0).toNat + k * tyBytes fmt
    let r := roundF fmt (cmdRm c) false (cmdSat c && satApplies fmt) j.seed (decodeF 0x0B ((tile s ti).word j.pos k).toNat)
    cmdCols c j.pos = [k] → (j.pos = 0 → (tile s ti).sound (cmdSel c) = true) → memWf s.mem = true →
    (s.core core).admits? false j.lid off (tyBytes fmt) true false = true →
    goes 4 (.mstore cl) fun t => moves t 15 ∧ s.keepsElse t (lmKey core off) (tyBytes fmt) ∧
      t.natAt (lmKey core off) (tyBytes fmt) = r.bits % 2 ^ (8 * tyBytes fmt))

/-- R286 to R289: a copy job takes its positions in order. It asks for what a position reads, makes from that what it writes, and goes
on when the writes have performed; past the last position it ends. GATHER and SCATTER read an index first, FILL reads nothing. -/
def Obligations.CopyResults : Prop := ∀ (s : State) (cl : Nat) (j : Job) (p : CopyPlan),
  let asks (t : State) (r : Req → Prop) (ea : W64) (n : Nat) : Prop :=
    1 ≤ n → ea.toNat % 64 + n ≤ 64 → ∃ q ∈ t.reqs, q.ea = ea ∧ q.n = n ∧ q.cid = j.cid ∧ q.slot = 8 + j.slot ∧ r q ∧
      t.jobNow cl j fun x => x.beat.ids = [q.id]
  let reads (t : State) (st : Nat) (ea : W64) (n : Nat) : Prop :=
    (t.jobNow cl j fun q => q.beat.stage = st) ∧ asks t (fun q => q.op = .load) ea n
  let writes (t : State) (u : Unit_) (bs : List Byte) : Prop := (t.jobNow cl j fun q => q.beat.stage = 3) ∧
    asks t (fun q => q.op = .store ∧ q.mask = byteMask (u.dst.toNat % 64) u.n ∧
      q.data.toNat / 2 ^ (8 * (u.dst.toNat % 64)) % 2 ^ (8 * u.n) = leNat (bs.take u.n)) u.dst u.n
  let moves (op : Nat) (x : Instr) : Prop := s.copies cl op j p →
    (s.copyAt j p = none → ∃ t, exec x s = .next t ∧ t.mem = s.mem ∧ t.jobNow cl j fun q => q.ended = some 0) ∧
    ∀ u, s.copyAt j p = some u →
      (∀ ea n, j.beat.stage = 0 → u.index = none → u.src = some (ea, n) → addrBad (s.jobEa j.cid ea) = false →
        ∃ t, exec x s = .next t ∧ t.mem = s.mem ∧ reads t 2 (s.jobEa j.cid ea) n) ∧
      (∀ ea, j.beat.stage = 0 → u.index = some ea → ∃ t, exec x s = .next t ∧ t.mem = s.mem ∧ reads t 1 ea 4) ∧
      (j.beat.stage = 0 → u.index = none → u.src = none → addrBad (s.jobEa j.cid u.dst) = false → s.jobConfined j u.dst u.n = false →
        ∃ t, exec x s = .next t ∧ t.mem = s.mem ∧ writes t u (copyBytes p j.cmd u j.pos j.seed []).1) ∧
      (∀ bs, j.beat.stage = 2 → s.askedOf j.beat.ids = .done bs → addrBad (s.jobEa j.cid u.dst) = false → s.jobConfined j u.dst u.n = false →
        ∃ t, exec x s = .next t ∧ t.mem = s.mem ∧ writes t u (copyBytes p j.cmd u j.pos j.seed bs).1) ∧
      (∀ bs, j.beat.stage = 3 → s.askedOf j.beat.ids = .done bs → (∀ i ∈ j.beat.ids, (s.reqAt i).isSome = true) →
        ∃ t, exec x s = .next t ∧ t.mem = s.mem ∧ t.jobNow cl j fun q => q.pos = j.pos + u.pos ∧ q.beat.stage = 0 ∧ q.ended = none ∧
          q.bytes = j.bytes + u.n)
  moves 0x10 (.copy cl) ∧ moves 0x11 (.conv cl) ∧ moves 0x12 (.quant cl) ∧ moves 0x13 (.gather cl) ∧
  moves 0x14 (.scatter cl) ∧ moves 0x15 (.fill cl)

/-- R305 to R314: a member reads its package list, then polls its gate; it runs through its steps, sending partials to the other
members; a packet with other parameters ends it MALFORMED, an end elsewhere ends it too; CEARB sets its ports, CEFENCE waits for
what stands before it. -/
def Obligations.CollectiveResults : Prop := ∀ (s : State) (sd k : Nat) (j : Job),
  let eng := 8192 + sd
  let moves (op : Nat) (x : Instr) : Prop := s.collects sd k op j →
    (j.beat.stage = 0 → clOver j = true → cmdB j.cmd 56 8 = 0 → ∃ t, exec x s = .next t ∧ t.mem = s.mem ∧ t.jobNow eng j fun q => q.ended = some 0) ∧
    (∀ off n, j.beat.stage = 0 → clOver j = false → (clRing j = false ∨ j.coll.step ≠ clNp j) → clRead s j = some (off, n) →
      ∃ t, exec x s = .next t ∧ t.mem = s.mem ∧ (t.jobNow eng j fun q => q.beat.stage = 2) ∧
        let ea := addN (clAddr s j 16) off
        (1 ≤ n → ea.toNat % 64 + n ≤ 64 → ∃ q ∈ t.reqs, q.ea = ea ∧ q.n = n ∧ q.op = .load ∧ q.cid = j.cid)) ∧
    (∀ bs, j.beat.stage = 2 → s.askedOf j.beat.ids = .done bs →
      let x2 := s.collHave { j with beat := {} } bs
      ∃ t, exec x s = .next t ∧ t.mem = s.mem ∧ t.out = x2.1.out ∧ t.jobNow eng j fun q => q.coll = x2.2.coll ∧ q.beat = x2.2.beat)
  let partial_ (p : Nat) (ws : List W64) : Out := .partial_ p (BitVec.ofNat 32 (cmdB j.cmd 8 4)) (collHead j 0 ++ ws)
  let same (t : State) : Prop := t.mem = s.mem ∧ t.out = s.out
  moves 0x20 (.areduce sd k) ∧ moves 0x21 (.rscatter sd k) ∧ moves 0x22 (.agather sd k) ∧ moves 0x23 (.bcast sd k) ∧
  (s.collJob sd k = some j → isCollOp (cmdOp j.cmd) = true → s.mayStart j = true → j.coll.listOk = false →
    (j.beat.stage = 0 → j.ended = none → s.resumed j = none → ∃ t, exec (.collectiveListRead sd k) s = .next t ∧ same t ∧
      t.jobNow eng j fun q => q.beat.stage = 1) ∧
    (∀ bs, j.beat.stage = 1 → s.askedOf j.beat.ids = .done bs → ∃ t, exec (.collectiveListRead sd k) s = .next t ∧ same t ∧
      t.jobNow eng j fun q => q.coll.pkgs = listOf bs ∧
        (listBad s.pkg.toNat (listOf bs) = false → q.coll.listOk = true) ∧
        (listBad s.pkg.toNat (listOf bs) = true → q.ended = some (j.ended.getD 5)))) ∧
  (s.collJob sd k = some j → isCollOp (cmdOp j.cmd) = true → cmdB j.cmd 40 8 ≠ 0 → j.coll.listOk = true → j.coll.gateOk = false →
    (j.beat.stage = 0 → j.ended = none → j.coll.pollAt.toNat ≤ s.reft.toNat → ∃ t, exec (.collectiveGatePoll sd k) s = .next t ∧ same t ∧
      t.jobNow eng j fun q => q.beat.stage = 1 ∧ q.coll.pollAt = s.reft + 256) ∧
    (∀ bs, j.beat.stage = 1 → s.askedOf j.beat.ids = .done bs → ∃ t, exec (.collectiveGatePoll sd k) s = .next t ∧ same t ∧
      t.jobNow eng j fun q => q.beat = {} ∧ q.coll.gateOk = decide (cmdB j.cmd 48 8 ≤ leNat bs))) ∧
  (∀ peer data, s.collJob sd k = some j → isCollOp (cmdOp j.cmd) = true → j.ended = none → j.coll.listOk = true →
    peer ∈ j.coll.pkgs → peer ≠ s.pkg.toNat →
    let st : BitVec 8 := (data.getD 0 0).extractLsb' 0 8
    let n := clNp j
    ((st = 4 ∨ st = 5) → ∃ t, exec (.collectiveStep sd k peer data) s = .next t ∧ same t ∧ t.jobNow eng j fun q => q.ended = some st) ∧
    (st ≠ 4 → st ≠ 5 → data.take (collHead j 0).length ≠ collHead j 0 → ∃ t, exec (.collectiveStep sd k peer data) s = .next t ∧ same t ∧
      t.jobNow eng j fun q => q.ended = some 5) ∧
    (∀ ws, data = collHead j 0 ++ ws → j.running = true → (cmdOp j.cmd = 0x20 ∨ cmdOp j.cmd = 0x21) → clTree j = false →
      peer = clPkg j (clRank s j + n - 1) → j.beat.stage = 4 → 1 ≤ j.coll.step → j.coll.step + 1 < n →
      ∃ t, exec (.collectiveStep sd k peer data) s = .next t ∧ t.mem = s.mem ∧
        t.out = s.out ++ [partial_ (clPkg j ((clRank s j + 1) % n)) (List.zipWith (clCombine j) ws j.coll.acc)] ∧
        t.jobNow eng j fun q => q.coll.step = j.coll.step + 1 ∧ q.beat = {})) ∧
  (s.collJob sd k = some j → cmdOp j.cmd = 0x24 → j.ended = none →
    let named (q : Nat) : Bool := (cmdB j.cmd 8 4).testBit q
    let set : BitVec 4 × BitVec 4 × Nat := (BitVec.ofNat 4 (cmdB j.cmd 4 1), BitVec.ofNat 4 (cmdB j.cmd 4 1 / 16), cmdB j.cmd 5 1)
    let now (t : State) (P : Port → Port → Prop) : Prop := ∀ q < 32,
      if named q = true then P (tblGetD s.fab.ports q {}) (tblGetD t.fab.ports q {}) else tblGetD t.fab.ports q {} = tblGetD s.fab.ports q {}
    (j.running = false → s.mayStart j = true → s.collFull sd = false → ∃ t, exec (.cearb sd k) s = .next t ∧ same t ∧
      (t.jobNow eng j fun q => q.running = true ∧ q.ended = none) ∧ now t fun p p' => p' = { p with newArb := some set }) ∧
    (j.running = true → ∃ t, exec (.cearb sd k) s = .next t ∧ same t ∧ (t.jobNow eng j fun q => q.ended = some 0) ∧
      now t fun p p' => (p.newArb = none → p' = p) ∧ ∀ a b n, p.newArb = some (a, b, n) →
        p'.wcoll = a ∧ p'.wother = b ∧ p'.share = n ∧ p'.win = 0 ∧ p'.winColl = 0 ∧ p'.newArb = none)) ∧
  (s.collJob sd k = some j → cmdOp j.cmd = 0x25 → j.ended = none → (j.running = true ∨ s.mayStart j = true) →
    (k = 0 → ∃ t, exec (.cefence sd k) s = .next t ∧ same t ∧ t.jobNow eng j fun q => q.ended = some 0) ∧
    (k ≠ 0 → cmdB j.cmd 4 1 = 0 → ∃ t, exec (.cefence sd k) s = .next t ∧ same t ∧ t.jobNow eng j fun q => q.ended = none ∧ q.running = true))

/-! ## The fabric (R454 to R471) -/

/-- R458 to R467, R469, R470: the routing table holds the minimal paths over live links; a packet enters the fabric, or leaves its
intermediate package on the way to its destination; a flit in order is acknowledged, one out of order is not, a corrupt one is
counted; a link goes down, is retrained and comes up; the inactive die map is written, and takes over. -/
def Obligations.FabricResults : Prop := ∀ s : State,
  let same (t : State) : Prop := t.mem = s.mem ∧ t.cores = s.cores
  let crcs (t : State) (q : Nat) : Prop := tblGetD (t.port q).count 0 0 = tblGetD (s.port q).count 0 0 + 1
  (∃ t, exec .routeTableBuild s = .next t ∧ same t ∧ ∀ d < 993, d ≠ s.pkg.toNat → s.pkgLost d = false →
    (s.minRoute d = none → t.route d = none) ∧
    ∀ h q, s.minRoute d = some (h, q) → ∃ r, t.route d = some r ∧ r.hops = h ∧ r.mport = q ∧ r.ints.length ≤ 8 ∧
      ∀ i ∈ r.ints, i < 993 ∧ i ≠ d ∧ i ≠ s.pkg.toNat ∧ (s.minRoute i).isSome = true) ∧
  (∀ sd k, vget s.dir.live sd false = true → s.halted = false →
    (∀ r, s.unsent[k]? = some r → r.mc = false → ∃ t o, exec (.packetInject sd k) s = .next t ∧ same t ∧
      ((s.route (fld r.ea 53 10)).isSome = true →
        t.out = s.out ++ .request r :: o ∧ ∀ q ∈ t.reqs, q.id = r.id → q.sent = true)) ∧
    (∀ r, s.unsent[k]? = some r → r.mc = true → (sd = 0 ∨ vget s.dir.live 0 false = false) → ∃ t o, exec (.packetInject sd k) s = .next t ∧ same t ∧
      ((s.route (fld r.ea 53 10)).isSome = true → (∃ q < 32, (s.reachMask q).getLsbD (fld r.ea 53 10) = true) →
        t.out = s.out ++ (s.mcSiblings r).map Out.request ++ o ∧ ∀ c ∈ s.mcSiblings r, ∀ q ∈ t.reqs, q.id = c.id → q.sent = true)) ∧
    (∀ i x, s.unsent.length ≤ k → s.unpacked[k - s.unsent.length]? = some i → s.out[i]? = some x →
      ∃ t o, exec (.packetInject sd k) s = .next t ∧ same t ∧ t.out = s.out ++ o)) ∧
  (∀ k x r, s.fab.packets[k]? = some x → x.ph = false → x.ipkg = s.pkg.toNat → x.port = none → x.mc = false → x.dpkg ≠ s.pkg.toNat →
    s.route x.dpkg = some r → exec (.intermediateForward k) s = .next (({ s with fab := { s.fab with
      packets := removeFirst (· == x) s.fab.packets ++ [{ ({ x with ph := true } : Packet).stamp with port := some r.mport }] } }).send r.mport)) ∧
  (∀ q f, (s.port q).state = 1 → (s.port q).dead = false →
    (flitIntact f = false → ∃ t, exec (.flitReceive q f) s = .next t ∧ same t ∧ crcs t q ∧ (t.port q).ack = (s.port q).ack) ∧
    (flitIntact f = true → flitType f < 2 → flitSeq f = (s.port q).ack + 1 →
      (∃ t, exec (.flitReceive q f) s = .next t ∧ same t ∧ (t.port q).ack = flitSeq f) ∧
      (flitType f = 1 → ∃ t, exec (.syncReceive q f) s = .next t ∧ same t ∧ (t.port q).ack = flitSeq f)) ∧
    (flitIntact f = true → flitType f < 2 → flitSeq f ≠ (s.port q).ack + 1 →
      ∃ t, exec (.flitReceive q f) s = .next t ∧ same t ∧ (t.port q).ack = (s.port q).ack)) ∧
  (∀ q f, ((s.port q).state ≠ 1 ∨ (s.port q).dead = true) →
    exec (.flitReceive q f) s = .next s ∧ exec (.syncReceive q f) s = .next s ∧ exec (.syncSend q) s = .next s) ∧
  (∀ q, let p := s.port q
    p.state = 1 → p.dead = false → p.replay.length < 512 →
    (256 ≤ p.sinceSync → ∃ t f o, exec (.syncSend q) s = .next t ∧ same t ∧ t.out = s.out ++ .flit q f :: o ∧
      f = (p.sendSeq 1 0 false false (packFields 928 ((List.range 8).map fun v => (16 * v, 16, vget p.free v 0)))).2) ∧
    (p.sinceSync < 256 → exec (.syncSend q) s = .next s)) ∧
  (∀ q a n, let p := s.port q
    portPeer s.pkg.toNat q = some n → p.state = 1 →
    ((8 ≤ p.naks ∨ 2000 ≤ (s.reft - p.lastOk).toNat) → ∃ t o, exec (.linkDown q a) s = .next t ∧ same t ∧ (t.port q).state = 0 ∧
      (t.port q).replay = [] ∧ t.out = s.out ++ o ++ [.linkAck n q p.ack]) ∧
    (p.naks < 8 → (s.reft - p.lastOk).toNat < 2000 → exec (.linkDown q a) s = .next s) ∧
    (∃ t, exec (.linkLoss q true) s = .next t ∧ same t ∧ t.out = s.out ∧ t.port q = { p with dead := true }) ∧
    (∃ t, exec (.linkLoss q false) s = .next t ∧ same t ∧ crcs t q ∧ (t.port q).ack = p.ack) ∧
    exec (.linkRetrain q) s = .next s) ∧
  (∀ q < 32, (portPeer s.pkg.toNat q).isSome = true →
    ((s.port q).state = 0 → ∃ t, exec (.linkRetrain q) s = .next t ∧ same t ∧ t.out = s.out ∧ t.port q = { s.port q with state := 2 }) ∧
    ((s.port q).state = 2 → ∃ t, exec (.linkRetrain q) s = .next t ∧ same t ∧ t.out = s.out ∧ (t.port q).state = 1 ∧ (t.port q).seq = 0 ∧
      (t.port q).ack = 0xFFF ∧ (t.port q).replay = [] ∧ (t.port q).credits = Vector.replicate 8 256)) ∧
  (∀ e < 16, ∀ val, s.fab.draining = false → ∃ t, exec (.dieMapUpdate e val) s = .next t ∧ same t ∧ t.fab.map = s.fab.map ∧
    vget (if s.fab.epoch then t.fab.map0 else t.fab.map1) e 0 = val ∧ ∀ n < 16, n ≠ e →
      vget (if s.fab.epoch then t.fab.map0 else t.fab.map1) n 0 = vget (if s.fab.epoch then s.fab.map0 else s.fab.map1) n 0) ∧
  (s.fab.draining = false → memWf s.mem = true → ∃ t, exec .epochFlip s = .next t ∧ t.cores = s.cores ∧ t.fab.epoch = !s.fab.epoch ∧
    t.fab.draining = true ∧ t.fab.map0 = s.fab.map0 ∧ t.fab.map1 = s.fab.map1 ∧ s.keepsElse t (flashKey flashMap) 32 ∧
    t.bytesAt (flashKey flashMap) 32 = t.fab.mapBytes) ∧
  (s.fab.draining = true → exec .epochFlip s = .next s ∧ ∀ e val, exec (.dieMapUpdate e val) s = .next s) ∧
  ((∀ k ∈ s.fab.packets, k.epoch = s.fab.epoch) → ∃ t, exec .epochDrained s = .next t ∧ same t ∧ t.fab = { s.fab with draining := false }) ∧
  ((∃ k ∈ s.fab.packets, k.epoch ≠ s.fab.epoch) → exec .epochDrained s = .next s)

/-! ## M-dies: handlers, HBM and the LLC (R297 to R300, R393 to R411) -/

/-- R297, R299, R300, R399, R405 to R411: a staged image that is valid is installed, and a removal removes; a faulty one sets CODE and
INDEX. A request that is first in its bank is served, its line then fills the LLC; a refresh slot blocks its bank group or is owed
while a latency-critical request is there; forced and per-bank refreshes begin and end in their time. -/
def Obligations.MemoryDieResults : Prop := ∀ s : State,
  let same (t : State) : Prop := t.mem = s.mem ∧ t.cores = s.cores
  (∀ n, 12 ≤ n → n < 32 → (s.hent n).coming = none →
    (∀ img, (s.hent n).byte 0x80 = 1 → (s.hent n).validate = .ok img → ∃ t, exec (.handlerInstall n) s = .next t ∧ same t ∧
      (t.hent n).code = 5 ∧ (t.hent n).coming = some img ∧ (t.hent n).inst = (s.hent n).inst) ∧
    (∀ c i, (s.hent n).byte 0x80 = 1 → (s.hent n).validate = .error (c, i) → ∃ t, exec (.handlerInstall n) s = .next t ∧ same t ∧
      t.hent n = { s.hent n with code := BitVec.ofNat 8 c, index := BitVec.ofNat 8 i }) ∧
    ((s.hent n).byte 0x80 = 0 → ∃ t, exec (.handlerRemove n) s = .next t ∧ same t ∧
      (t.hent n).code = 5 ∧ (t.hent n).coming = some none ∧ (t.hent n).inst = (s.hent n).inst)) ∧
  (∀ n, (s.hent n).coming.isSome = true → (∃ t, exec (.handlerInstall n) s = .next t ∧ same t ∧ t.hent n = s.hent n) ∧
    ∃ t, exec (.handlerRemove n) s = .next t ∧ same t ∧ t.hent n = s.hent n) ∧
  (∀ n img, (s.hent n).coming = some img → ∃ t, exec (.handlerInstallDone n) s = .next t ∧ same t ∧
    ((s.hent n).spoilt = false → (t.hent n).inst = img) ∧ (t.hent n).code = 0 ∧ (t.hent n).coming = none) ∧
  (∀ md k r, (s.hbmQueue md)[k]? = some r → let p := hbmPlace r.pa
    let c := s.pchan md p.stack p.q
    (s.mdie md).lost = false → c.forced = none → s.firstInBank r = true →
    (tblGet (p.bank / 4) c.blocked = none → ∃ t, exec (.hbmRequest md k) s = .next t ∧ same t ∧
      (∀ q ∈ t.reqs, q.id = r.id → q.stage = .fill) ∧ tblGet p.bank (t.pchan md p.stack p.q).rows = some p.row) ∧
    ((tblGet (p.bank / 4) c.blocked).isSome = true → exec (.hbmRequest md k) s = .next s)) ∧
  (∀ md k r, (s.hbmQueue md)[k]? = some r → ((s.mdie md).lost = true ∨ s.firstInBank r = false ∨
    (s.pchan md (hbmPlace r.pa).stack (hbmPlace r.pa).q).forced.isSome = true) → exec (.hbmRequest md k) s = .next s) ∧
  (∀ k r, (s.reqs.filter fun r => r.stage == .fill)[k]? = some r →
    let waits : Bool := r.attr.erase && (s.llcHome (r.pa / 64)).isNone && s.errs.contains (cellKey (r.pa / 64), true) &&
      !s.errs.contains (poisonKey (r.pa / 64), true)
    (waits = false → ∃ t, exec (.llcFill k) s = .next t ∧ t.cores = s.cores ∧ (t.llcHome (r.pa / 64)).isSome = true ∧
      ∀ q ∈ t.reqs, q.id = r.id → q.stage = .home) ∧
    (waits = true → exec (.llcFill k) s = .next s)) ∧
  (∀ md st q, md < 6 → st < 2 → q < 64 → q ≤ s.reft.toNat → (s.reft.toNat - q) % 61 = 0 →
    let k := (s.reft.toNat - q) / 61
    let c := s.pchan md st q
    let g := k % 16
    let bank := 4 * g + k / 16 % 4
    c.slot ≤ k →
    ((s.hbm md st).down = true → ∃ t, exec (.refreshSlot md st q) s = .next t ∧ same t ∧ t.pchan md st q = { c with slot := k + 1 }) ∧
    ((s.hbm md st).down = false → c.forced.isSome = true → ∃ t, exec (.refreshSlot md st q) s = .next t ∧ same t ∧
      t.pchan md st q = { c with slot := k + 1, defer_ := c.defer_ ++ [k] }) ∧
    ((s.hbm md st).down = false → c.forced = none →
    (s.latIn md st q g = false → ∃ t, exec (.refreshSlot md st q) s = .next t ∧ same t ∧ (t.pchan md st q).slot = k + 1 ∧
      s.reft.toNat + 200 ≤ tblGetD (t.pchan md st q).blocked g 0) ∧
    (s.latIn md st q g = true → c.owed.length < 8 → ∃ t, exec (.refreshSlot md st q) s = .next t ∧ same t ∧
      t.pchan md st q = { c with slot := k + 1, owed := c.owed ++ [bank] }) ∧
    (s.latIn md st q g = true → 8 ≤ c.owed.length → ∃ t, exec (.refreshSlot md st q) s = .next t ∧ same t ∧
      t.pchan md st q = { c with slot := k + 1, owed := [], forced := some (s.reft.toNat, false) }))) ∧
  (∀ md st q, st < 2 → let c := s.pchan md st q
    (∀ t0, c.forced = some (t0, false) → t0 + 52 ≤ s.reft.toNat → ∃ t, exec (.allbankRefreshStart md st q) s = .next t ∧ same t ∧
      t.pchan md st q = { c with rows := [], blocked := [], forced := some (t0, true) }) ∧
    (∀ t0 : Nat, c.forced = some (t0, false) → s.reft.toNat < t0 + 52 → exec (.allbankRefreshStart md st q) s = .next s) ∧
    (∀ t0, c.forced = some (t0, true) → s.reft.toNat < t0 + 402 → exec (.allbankRefreshEnd md st q) s = .next s) ∧
    (∀ t0, c.forced = some (t0, true) → t0 + 402 ≤ s.reft.toNat → c.defer_ = [] → ∃ t, exec (.allbankRefreshEnd md st q) s = .next t ∧ same t ∧
      t.pchan md st q = { c with rows := [], forced := none }) ∧
    (∀ bank u, tblGet (bank / 4) c.blocked = some u → u ≤ s.reft.toNat → ∃ t, exec (.perBankRefreshEnd md st q bank) s = .next t ∧ same t ∧
      t.pchan md st q = { c with rows := tblErase bank c.rows, blocked := tblErase (bank / 4) c.blocked })) ∧
  (∀ md st, st < 2 → s.power.notch = 20 → 1000 ≤ s.reft.toNat - (s.hbm md st).lastReq →
    (∀ r ∈ s.hbmQueue md, (hbmPlace r.pa).stack ≠ st) → ∃ t, exec (.hbmRankPowerDown md st) s = .next t ∧ same t ∧ (t.hbm md st).down = true) ∧
  (∀ md st, s.power.notch ≠ 20 → exec (.hbmRankPowerDown md st) s = .next s)

/-- R394 to R398: whatever form a line is coded in, its bytes come back. -/
def Obligations.CompressionLosesNothing : Prop := ∀ (d : W512) (cmp : Bool),
  let m := (hhChoose d cmp).1
  hhDecode (hhHeader d m) (hhPayload d m) = some d ∧ (hhPayload d m).length = (hhChoose d cmp).2 ∧ (hhChoose d cmp).2 ≤ 8

/-! ## The directory and foreign lines (R383, R412 to R421) -/

/-- R383, R416 to R421: what a request from another package finds at the home and what it leaves, what an acknowledgement does, and how
a holder answers its home; a write-protected line is not granted for writing; an invalidation of translations ends with its last acknowledgement. -/
def Obligations.DirectoryResults : Prop := ∀ s : State,
  let same (t : State) : Prop := t.mem = s.mem ∧ t.cores = s.cores
  let outs (t : State) (k p pl : Nat) (d : W512) (tags : BitVec 4) : Prop := t.out = s.out ++ [.directory k p pl d tags]
  (∀ r pl, s.dirTakes r = true → s.dir.queue = [] → s.transAt pl = none → s.lineHeld pl = false → s.dir.trans.length < 4096 →
    (∀ ctx vpn, s.dirGet pl = none → (s.dirSet pl).length < 16 →
      (∃ t, exec (.gets r pl ctx vpn) s = .next t ∧ same t ∧ outs t 8 r pl (s.pocLine pl) (s.pocTags pl) ∧
        t.dirGet pl = some { ctx := ctx, vpn := vpn, pline := pl, state := stE, owner := r }) ∧
      (s.protLine pl = false → ∃ t, exec (.getm r pl ctx vpn) s = .next t ∧ same t ∧ outs t 9 r pl (s.pocLine pl) (s.pocTags pl) ∧
        t.dirGet pl = some { ctx := ctx, vpn := vpn, pline := pl, state := Machine.stM, owner := r }) ∧
      (s.protLine pl = true → ∃ t, exec (.getm r pl ctx vpn) s = .next t ∧ same t ∧ outs t 14 r pl (s.pocLine pl) (s.pocTags pl) ∧
        t.dirGet pl = none)) ∧
    (∀ e, s.dirGet pl = some e → e.owner ≠ r →
      (e.state = Machine.stM → ∃ t, exec (.gets r pl e.ctx e.vpn) s = .next t ∧ same t ∧ outs t 4 e.owner pl (BitVec.ofNat 512 r) 0 ∧
        t.dirGet pl = some { e with state := stO, crs := false, shr := [r] }) ∧
      (s.protLine pl = false → (e.state = Machine.stM ∨ e.state = stE) → ∃ t, exec (.getm r pl e.ctx e.vpn) s = .next t ∧ same t ∧ outs t 5 e.owner pl (BitVec.ofNat 512 r) 0 ∧
        t.dirGet pl = some { e with state := Machine.stM, owner := r, crs := false, shr := [] }) ∧
      ((e.state = Machine.stM ∨ e.state = stE ∨ e.state = stO) → ∀ d, (exec (.putm r pl d) s = .next (s.outDir 11 r pl 0) ∧
        exec (.puto r pl d) s = .next (s.outDir 11 r pl 0) ∧ exec (.pute r pl) s = .next (s.outDir 11 r pl 0)))) ∧
    (∀ e, s.dirGet pl = some e → e.owner = r →
      ((e.state = Machine.stM ∨ e.state = stE) → ∀ d, ∃ t o, exec (.putm r pl d) s = .next t ∧ t.cores = s.cores ∧
        t.out = o ++ [.directory 11 r pl 0 0] ∧ t.dirGet pl = none) ∧
      (e.state = stO → e.shr ≠ [] → ∀ d, ∃ t o, exec (.puto r pl d) s = .next t ∧ t.cores = s.cores ∧
        t.out = o ++ [.directory 11 r pl 0 0] ∧ t.dirGet pl = some { e with state := stS }) ∧
      (e.state = stE → ∃ t, exec (.pute r pl) s = .next t ∧ same t ∧ outs t 11 r pl 0 0 ∧ t.dirGet pl = none)) ∧
    (∀ e, s.dirGet pl = some e → e.state = stS → e.crs = false → ∃ t, exec (.puts r pl) s = .next t ∧ same t ∧ outs t 11 r pl 0 0 ∧
      t.dirGet pl = if e.shr.filter (· != r) = [] then none else some { e with shr := e.shr.filter (· != r) })) ∧
  (∀ r pl ctx vpn d, s.dirTakes r = false → exec (.gets r pl ctx vpn) s = .next s ∧ exec (.getm r pl ctx vpn) s = .next s ∧
    exec (.putm r pl d) s = .next s ∧ exec (.puto r pl d) s = .next s ∧ exec (.pute r pl) s = .next s ∧ exec (.puts r pl) s = .next s) ∧
  (∀ p pl x e, s.dir.queue = [] → s.transAt pl = some x → p ∈ x.wait_ → s.dirGet pl = some e →
    (x.wait_.filter (· != p) ≠ [] → ∃ t, exec (.invalidateAck p pl none) s = .next t ∧ same t ∧ t.out = s.out ∧ t.dirGet pl = some e ∧
      t.transAt pl = some { x with wait_ := x.wait_.filter (· != p) }) ∧
    (x.wait_.filter (· != p) = [] → x.getM = true → x.local_ = none → x.recalled = false → e.state = stS →
      ∃ t, exec (.invalidateAck p pl none) s = .next t ∧ same t ∧ t.transAt pl = none ∧
        outs t (if x.home then 9 else 10) x.req pl (if x.home then s.pocLine pl else 0) (if x.home then s.pocTags pl else 0) ∧
        t.dirGet pl = some { e with state := Machine.stM, owner := x.req, shr := [], crs := false }) ∧
    (x.lost = true → 50000 ≤ (s.reft - x.since).toNat → ∃ t, exec (.directoryOwnerTimeout pl) s = .next t ∧ same t ∧ t.transAt pl = none ∧
      (s.ownerAwaited x = true → (poisonKey pl, true) ∈ t.errs)) ∧
    (x.lost = false ∨ (s.reft - x.since).toNat < 50000 → exec (.directoryOwnerTimeout pl) s = .next s)) ∧
  (∀ r pl ctx vpn x, s.dirTakes r = true → s.dir.queue = [] → s.transAt pl = some x → ∃ t, exec (.gets r pl ctx vpn) s = .next t ∧ same t ∧
    t.out = s.out ∧ t.dir.ents = s.dir.ents ∧ t.dir.trans = s.dir.trans ∧ t.dir.queue = [.gets r pl ctx vpn]) ∧
  (∀ h ctx v l r, s.llcForeign h ctx v = some l →
    (∃ t, exec (.directoryForward h ctx v r true) s = .next t ∧ same t ∧ outs t (l.outKind 17) r l.hline (s.lineOut l) l.tags ∧ t.llcForeign h ctx v = none) ∧
    (∃ t, exec (.directoryForward h ctx v r false) s = .next t ∧ same t ∧ outs t (l.outKind 16) r l.hline (s.lineOut l) l.tags ∧
      t.llcForeign h ctx v = some { l with cst := if r = h ∨ l.cst = cstE ∨ l.cst = cstS then cstS else cstO }) ∧
    (∃ t, exec (.directoryInvalidate h ctx v) s = .next t ∧ same t ∧ t.llcForeign h ctx v = none ∧
      if l.cst = cstM ∨ l.cst = cstO then outs t (l.outKind 13) h l.hline (s.lineOut l) l.tags else outs t 12 h l.hline 0 0)) ∧
  (∀ h v ctx, ∃ t, exec (.putAck h v ctx) s = .next t ∧ same t ∧ t.out = s.out ∧
    t.dir = { s.dir with wbBuf := removeFirst (fun (x : WbEnt) => x.pkg == h && x.ctx == ctx && x.line == v) s.dir.wbBuf }) ∧
  (∀ h ctx v w, s.llcForeign h ctx v = none → s.wbLine h ctx v = some w → w.dirty = true → w.bad = false →
    ∃ t, exec (.directoryInvalidate h ctx v) s = .next t ∧ same t ∧ outs t 13 h w.hline w.data w.tags) ∧
  (∀ id r, s.reqAt id = some r → r.org = 0x3FF → r.stage = .fabric → r.sent = true → r.ea.getLsbD 63 = true →
    (r.attr.cg = true → 50000 ≤ (s.reft - r.since).toNat → ∃ t, exec (.foreignRequestReissue id) s = .next t ∧ same t ∧
      t.reqAt id = some { r with sent := false, since := s.reft }) ∧
    (r.attr.cg = false ∨ (s.reft - r.since).toNat < 50000 → exec (.foreignRequestReissue id) s = .next s)) ∧
  (∀ p ctx va n, ∃ t x, exec (.remoteL1Flush p ctx va n) s = .next t ∧ x ∈ t.invs ∧ x.cid = p ∧ x.slot = 4 ∧ x.ctx = ctx ∧
    x.va = va.toNat ∧ x.level = n ∧ ∀ c, ∀ l ∈ (t.core c).l1, l.inPage false ctx va.toNat n p = false) ∧
  (∀ k p x, (s.invs.find? fun y => y.k == k) = some x → p ∈ x.wait_ → (p = s.pkg.toNat → s.reqs.any x.awaits = false) →
    (x.wait_.filter fun q => q != p && !s.fab.lost.contains (.package q)) = [] →
    (x.slot = 4 → ∃ t, exec (.tlbinvAck k p) s = .next t ∧ same t ∧ t.out = s.out ++ [.ack x.cid] ∧ ∀ y ∈ t.invs, y.k ≠ k) ∧
    (∀ d, x.slot < 4 → s.stillAt x.cid = true → (s.slotAt x.cid x.slot).run = .sleeping (.tlbinv d k) → d.toNat < 56 →
      ∃ t, exec (.tlbinvAck k p) s = .next t ∧ s.gaveAt t x.cid x.slot 8 d (x.acks + 1) ∧ t.mem = s.mem ∧ ∀ y ∈ t.invs, y.k ≠ k))

/-! ## Migration (R385 to R388) -/

/-- R387: GO with bad arguments sets STATUS 3 and nothing else; with good ones it marks the entry. The commit finds the entry changed
(STATUS 2) after the copy, or writes the new one; the migration closes when its queue is empty. The copy moves the bytes of one frame to another.
MQMAX is cleared by its read. -/
def Obligations.MigrationResults : Prop := ∀ (s : State) (m : Nat),
  let g := (s.mdie m).mig
  let at_ := fld g.mpte 3 37 * 8
  let e : W64 := BitVec.ofNat 64 (s.pocNat at_ 8)
  let good : Bool := paMdie g.src == m && leafForm g.mnew g.size.toNat && entryFrame g.mnew == g.dst && leafForm e g.size.toNat &&
    entryFrame e == g.src
  (g.busy = true → exec (.migrationGo m) s = .next s) ∧
  (g.busy = false → good = false → exec (.migrationGo m) s = .next (s.modMig m fun g => { g with status := 3 })) ∧
  (g.busy = false → good = true → ∃ t, exec (.migrationGo m) s = .next t ∧
    (t.mdie m).mig = { g with status := 1, phase := 1, old := e ||| BitVec.twoPow 64 53 }) ∧
  (g.phase = 1 → s.migServing g = false → s.migCopies g = [] → (∀ x ∈ s.dir.trans, g.inOld (x.pline * 64) = false) →
    let s1 := s.llcFlush g.src g.bytes
    (∀ x ∈ s1.errs, x.2 = true → ¬(hbmKey g.src ≤ x.1 ∧ x.1 < hbmKey g.src + g.bytes)) →
    let s2 := s1.migCopy m g
    (BitVec.ofNat 64 (s2.pocNat at_ 8) ≠ g.old → ∃ t, exec (.migrationCommit m) s = .next t ∧ t.mem = s2.mem ∧
      (t.mdie m).mig = { g with status := 2, phase := 3 }) ∧
    (BitVec.ofNat 64 (s2.pocNat at_ 8) = g.old → ∃ t, exec (.migrationCommit m) s = .next t ∧ (t.mdie m).mig = { g with phase := 2 })) ∧
  ((g.phase = 2 ∨ g.phase = 3) → s.migQueue g = [] → (∀ r ∈ s.reqs, g.inOld r.pa = false) →
    ∃ t, exec (.migrationClose m) s = .next t ∧ t.mem = s.mem ∧
      (t.mdie m).mig = { g with status := if g.status = 1 then 0 else g.status, phase := 0 }) ∧
  ((g.phase = 2 ∨ g.phase = 3) → s.migQueue g ≠ [] → exec (.migrationClose m) s = .next s) ∧
  (∃ t, exec (.mqmaxRead m) s = .next t ∧ t.mem = s.mem ∧ (t.mdie m).mig = { g with qmax := 0 } ∧ t.out = s.out ++ [.hostData true (BitVec.ofNat 512 (g.qmax % 2 ^ 64))]) ∧
  (∀ a b n, memWf s.mem = true → (a + n ≤ b ∨ b + n ≤ a) → ∀ k, memGet (moveCells s.mem a b n) k =
    if b ≤ k ∧ k < b + n then memGet s.mem (k - b + a) else memGet s.mem k)

/-! ## Observation: collectors, windows, dumps, traces, race control (R346, R427 to R451) -/

/-- R346, R428 to R451: a fault packet enters its collector's queue and sets MSG, or merges with one before it; a pop takes the oldest;
the debug window writes a register of a frozen core and refuses otherwise; stops, the store-fault queue and the accounts are
cleared as they are written; dumps run to their target or to flash; trace records reach their sink; sweeps begin and end; a
service core starts with its program, its number and its capabilities. -/
def Obligations.ObservationResults : Prop := ∀ s : State,
  let mem (t : State) : Prop := t.mem = s.mem
  (∀ k p, s.fpkts[k]? = some p → let cid := svcBase + s.collectorOf p.1
    ((s.core cid).collector.length < 128 → ∃ t, exec (.collectorEnqueue k) s = .next t ∧ mem t ∧ t.fpkts = s.fpkts.eraseIdx k ∧
      (t.core cid).collector = (s.core cid).collector ++ [p.2] ∧ ∀ j < 4, (t.slotAt cid j).msgl = true) ∧
    (128 ≤ (s.core cid).collector.length → exec (.collectorEnqueue k) s = .next s)) ∧
  (∀ j k a b, s.fpkts[j]? = some a → s.fpkts[k]? = some b → j < k →
    (pktMerges a b = true → ∃ t, exec (.faultPacketMerge j k) s = .next t ∧ mem t ∧ t.fpkts.length + 1 = s.fpkts.length ∧
      t.fpkts[j]? = some (a.1, pktMerge a.2 b.2)) ∧
    (pktMerges a b = false → exec (.faultPacketMerge j k) s = .next s)) ∧
  (∀ sc, ∃ t, exec (.collectorPop sc) s = .next t ∧ mem t ∧
    (t.core (svcBase + sc)).collector = (s.core (svcBase + sc)).collector.drop 1) ∧
  (∀ cid k r v, k < 4 → 0 < r → r < 64 → s.frozen cid = true → (∀ l < 4, vget (s.core cid).links l [] = []) →
    ∃ t, exec (.debugWindowWrite cid (0x2000 * k + 16 * r) 16 v) s = .next t ∧ mem t ∧
      (vget (t.slotAt cid k).g r {}).val = v.extractLsb' 0 128 ∧ (vget (t.slotAt cid k).g r {}).tag = (vget (s.slotAt cid k).g r {}).tag) ∧
  (∀ cid o n v, (debugSize o n = false ∨ debugGuarded o = true ∧ s.frozen cid = false ∧ (s.core cid).frz.stopped = false) →
    exec (.debugWindowWrite cid o n v) s = .next s) ∧
  (∀ cid, (∃ t, exec (.stopRequest cid true) s = .next t ∧ mem t ∧ (t.core cid).frz = { (s.core cid).frz with stopreq := true }) ∧
    ∃ t, exec (.stopRequest cid false) s = .next t ∧ mem t ∧ (t.core cid).frz.stopreq = false ∧ (t.core cid).frz.stopped = false) ∧
  (∀ cid val, ∃ t, exec (.sfqclr cid val) s = .next t ∧ mem t ∧ (∀ k < 4, t.slotAt cid k = s.slotAt cid k) ∧
    (t.core cid).sfq = (((List.range (s.core cid).sfq.length).filter fun k => !val.getLsbD k).filterMap fun k => (s.core cid).sfq[k]?).filter (·.v) ∧
    (t.core cid).sfqOvf = ((s.core cid).sfqOvf && !val.getLsbD 8)) ∧
  (∀ cid val, (val.getLsbD 0 = true → ∃ t, exec (.dlytclr cid val) s = .next t ∧ mem t ∧
      (t.core (s.core cid).phys).dlyt = Vector.replicate 33 {}) ∧
    (val.getLsbD 0 = false → exec (.dlytclr cid val) s = .next s)) ∧
  (∀ sc, let cid := svcBase + sc
    let c := s.core cid
    let nb := svcBase + neighbourSc sc
    (c.dmpc.getLsbD 1 = false → ∃ t, exec (.dumpStart sc) s = .next t ∧ mem t ∧
      (t.core cid).dmpc = if s.frozen (s.dumpCid c) then setFld (setFld c.dmpc 12 4 1) 1 1 1 else setFld c.dmpc 12 4 2) ∧
    (c.dmpc.getLsbD 1 = true → exec (.dumpStart sc) s = .next s) ∧
    (c.dmpc.getLsbD 1 = true → s.frozen cid = false → ∃ t, exec (.dumpComplete sc) s = .next t ∧
      (t.core cid).dmpc = if s.vaWritable (s.ctxOf (s.dumpCid c)) c.dmpt (256 + (s.dumpBody (s.dumpCid c) (c.dmpc.getLsbD 2)).length)
        then setFld (setFld c.dmpc 12 4 0) 1 1 0 else setFld (setFld (setFld c.dmpc 2 1 0) 12 4 3) 1 1 0) ∧
    (c.dmpc.getLsbD 1 = true → s.frozen cid = true → s.frozen nb = false → (s.core nb).dmpc.getLsbD 1 = false →
      ∃ t, exec (.dumpTakeover sc) s = .next t ∧ mem t ∧ (t.core nb).dmpt = c.dmpt ∧ (t.core nb).dmpc = c.dmpc ∧
        (t.core cid).dmpc = setFld (setFld c.dmpc 12 4 4) 1 1 0)) ∧
  (∀ cid, let c := s.core cid
    let now := s.cycOf cid
    c.trcc.getLsbD 3 = true → c.sampleAt.toNat ≤ now.toNat → ∃ t, exec (.traceSample cid) s = .next t ∧ mem t ∧
      (t.core cid).sampleAt = now + BitVec.ofNat 64 (2 ^ fld c.trcc 4 5) ∧
      (t.core cid).sampled = (([1, 2, 3, 4].find? fun d => slotState (c.slot ((c.sampled + d) % 4)) (s.frozen cid) == 1).map fun d =>
        (c.sampled + d) % 4).getD c.sampled) ∧
  (∀ cid, (s.core cid).trcc.getLsbD 3 = false → exec (.traceSample cid) s = .next s) ∧
  (∀ cl r rest, (s.cluster cl).trace = r :: rest → let s1 := s.setCluster cl { s.cluster cl with trace := rest }
    let ctx := s.traceCtx cl r
    let k := s.sink ctx
    let ea : W64 := BitVec.ofNat 64 (k.tsb.toNat / 4096 * 4096 + k.head.toNat % 2 ^ k.logn * 64)
    (k.valid = true → (k.head - k.tail).toNat ≠ 2 ^ k.logn → s1.vaWritable ctx ea 64 = true → ∃ t, exec (.traceDrain cl) s = .next t ∧
      (t.cluster cl).trace = rest ∧ (t.sink ctx).head = k.head + 1 ∧ (t.sink ctx).lost = k.lost) ∧
    ((k.valid = false ∨ (k.head - k.tail).toNat = 2 ^ k.logn ∨ s1.vaWritable ctx ea 64 = false) → ∃ t, exec (.traceDrain cl) s = .next t ∧
      mem t ∧ (t.cluster cl).trace = rest ∧ t.sink ctx = k.drop)) ∧
  (∀ ctx, let k := s.sink ctx
    (k.evalAt.toNat ≤ s.reft.toNat → ∃ t, exec (.sinkEvaluate ctx) s = .next t ∧ (t.sink ctx).evalAt = s.reft + 65536) ∧
    (s.reft.toNat < k.evalAt.toNat → exec (.sinkEvaluate ctx) s = .next s) ∧
    (∃ t, exec (.tshRead ctx) s = .next t ∧ mem t ∧ t.sink ctx = { k with lost := 0 } ∧ t.out = s.out ++ [.hostData true (k.tsh.zeroExtend 512)])) ∧
  (∀ cl, let c := s.cluster cl
    (∀ forced, c.gated = false → c.queue = [] → (forced = true ∨ c.trace = []) →
      (∀ p ∈ s.cores, clusterOf (coreNo p.2.phys) = cl → isSvc p.1 = false → ∀ k < 4, (p.2.slot k).live = false) →
      ∃ t, exec (.clusterGate cl forced) s = .next t ∧ mem t ∧ 
        t.cluster cl = { c with gated := true, trace := [], loss := BitVec.ofNat 32 (min 0xFFFFFFFF (c.loss.toNat + c.trace.length)) }) ∧
    (c.gated = true → ∃ t, exec (.clusterWake cl) s = .next t ∧ mem t ∧ 
      t.cluster cl = { c with gated := false, loss := 0, trace := if c.loss = 0 then [] else [lossRecord s.reft cl c.loss] }) ∧
    (c.gated = false → exec (.clusterWake cl) s = .next s)) ∧
  (∀ ctx, let at_ := s.raceCtl ctx
    (s.llcHome ((at_ + 20) / 64) = none → memWf s.mem = true → ∃ t, exec (.rloghRead ctx) s = .next t ∧
      t.out = s.out ++ [.hostData true (BitVec.ofNat 512 (s.pocNat (at_ + 16) 8 % 2 ^ 64))] ∧ t.natAt (hbmKey (at_ + 20)) 4 = 0 ∧
      s.keepsElse t (hbmKey (at_ + 20)) 4) ∧
    ((s.ctx ctx).sweep = false → (s.ctx ctx).valid = true → ∃ t, exec (.raceSweep ctx) s = .next t ∧ (t.ctx ctx).sweep = true) ∧
    ((s.ctx ctx).sweep = true ∨ (s.ctx ctx).valid = false → exec (.raceSweep ctx) s = .next s) ∧
    ((s.ctx ctx).sweep = true → ∃ t, exec (.raceSweepDone ctx) s = .next t ∧ t.ctx ctx = { s.ctx ctx with sweep := false })) ∧
  (∀ sc pcc entry (caps : List W128), sc < 1024 → caps.length ≤ 8 → ∃ t, exec (.serviceCoreStart sc pcc entry caps) s = .next t ∧ mem t ∧
    let y := t.slotAt (svcBase + sc) 0
    y.run = .running ∧ y.pc = entry ∧ y.pcc = pcc ∧ y.readG 4 = { val := BitVec.ofNat 128 sc } ∧
    (∀ i c, caps[i]? = some c → vget y.g (56 + i) {} = { val := c, tag := true } ∧ y.mbp.getLsbD i = true) ∧
    ∀ r, 1 ≤ r → r < 56 → r ≠ 4 → vget y.g r {} = {})

/-! ## Host rings and the scheduler (R350 to R366, R519) -/

/-- R352 to R357, R519: a malformed packet halts its ring; each packet takes its effect, is completed with its status and is passed; a
halted ring goes on at its packet, or past it. -/
def Obligations.RingResults : Prop := ∀ (s : State) (n : Nat),
  let r := s.ring n
  let p := s.hostPacket r
  let e := p.err r.head.toNat r.size
  let runs : Prop := n < 16 ∧ r.active = true ∧ s.host.off = false ∧ s.host.pfstage ≠ 1
  let at_ := r.rcomp.toNat / 4096 * 4096 + r.chead.toNat % 2 ^ fld r.rcomp 0 5 * 16
  let passed (t : State) : Prop := (t.ring n).head = BitVec.ofNat 32 ((r.head.toNat + p.len) % r.size) ∧ (t.ring n).halt = false
  let done (t : State) (status : Nat) (lid : BitVec 16) : Prop := passed t ∧ (t.ring n).chead = r.chead + 1 ∧
    t.bytesAt (hostKey at_) 16 = bytesOf (packFields 128 [(0, 32, p.tag), (32, 8, status), (40, 8, p.opc), (64, 16, lid.toNat)] : BitVec 128) 16 ∧
    (p.flags = 1 → .irq (1 + n) ∈ t.out)
  let ready (opc : Nat) : Prop := runs ∧ e = 0 ∧ p.opc = opc ∧ memWf s.mem = true
  (runs → e ≠ 0 → ∀ x, x = Instr.padPacket n ∨ x = .nopPacket n ∨ x = .ctxinit n ∨ x = .ctxfree n ∨ x = .launchPacket n ∨
    x = .eventPacket n ∧ s.hostStoresOut = false ∨ x = .resync n ∨ x = .vacate n →
    exec x s = .next (s.setRing n { r with errpos := r.head, err := BitVec.ofNat 8 e, halt := true })) ∧
  (ready 0 → ∃ t, exec (.padPacket n) s = .next t ∧ passed t ∧ t.mem = s.mem ∧ t.out = s.out ∧ (t.ring n).chead = r.chead) ∧
  (ready 1 → ∃ t, exec (.nopPacket n) s = .next t ∧ done t 0 0 ∧ t.cores = s.cores ∧ s.keepsElse t (hostKey at_) 16) ∧
  (ready 2 → let c := s.latchCtx p.ctx
    (c.flags.getLsbD 0 = true → s.queueUse p.ctx = 0 → ∃ t, exec (.ctxinit n) s = .next t ∧ done t 0 0 ∧ t.ctx p.ctx = c) ∧
    (c.flags.getLsbD 0 = false → ∃ t, exec (.ctxinit n) s = .next t ∧ done t 7 0 ∧ t.ctxs = s.ctxs) ∧
    (c.flags.getLsbD 0 = true → s.queueUse p.ctx ≠ 0 → ∃ t, exec (.ctxinit n) s = .next t ∧ done t 8 0 ∧ t.ctxs = s.ctxs)) ∧
  (ready 3 →
    ((s.ctx p.ctx).valid = true → s.queueUse p.ctx = 0 → ∃ t, exec (.ctxfree n) s = .next t ∧ done t 0 0 ∧
      t.ctx p.ctx = { ev := (s.ctx p.ctx).ev, setter := (s.ctx p.ctx).setter } ∧ ∀ d ∈ t.domains, d.ctx ≠ p.ctx) ∧
    ((s.ctx p.ctx).valid = false → ∃ t, exec (.ctxfree n) s = .next t ∧ done t 7 0 ∧ t.ctxs = s.ctxs) ∧
    ((s.ctx p.ctx).valid = true → s.queueUse p.ctx ≠ 0 → ∃ t, exec (.ctxfree n) s = .next t ∧ done t 8 0 ∧ t.ctxs = s.ctxs)) ∧
  (ready 4 → let x := s.submit p.ctx false (s.hostLaunch p)
    ((s.ctx p.ctx).valid = true → ∃ t, exec (.launchPacket n) s = .next t ∧ done t x.1 x.2.1 ∧ t.launches = x.2.2.launches) ∧
    ((s.ctx p.ctx).valid = false → ∃ t, exec (.launchPacket n) s = .next t ∧ done t 7 0 ∧ t.launches = s.launches)) ∧
  (ready 5 → let w := fld p.arg 0 8
    let m : W64 := p.arg.extractLsb' 64 64
    ((s.ctx p.ctx).valid = true → s.hostStoresOut = false → ∃ t, exec (.eventPacket n) s = .next t ∧ done t 0 0 ∧
      t.evGet p.ctx w = if fld p.arg 8 8 = 1 then s.evGet p.ctx w &&& ~~~m else s.evGet p.ctx w ||| m) ∧
    ((s.ctx p.ctx).valid = false → s.hostStoresOut = false → ∃ t, exec (.eventPacket n) s = .next t ∧ done t 7 0 ∧ t.ctxs = s.ctxs)) ∧
  (s.hostStoresOut = true → exec (.eventPacket n) s = .next s) ∧
  (ready 6 → let a := fld p.arg 64 64
    ∃ t, exec (.resync n) s = .next t ∧ done t 0 0 ∧ t.cores = s.cores ∧
      (a + s.summary.length ≤ at_ ∨ at_ + 16 ≤ a → t.bytesAt (hostKey a) s.summary.length = s.summary)) ∧
  (ready 7 → let x := s.vacate p.ctx p.arg
    ((s.ctx p.ctx).valid = true → ∃ t, exec (.vacate n) s = .next t ∧ done t x.1 0 ∧ t.launches = x.2.launches) ∧
    ((s.ctx p.ctx).valid = false → ∃ t, exec (.vacate n) s = .next t ∧ done t 7 0 ∧ t.launches = s.launches)) ∧
  (n < 16 → r.halt = true →
    exec (.ringResume n) s = .next (s.setRing n { r with halt := false, err := 0 }) ∧
    exec (.ringResumeSkip n) s = .next (let len := if p.len = 0 ∨ p.len % 32 ≠ 0 ∨ 4096 < p.len then 32 else p.len
      s.setRing n { r with halt := false, err := 0, head := BitVec.ofNat 32 ((r.head.toNat + len) % r.size) })) ∧
  (r.halt = false → exec (.ringResume n) s = .next s ∧ exec (.ringResumeSkip n) s = .next s)

/-- R359 to R364: a pass admits an eligible launch whose rectangle is free, and its cores take its identity with dormant slots; a
quiescent launch retires; the moving activations of a narrowing are suspended at the end of their grace, the launch moves when
they are idle, and widens when the launch that it made room for has retired. -/
def Obligations.SchedulingResults : Prop := ∀ s : State,
  (∀ l, (s.launches.filter fun l => l.state == .eligible) = [l] → s.halted = false → s.rectFree l.lid l.rect = true → l.msgs = [] →
    ∃ t, exec .schedulingPass s = .next t ∧ t.mem = s.mem ∧ (∃ x ∈ t.launches, x.lid = l.lid ∧ x.state = .running ∧ x.live = l.whole) ∧
      ∀ c ∈ l.rect.cores, (t.core c).lid = some l.lid ∧ (t.core c).lmb1 = BitVec.ofNat 20 (l.lmb 1) ∧
        (t.core c).prot = Vector.replicate 8 0 ∧ ∀ k < 4, (t.slotAt c k).run = .dormant ∧ (t.slotAt c k).clk = 0) ∧
  (s.halted = true → exec .schedulingPass s = .next s) ∧
  (∀ lid l, (s.launches.find? fun l => l.lid.toNat == lid && l.state == .running) = some l →
    (s.quiescent l = true → s.settled l = true → ∃ t, exec (.launchRetire lid) s = .next t ∧ ∀ x ∈ t.launches, x.lid ≠ l.lid) ∧
    (s.quiescent l = true → s.settled l = false → ∃ t, exec (.launchRetire lid) s = .next t ∧ t.mem = s.mem ∧ ∃ x ∈ t.launches, x.lid = l.lid ∧ x.ending = true) ∧
    (s.quiescent l = false → l.ending = false → exec (.launchRetire lid) s = .next s) ∧
    (∀ g, l.moving = some g → s.mapHeld l = false → l.graceAt.toNat ≤ (s.launchCyc l).toNat → ∃ t, exec (.vacateGraceExpiry lid) s = .next t ∧ t.mem = s.mem ∧
      ∀ cid ∈ s.movers l, s.frozen cid = false → ∀ k < 4, (s.slotAt cid k).run = .running → (t.slotAt cid k).run = .suspended none) ∧
    (l.moving = none ∨ s.mapHeld l = true → exec (.vacateGraceExpiry lid) s = .next s ∧ exec (.narrowRemap lid) s = .next s) ∧
    (∀ g, l.moving = some g → s.mapHeld l = false → (∃ cid ∈ s.members l.lid, (s.core cid).noL1 = false) → ∃ t, exec (.narrowRemap lid) s = .next t ∧ t.mem = s.mem ∧
      ∀ cid ∈ s.members l.lid, (t.core cid).l1 = [] ∧ (t.core cid).noL1 = true) ∧
    (∀ g, l.moving = some g → s.mapHeld l = false → (∀ cid ∈ s.members l.lid, (s.core cid).noL1 = true) → s.idleMovers (s.movers l) = true →
      ∃ t, exec (.narrowRemap lid) s = .next t ∧ ∃ x ∈ t.launches, x.lid = l.lid ∧ x.live = g ∧ x.moving = none) ∧
    (∀ n, l.narrowBy = some n → (∀ x ∈ s.launches, x.lid ≠ n) → l.moving = none → l.live ≠ l.whole → s.rectFree l.lid l.rect = true →
      ∃ t, exec (.widen lid) s = .next t ∧ t.mem = s.mem ∧ t.cores = s.cores ∧ ∃ x ∈ t.launches, x.lid = l.lid ∧ x.moving = some l.whole) ∧
    (l.narrowBy = none → exec (.widen lid) s = .next s))

/-! ## Erasure coding and recovery (R421, R485 to R498) -/

/-- R485 to R490: a delta is acknowledged by the package whose parity it changes, and its acknowledgement removes it; a sync is busy until
no delta of it is open; a line that HBM cannot correct is repaired from its peers, or poisoned; a lost member's line is rebuilt. -/
def Obligations.ErasureResults : Prop := ∀ s : State,
  (∀ g o pos isQ d dt, let e := s.egEntry g
    e.valid = true → o % 64 = 0 → o < e.dlen → s.fab.fenced = false →
    ∀ le ll ae te tl ae', s.walk e.ctx ((e.pbase + o) % 2 ^ 53) = .leaf le ll ae → s.walk e.ctx ((e.pbase + (e.dlen + o / 64)) % 2 ^ 53) = .leaf te tl ae' →
      s.migOf (xlatePa le ll ((e.pbase + o) % 2 ^ 53)) = none → s.migOf (xlatePa te tl ((e.pbase + (e.dlen + o / 64)) % 2 ^ 53)) = none →
      ∃ t u, exec (.parityDelta g o pos isQ d dt) s = .next t ∧ t.cores = s.cores ∧ t.out = u ++ [.deltaAck (e.members.getD pos 0) g o isQ]) ∧
  (∀ g o pos isQ d dt, s.fab.fenced = true → exec (.parityDelta g o pos isQ d dt) s = .next s) ∧
  (∀ k, ∃ t, exec (.parityDeltaAck k) s = .next t ∧ t.mem = s.mem ∧ t.host.deltas = s.host.deltas.filter fun d => d.k != k) ∧
  (∀ x : BitVec 18, (s.host.esBusy = true ∨ x.getLsbD 16 = false →
      exec (.esync x) s = .next { s with host := { s.host with esAll := x.getLsbD 8, esGrp := x.extractLsb' 0 8 } }) ∧
    (s.host.esBusy = false → ∃ t, exec (.esync x) s = .next t ∧ t.host.esBusy = x.getLsbD 16 ∧ t.host.esAll = x.getLsbD 8 ∧
      t.host.esGrp = x.extractLsb' 0 8 ∧ (x.getLsbD 16 = true → ∀ g, t.host.syncs g = (x.getLsbD 8 || g == (x.extractLsb' 0 8).toNat)))) ∧
  (s.host.esBusy = true → s.syncOpen s.host.syncs = false → exec .esyncDone s = .next { s with host := { s.host with esBusy := false } }) ∧
  (s.host.esBusy = true → s.syncOpen s.host.syncs = true → exec .esyncDone s = .next s) ∧
  (exec .estatRead s = .next { s with host := { s.host with repaired := 0 }, out := s.out ++ [.hostData true (s.host.estat.zeroExtend 512)] }) ∧
  (∀ pa peers r, (s.reqs.find? fun r => r.stage == .fill && r.pa / 64 == pa / 64 && r.attr.erase) = some r → s.errs.contains (cellKey (pa / 64), true) = true →
    (∀ e i x, s.egPlace r.attr.egrp.toNat (fld r.ea 6 47) = some (e, i) → reconstruct e.scheme i peers = some x → memWf s.mem = true →
      ∃ t, exec (.lineRepair pa peers) s = .next t ∧ t.hbmLine (pa / 64) = x.1 ∧ t.host.repaired = s.host.repaired + 1 ∧
        (cellKey (pa / 64), true) ∉ t.errs ∧ s.keepsElse t (hbmKey (pa / 64 * 64)) 64) ∧
    (∀ e i, s.egPlace r.attr.egrp.toNat (fld r.ea 6 47) = some (e, i) → reconstruct e.scheme i peers = none →
      ∃ t, exec (.lineRepair pa peers) s = .next t ∧ t.mem = s.mem ∧ (poisonKey (pa / 64), true) ∈ t.errs)) ∧
  (∀ pa target peers a b c d e i x, s.host.pfstage ≠ 3 → s.paLost pa = false → paValid target = true → s.paLost target = false →
    s.eraseLeaf target = some (a, b, c, d, e) → let g := s.egEntry (fld e 56 8)
    g.valid = true → g.spare = some s.pkg.toNat → s.lostMember g = some i → reconstruct g.scheme i peers = some x → memWf s.mem = true →
      ∃ t, exec (.erasureRebuild pa target peers) s = .next t ∧ t.hbmLine (target / 64) = x.1 ∧ s.keepsElse t (hbmKey (target / 64 * 64)) 64 ∧
        (poisonKey (target / 64), true) ∉ t.errs)

/-- R491 to R496: heartbeats leave and are noted; a neighbour silent for 1 ms is noted, and a package that hears none for 2 ms fences
itself; a die that stops holds nothing; a declared loss is recorded and acted upon; a retired core runs no more; a replaced C-die
starts anew. -/
def Obligations.RecoveryResults : Prop := ∀ s : State,
  (∀ heard, s.owls = true → ∃ t, exec (.heartbeat heard) s = .next t ∧ t.mem = s.mem ∧ t.cores = s.cores ∧
    t.out = s.out ++ s.neighbours.map Out.heartbeat ∧
    ∀ p ∈ heard, p ∈ s.neighbours → tblGetD t.fab.heard p 0 = s.reft ∧ p ∉ t.fab.silent) ∧
  (∀ heard, s.owls = false → exec (.heartbeat heard) s = .next s) ∧
  (∀ p, s.owls = true → p ∈ s.neighbours →
    (1000000 ≤ s.quietFor p → p ∉ s.fab.silent → ∃ t, exec (.neighbourSilent p) s = .next t ∧ t.mem = s.mem ∧ t.fab = { s.fab with silent := s.fab.silent ++ [p] }) ∧
    (s.quietFor p < 1000000 → exec (.neighbourSilent p) s = .next s)) ∧
  (s.fab.fenced = false → (∀ p ∈ s.neighbours, 2000000 ≤ s.quietFor p) → exec .selfFence s = .next { s with fab := { s.fab with fenced := true } }) ∧
  ((∃ p ∈ s.neighbours, s.quietFor p < 2000000) → exec .selfFence s = .next s) ∧
  (∀ m < 6, ∃ t, exec (.dieLoss (.mdie m)) s = .next t ∧ t.mem = s.mem ∧ (t.mdie m).lost = true ∧ (t.mdie m).llc = []) ∧
  (∀ x < 2, ∃ t, exec (.dieLoss (.sdie x)) s = .next t ∧ t.mem = s.mem ∧ vget t.dir.live x true = false ∧
    ∀ k ∈ t.fab.packets, ∀ q, k.port = some q → q / 16 ≠ x) ∧
  (∀ n, ∃ t, exec (.dieLoss (.cdie n)) s = .next t ∧ t.mem = s.mem ∧ ∀ k ∈ s.logicalOf n, (t.die k).dead = true) ∧
  (∃ t, exec (.dieLoss (.package s.pkg.toNat)) s = .next t ∧ t.mem = s.mem ∧ t.host.off = true) ∧
  (∀ d votes, s.declarable d votes = true → s.halted = false → d ∉ s.fab.lost →
    (d = .vdie → ∃ t, exec (.lossDeclaration d votes) s = .next t ∧ t.mem = s.mem ∧ t.fab.lost = s.fab.lost ++ [d] ∧
      t.out = s.out ++ s.livePkgs.map fun p => .declare_ p d) ∧
    (∀ n, d = .cdie n → ∃ t, exec (.lossDeclaration d votes) s = .next t ∧ t.mem = s.mem ∧ t.fab.lost = s.fab.lost ++ [d] ∧
      ∀ k ∈ s.logicalOf n, (t.die k).gone = true)) ∧
  (∀ d votes, (s.declarable d votes = false ∨ d ∈ s.fab.lost) → exec (.lossDeclaration d votes) s = .next s) ∧
  (∀ core whole, core < 65536 → (∀ l ∈ s.launches, l.occupies (retireBlock core whole) = false) →
    ∃ t, exec (.coreRetire core whole true) s = .next t ∧ t.mem = s.mem ∧ t.launches = s.launches ∧
      ∀ c ∈ (retireBlock core whole).cores, (t.core c).retired = true) ∧
  (∀ die spare, die < 16 → (s.die die).gone = true → spare < 65536 → (vget s.fab.map die 0).toNat = spare → s.fab.draining = false →
    (spare.testBit 15 = true ∨ .cdie (spare % 32) ∉ s.fab.lost) → (∀ p ∈ s.cores, dieOf p.2.phys ≠ die) →
    (∀ p ∈ s.clusters, s.physCluster p.1 / 512 ≠ die) → ∃ t, exec (.cdieReplace die spare) s = .next t ∧ t.mem = s.mem ∧
      (t.die die).gone = false ∧ (t.die die).dead = false ∧ (t.die die).code = (s.die die).code) ∧
  (∀ die spare, (s.die die).gone = false → exec (.cdieReplace die spare) s = .next s)

/-! ## Time, power and the host (R47, R499 to R522) -/

/-- R499 to R507: the timer's corrections, frequency steps with their relock, droops, the power controller's notches with MET and its
interrupt, ceilings and counters cleared, and the thermal limit with the trip above it. -/
def Obligations.TimeAndPowerResults : Prop := ∀ s : State,
  let same (t : State) : Prop := t.mem = s.mem ∧ t.cores = s.cores
  (∀ up, s.reftNext.toNat ≤ s.reft.toNat → s.reftAdj = none → exec (.timeSync up) s = .next { s with reftAdj := some up, reftNext := s.reft + 1000 }) ∧
  (∀ up, s.reft.toNat < s.reftNext.toNat → exec (.timeSync up) s = .next s) ∧
  (∀ die < 16, let d := s.die die
    (d.running = true → d.code ≠ s.codeFor die → ∃ t, exec (.freqStep die) s = .next t ∧ same t ∧
      t.die die = { d with want := s.codeFor die, running := false, stopAt := s.reft }) ∧
    (d.code = s.codeFor die → exec (.freqStep die) s = .next s) ∧
    (d.running = false → 2000 ≤ (s.reft - d.stopAt).toNat → ∃ t, exec (.relockComplete die) s = .next t ∧ same t ∧
      t.die die = { d with code := d.want, running := true, tcyc := d.tcyc + 3 * (s.reft - d.stopAt) }) ∧
    (d.running = false → (s.reft - d.stopAt).toNat < 2000 → exec (.relockComplete die) s = .next s) ∧
    (∀ lost, d.running = true → ∃ t, exec (.droopStretch die lost) s = .next t ∧ same t ∧
      t.die die = { d with droopc := d.droopc + 1, debt := d.debt + lost }) ∧
    (∀ val, ∃ t, exec (.freqCeilWrite die val) s = .next t ∧ same t ∧ t.die die = { d with ceil := if 8 < val.toNat then 8 else val }) ∧
    (∃ t, exec (.droopcClear die 0) s = .next t ∧ same t ∧ t.die die = { d with droopc := 0 }) ∧
    (∀ val, val ≠ 0 → exec (.droopcClear die val) s = .next s)) ∧
  (let p := s.power
   let told (t : State) : Prop := t.power.met = t.power.metNow ∧ (∀ d < 16, (t.die d).tokens = t.power.tokens) ∧
     t.out = if t.power.met ≠ p.met ∨ t.power.pin ≠ p.pin then s.out ++ [.irq 17] else s.out
   (∀ pwr < 65536, p.evalAt.toNat ≤ s.reft.toNat → s.host.off = false → s.host.pfstage ≠ 1 → ∃ t, exec (.powerEvaluate pwr) s = .next t ∧ same t ∧
     told t ∧ t.power.pwr = BitVec.ofNat 16 pwr ∧ t.power.evalAt = s.reft + 10000 ∧ t.power.notch =
       if p.capNow * 10 < pwr then min 20 (p.notch + 1)
       else if 2 * pwr < 19 * p.capNow ∧ 99 ≤ p.quiet ∧ 0 < p.notch then p.notch - 1 else p.notch) ∧
   (∀ pwr, s.reft.toNat < p.evalAt.toNat → exec (.powerEvaluate pwr) s = .next s) ∧
   (∀ b, ∃ t, exec (.pstepPin b) s = .next t ∧ same t ∧ told t ∧ t.power.pin = b ∧ t.power.notch = p.notch) ∧
   (∀ val, ∃ t, exec (.powerStep val) s = .next t ∧ same t ∧ told t ∧ t.power.cap = (if 480 < val.toNat then 480 else val) ∧
     t.power.notch = p.notch) ∧
   (∀ die temp, die < 27 → s.host.off = false →
     (25600 < temp.toInt → ∃ t, exec (.thermalLimit die temp) s = .next t ∧ same t ∧ t.power.hot = true ∧ t.power.capNow = 0 ∧
       (p.temp die ≤ 25600 → ∃ o, t.out = o ++ [.irq 18])) ∧
     (temp.toInt < 24320 → (∀ d < 27, d ≠ die → p.temp d < 24320) → ∃ t, exec (.thermalLimit die temp) s = .next t ∧ same t ∧
       t.power.hot = false) ∧
     (28160 < temp.toInt → ∃ t, exec (.thermalTrip die temp) s = .next t ∧ t.mem = s.mem ∧ t.host.pfstage = 1) ∧
     (temp.toInt ≤ 28160 → exec (.thermalTrip die temp) s = .next s))) ∧
  (∀ blk idx val, val ≠ 0 → exec (.counterClear blk idx val) s = .next s) ∧
  (∀ blk idx, blk < 6 → isEvent blk idx = true → ∃ t, exec (.counterClear blk idx 0) s = .next t ∧ same t ∧
    (t.mdie blk).count = tblErase idx (s.mdie blk).count)

/-- R508 to R522: the power-fail trap freezes every core and drops what is bound for HBM; the drain ends without power; a restore brings
the drained contexts and launches back, and a discard forgets them; boot, mailbox commands, the host window, register writes and
soft errors do what they say; a package reset keeps memory and resets the cores. -/
def Obligations.HostResults : Prop := ∀ s : State,
  let same (t : State) : Prop := t.mem = s.mem ∧ t.cores = s.cores
  (s.host.off = false → s.host.pfstage ≠ 1 → ∃ t, exec .powerFailTrap s = .next t ∧ t.mem = s.mem ∧ t.host.pfstage = 1 ∧
    t.host.drainAt = s.reft ∧ (∀ c, t.frozen c = true) ∧ ∀ r ∈ t.reqs, r ∈ s.reqs ∧ r.stage ≠ .hbm ∧ r.stage ≠ .home ∧ r.stage ≠ .walk) ∧
  (s.host.off = true ∨ s.host.pfstage = 1 → exec .powerFailTrap s = .next s) ∧
  (s.host.pfstage = 1 → (∀ r ∈ s.reqs, r.stage = .core → r.op.isStore = false) → ∃ t, exec .drainComplete s = .next t ∧ t.host.off = true ∧
    t.host.drained.isSome = true ∧ t.cores = State.reset.cores ∧ t.launches = State.reset.launches ∧ ∀ k < hostKey 0, memGet t.mem k = memDefault) ∧
  (s.host.pfstage ≠ 1 → exec .drainComplete s = .next s) ∧
  (s.host.pfstage = 3 → exec .pfctlRun s = .next { s with host := { s.host with pfstage := 0 } }) ∧
  (∀ d, s.host.pfstage = 0 → s.host.drained = some d → s.host.pfvalid = true → s.host.off = false → d.lost = [] →
    ∃ t, exec .pfctlRun s = .next t ∧ t.host.pfstage = 3 ∧ t.ctxs = d.ctxs ∧ t.domains = d.domains ∧
      t.launches.map (·.lid) = d.launches.map (·.lid)) ∧
  (s.host.pfvalid = false → s.host.pfstage = 0 → exec .pfctlRun s = .next s) ∧
  (exec .pfctlDiscard s = .next { s with host := { s.host with pfvalid := false } }) ∧
  (exec .pfheadRead s = .next { s with host := { s.host with pflost := 0 }, out := s.out ++ [.hostData true (s.host.pfheadWord.zeroExtend 512)] }) ∧
  (s.host.off = false → ∀ x, (s.hostRegWrite 0x11000 x).hostRegRead 0x11000 = x &&& 0xFFFFFFE000 ∧
    (∀ j < 16, (s.hostRegWrite (0x60000 + 16 * j) x).hostRegRead (0x60000 + 16 * j) = x ∧
      (s.hostRegWrite (0x60008 + 16 * j) x).hostRegRead (0x60008 + 16 * j) = x &&& 0x13F ∧
      (s.hostRegWrite (0x10008 + 64 * j) x).hostRegRead (0x10008 + 64 * j) = x &&& 0xFFFFFFFF)) ∧
  (memWf s.mem = true → ∃ t, exec .packageReset s = .next t ∧ t.cores = State.reset.cores ∧ t.launches = State.reset.launches ∧ t.host.ready = false ∧
    t.reft = State.reset.reft ∧
    let words (k : Nat) : Prop := ∃ p ∈ s.ctxs, p.2.valid = true ∧ hbmKey (s.raceCtl p.1) ≤ k ∧ k < hbmKey (s.raceCtl p.1) + 32
    ∀ k, (words k → memGet t.mem k = 0) ∧ (¬words k → memGet t.mem k = memGet s.mem k)) ∧
  (s.host.ready = true → exec .powerOnBoot s = .next s) ∧
  (s.host.ready = false → let img := s.bytesAt (flashKey flashFirmware) firmwareMax
    (Config.firmwareValid img = false → ∃ t, exec .powerOnBoot s = .next t ∧ same t ∧ t.host.fwbad = true ∧ t.host.ready = false) ∧
    (Config.firmwareValid img = true → ∃ t, exec .powerOnBoot s = .next t ∧ t.cores = s.cores ∧ t.host.ready = true ∧ t.host.fwbad = false ∧
      t.host.off = false ∧ t.host.boots = s.host.boots + 1)) ∧
  (s.host.off = false → memWf s.mem = true → let a := hostKey s.host.mbaddr.toNat
    let gives (x : Instr) (bs : List Byte) : Prop := ∃ t, exec x s = .next t ∧ t.cores = s.cores ∧ t.host.mbstat = 2 ∧
      t.out = s.out ++ [.irq 19] ∧ t.bytesAt a bs.length = bs ∧ s.keepsElse t a bs.length
    gives .attest (s.report (s.bytesAt a 64)) ∧ gives .readlog (s.host.log ++ bytesOf (Config.sha512 s.host.log) 64) ∧
    gives .readcert Config.certificate ∧
    let img := s.bytesAt a s.host.mblen.toNat
    (Config.firmwareValid img = false → ∃ t, exec .fwload s = .next t ∧ same t ∧ t.host.mbstat = 4 ∧ t.out = s.out ++ [.irq 19]) ∧
    (Config.firmwareValid img = true → ∃ t, exec .fwload s = .next t ∧ t.cores = State.reset.cores ∧ t.host.ready = false ∧
      t.bytesAt (flashKey flashFirmware) (img.take firmwareMax).length = img.take firmwareMax)) ∧
  (∀ ap off n val, ap < 16 → off + n ≤ 2 ^ 32 → n ≤ 64 → s.host.off = false → let w := vget s.host.windows ap (0, 0)
    let ea := w.1 + BitVec.ofNat 64 off
    (w.2.getLsbD 8 = false → exec (.hostWindowAccess ap off n true val) s = .next s ∧
      exec (.hostWindowAccess ap off n false val) s = .next { s with out := s.out ++ [.hostData true (lowBytes (BitVec.allOnes 512) n)] }) ∧
    (w.2.getLsbD 8 = true → 1 ≤ n → ea.toNat % 64 + n ≤ 64 → ∀ write, ∃ t q, exec (.hostWindowAccess ap off n write val) s = .next t ∧ same t ∧
      t.reqs = s.reqs ++ [q] ∧ q.cid = hostBase + ap ∧ q.id = s.nextId ∧ q.ctx = fld w.2 0 6 ∧ q.n = n ∧ q.ea = rewriteEa s.pkg 0 ea)) ∧
  (s.host.off = false → ∀ val,
    exec (.registerWrite .host 0x50010 val) s = .next { s with host := { s.host with mbaddr := val } } ∧
    exec (.registerWrite .host 0x50018 val) s = .next { s with host := { s.host with mblen := val } } ∧
    (∀ n < 16, exec (.registerWrite .host (0x10008 + 64 * n) val) s = .next (s.setRing n { s.ring n with tail := val.extractLsb' 0 32 })) ∧
    (∃ t, exec (.registerWrite .host 0x11000 val) s = .next t ∧ same t ∧ t.host.ctxb.toNat = val.toNat / 2 ^ 13 % 2 ^ 27 * 2 ^ 13)) ∧
  (∀ m val, m < 6 → (s.mdie m).mig.busy = false → ∃ t, exec (.registerWrite (.mdie m) 0x18 val) s = .next t ∧ same t ∧
    (t.mdie m).mig = { (s.mdie m).mig with mnew := val }) ∧
  (∀ cid slot reg double, slot < 4 → 0 < reg → reg < 64 → ∃ t, exec (.softError (.gReg cid slot reg double)) s = .next t ∧ t.mem = s.mem ∧
    vget (t.slotAt cid slot).g reg {} = { vget (s.slotAt cid slot).g reg {} with bad := true }) ∧
  (∀ cid word double, word < 65536 → ∃ t, exec (.softError (.localWord cid word double)) s = .next t ∧ same t ∧
    ∃ b, (lmKey cid (8 * word), b) ∈ t.errs ∧ (double = true → b = true))

/-! ## The machine as a whole -/

/-- R73 to R85, with words written out from the spec's encodings: the decoder reads the instruction they stand for. -/
def Obligations.DecodingIsRight : Prop :=
  let r (d a b : RegNo) (mod : BitVec 12) (sub : BitVec 8) : FR := { pred := 0, sub := sub, mod := mod, c := 0, b := b, a := a, d := d }
  decodeTableWord 64 0x0000000001C61404 = some (.add (r 5 6 7 0 0)) ∧
  decodeTableWord 64 0xB0FFFFFFFFC92408 = some (.addi { pred := 0xB, mod := 3, imm := 0xFFFFFFFF, a := 9, d := 9 }) ∧
  decodeTableWord 96 0x00000000FF00000000020835 =
    some (.andF96 { imm := 0xFF0, pred := 0, sub := 0, mod := 0, b := 0, a := 2, d := 2 }) ∧
  decodeTableWord 64 0x0000100001842810 = some (.addc { pred := 0, sub := 0, mod := 0x400, c := 0, b := 6, a := 4, d := 10 }) ∧
  decodeTableWord 64 0x0000001C00031500 = some (.ld (r 5 3 0 7 0)) ∧
  decodeTableWord 64 0x0000002C01C61580 = some (.fadd (r 5 6 7 0xB 0)) ∧
  decodeTableWord 64 0x0000000044001780 = some (.srd { pred := 0, mod := 0, imm := 0x110, a := 0, d := 5 }) ∧
  decodeTableWord 64 0x0000000001C617AC = some (.tlbinv (r 5 6 7 0 0)) ∧
  (∀ w < 0x3FF, w % 4 = 3 → decodeTableWord 64 w = none) ∧
  ∀ w < 2 ^ 64, 0xE8 ≤ w / 4 % 256 → w / 4 % 256 ≤ 0xEB → w % 4 ≠ 3 →
    decode false (leBytes 8 w ++ leBytes 8 0) = .error .illegalOpcode

/-- R73 to R85: the decoder reads back every well-formed instruction from its encoding, whatever follows; and whatever it reads is
well formed and had exactly that encoding. -/
def Obligations.DecodeAndEncodeAgree : Prop :=
  (∀ (i : Instr) (rest : List Byte), wellFormed i = true → decode true (encode i ++ rest) = .ok (i, rest)) ∧
  ∀ (svc : Bool) (bs : List Byte) (i : Instr) (rest : List Byte), decode svc bs = .ok (i, rest) →
    wellFormed i = true ∧ bs = encode i ++ rest

/-- R75, R85, R123, R440: a slot that may issue executes the instruction whose bytes stand at its PC in its own local memory; bytes that
decode to none raise the precise fault of their rejection. The bytes are those that the launch had there at its admission, or fetched
first, and what stands there otherwise (log entry 14). Around the instruction the step changes only that a mailbox written before is no
longer new, that fetched blocks are dropped, that the launch keeps the bytes, and that corrected errors of the code's words are counted
(R250). A slot whose watchdog has reached its limit does not issue (R237).

An input that waits is what a step takes; with none, a slot that cannot issue lets one tick pass; only the turn of a slot of no core
is a fault. -/
def Obligations.StepRunsDecodedInstruction : Prop :=
  (∀ (s : State) (core : Nat) (self dbg : Bool) (off : Nat),
  let c := s.turn.1
  let k := s.turn.2
  let sl := s.cur
  let s0 := s.modSlot c k fun sl => { sl with mbNew := 0 }
  let ea := rewriteEa s.pkg c sl.pc
  let code (n : Nat) : List Byte := ((s.launchOf c).bind fun l => (l.codeBytes ea n).or (l.fetchedBytes c ea n)).getD (s.lmRead c off n)
  let len := lengthOf (((code 4).headD 0).extractLsb' 0 2)
  s.agenda = [] → slotExists s.turn = true → s.canIssue c k = true → s.overdue c k = false →
  formBad ea = false → placeOf ea = .localMem none core self dbg off →
  (if self then c else s.memberCid (s.lidOf c) core) = c →
  sl.pc.toNat % 32 ≤ 16 → (∀ n ∈ [8, 12, 16], capCheck sl.pcc sl.pccTag sl.pc.toNat n pEXEC [0] = none) →
  errIn s.errs (lmKey c off) 16 8 true = false →
  (len = none → step s = .next (s0.preciseFault c k { cause := cILLEGAL_LENGTH, addr := sl.pc })) ∧
  ∀ n, len = some n → let s1 := (s0.countCorr c off n).keepCode c sl.pc (code n)
    (∀ i rest, decode (isSvc c) (code n) = .ok (i, rest) → pcBreak (s.core c) c sl.pc = none → step s = exec i (s1.endFetch c k)) ∧
    (∀ e, decode (isSvc c) (code n) = .error e → step s = .next (s1.preciseFault c k { cause := decodeCause e, addr := sl.pc }))) ∧
  (∀ s : State,
  (∀ n rest, s.agenda = .time n :: rest → step s = .next ({ s with agenda := rest }.passTime n)) ∧
  (∀ i rest, s.agenda = .event i :: rest → step s = exec i { s with agenda := rest }) ∧
  (∀ d rs rest, s.agenda = .arrive d rs :: rest → step s = .next ({ s with agenda := rest }.arriveParts d rs)) ∧
  (∀ c k rest, s.agenda = .issue c k :: rest → slotExists (c, k) = false → step s = .fault .noSuchSlot) ∧
  (s.agenda = [] → slotExists s.turn = true → s.canIssue s.turn.1 s.turn.2 = false → s.endCheck s.turn.1 s.turn.2 = none →
    step s = .next (s.passTime 1)) ∧
  (s.agenda = [] → slotExists s.turn = false → step s = .fault .noSuchSlot) ∧
  (step s = .fault .noSuchSlot ∨ ∃ t, step s = .next t))

/-- Every instruction and every event answers a next state, in every state. -/
def Obligations.EveryInstructionAnswers : Prop := ∀ (i : Instr) (s : State), ∃ t, exec i s = .next t

/-- Every step keeps the canonical form of memory. -/
def Obligations.MemoryStaysCanonical : Prop := ∀ s t : State, s.wf = true → step s = .next t → t.wf = true

/-- Reset leaves memory empty and canonical; slots dormant with FPC, CLK, GEN and WARN zero, g registers and predicates zero; L1, named and
ephemeral bounds at the top of local memory, no protection, nothing frozen, tracing off with PERIOD 10. The zeros that the spec
does not give are the model's choices (log entry 10). -/
def Obligations.ResetState : Prop := State.reset.wf = true ∧ State.reset.reft = 0 ∧ State.reset.launches = [] ∧ State.reset.reqs = [] ∧
  ∀ c, coreExists c = true → ∀ k < 4, let sl := State.reset.slotAt c k
    sl.run = .dormant ∧ sl.warn = 0 ∧ sl.fpc = 0 ∧ sl.clk = 0 ∧ sl.gen = 0 ∧ sl.mbp = 0 ∧ sl.wired = true ∧
    (∀ r, sl.readG r = {}) ∧ (∀ r, sl.readV r = {}) ∧ sl.readP 0 = 0xFFFF ∧
    (State.reset.core c).frz = {} ∧ (State.reset.core c).sfq = [] ∧ fld (State.reset.core c).trcc 0 4 = 0 ∧
    ([(0x008, 480 * 65536 + 480), (0x010, 1), (0x100, 0x88), (0x178, 0x88), (0x180, 512), (0x200, 0), (0x10000, 0), (0x10018, 1), (0x11000, 0),
      (0x20018, 0xA8A), (0x21000, 0), (0x42000, 0)] : List (Nat × W64)).all (fun p => State.reset.hostRegRead p.1 == p.2) = true

/-- R9, R424 to R427, R436: a precise fault freezes the core, writes the fault record and sends one packet to the row's service core,
and changes nothing that the program sees; instructions of its slots that have issued and not retired are discarded, and with none such
no slot and no request changes. On a frozen core a further event only sets NESTED. RESUME ends the freeze, with SKIP past the
instruction. -/
def Obligations.ExceptionEntryAndReturn : Prop := ∀ (s : State) (c k : Nat) (t : Trap), k < 4 →
  let x := s.preciseFault c k t
  (s.frozen c = false → isSvc c = false →
    (x.core c).frz = { (s.core c).frz with frozen := true } ∧ x.frozen c = true ∧ x.mem = s.mem ∧ x.tags = s.tags ∧
    (∀ d j, ∃ r, x.slotAt d j = { s.slotAt d j with run := r }) ∧ (∀ q ∈ x.reqs, q ∈ s.reqs) ∧
    ((∀ d ∈ s.residents c, ∀ j < 4, match (s.slotAt d j).run with
      | .sleeping (.check _ _ _ _ _) => False
      | .sleeping (.submit _ _ _ _ _ _) => False
      | _ => True) → (∀ d j, x.slotAt d j = s.slotAt d j) ∧ (∀ d, d ≠ c → x.core d = s.core d) ∧ x.reqs = s.reqs) ∧
    (let r := (x.core c).faultRec
     r.extractLsb' 0 64 = (s.slotAt c k).pc ∧ fld r 192 8 = t.cause % 256 ∧ fld r 200 8 = t.sub % 256 ∧ fld r 224 2 = k ∧
     fld r 226 1 = b2n (s.core c).sfqAny ∧ fld r 240 16 = coreNo c % 65536 ∧ r.extractLsb' 256 64 = s.reft ∧
     r.extractLsb' 64 64 = if t.cause ≤ cSTRADDLE then (s.slotAt c k).pc else t.addr) ∧
    ∃ p, x.fpkts = s.fpkts ++ [(rowOf (coreNo (s.core c).phys), p)] ∧ fld p 248 8 = 1 ∧ fld p 160 8 = t.cause % 256 ∧
      fld p 144 16 = (s.lidOf c).toNat) ∧
  (s.frozen c = true → x.mem = s.mem ∧ (∀ d j, x.slotAt d j = s.slotAt d j) ∧ (x.core c).frz = { (s.core c).frz with nested := true } ∧
    ((s.core c).faultRec.extractLsb' 256 64 ≠ s.reft → x.fpkts = s.fpkts ∧ (x.core c).faultRec = (s.core c).faultRec)) ∧
  ((s.core c).frz.frozen = false → ∀ skip len, s.resumeCore c skip len = (1, s)) ∧
  ((s.core c).frz.frozen = true → (s.core c).sfqAny = true → ∀ skip len, s.resumeCore c skip len = (2, s)) ∧
  ((s.core c).frz.frozen = true → (s.core c).sfqAny = false → ∀ len, (s.resumeCore c false len).1 = 0 ∧
    ((s.resumeCore c false len).2.core c).frz = { (s.core c).frz with frozen := false, nested := false } ∧
    (∀ d j, (s.resumeCore c false len).2.slotAt d j = s.slotAt d j) ∧
    let q := fld (s.core c).faultRec 224 2
    ((s.resumeCore c true len).2.slotAt c q).pc = (s.slotAt c q).pc + BitVec.ofNat 64 len)

/-- What is written to local memory is what is read there, and no other byte changes; the tags of the touched granules are cleared
(R145, R248). -/
def Obligations.MemoryReadsWhatWasWritten : Prop := ∀ (s : State) (c off : Nat) (bs : List Byte), s.wf = true → s.tags.Pairwise (· < ·) →
  let t := s.lmWrite c off bs
  t.lmRead c off bs.length = bs ∧ t.wf = true ∧ (∀ a, ¬(lmKey c off ≤ a ∧ a < lmKey c off + bs.length) → memGet t.mem a = memGet s.mem a) ∧
  (∀ a, bs ≠ [] → lmKey c off ≤ a → a < lmKey c off + bs.length → t.tagAt a = false) ∧ t.reqs = s.reqs ∧
  ∀ d j, t.slotAt d j = s.slotAt d j

/-- R332: what each scope covers. -/
def Obligations.ScopeCovers : Prop := ∀ w x : BitVec 18,
  let core (i : BitVec 18) : Nat := i.toNat / 4
  (covers scSLOT w x = true ↔ w = x) ∧
  (covers scCORE w x = true ↔ core w = core x) ∧
  (covers scCLUSTER w x = true ↔ clusterOf (core w) = clusterOf (core x)) ∧
  (covers scDIE w x = true ↔ core w / 2 ^ 12 = core x / 2 ^ 12) ∧
  covers scPACKAGE w x = true ∧ covers scFABRIC w x = true
end

