-- ==== Sys2Proof/Laws/State.lean ====
section
/-! SUPPORT. What each update of the state leaves as it was, field by field, and what a table and a state read after an update. -/
namespace Sys2Proof.Machine

@[simp] theorem setCore_pkg (s : State) (c : Nat) (x : Core) : (s.setCore c x).pkg = s.pkg := rfl
@[simp] theorem setCore_agenda (s : State) (c : Nat) (x : Core) : (s.setCore c x).agenda = s.agenda := rfl
@[simp] theorem setCore_turn (s : State) (c : Nat) (x : Core) : (s.setCore c x).turn = s.turn := rfl
@[simp] theorem setCore_fresh (s : State) (c : Nat) (x : Core) : (s.setCore c x).fresh = s.fresh := rfl
@[simp] theorem setCore_nextId (s : State) (c : Nat) (x : Core) : (s.setCore c x).nextId = s.nextId := rfl
@[simp] theorem setCore_reft (s : State) (c : Nat) (x : Core) : (s.setCore c x).reft = s.reft := rfl
@[simp] theorem setCore_reftAdj (s : State) (c : Nat) (x : Core) : (s.setCore c x).reftAdj = s.reftAdj := rfl
@[simp] theorem setCore_reftNext (s : State) (c : Nat) (x : Core) : (s.setCore c x).reftNext = s.reftNext := rfl
@[simp] theorem setCore_mem (s : State) (c : Nat) (x : Core) : (s.setCore c x).mem = s.mem := rfl
@[simp] theorem setCore_tags (s : State) (c : Nat) (x : Core) : (s.setCore c x).tags = s.tags := rfl
@[simp] theorem setCore_errs (s : State) (c : Nat) (x : Core) : (s.setCore c x).errs = s.errs := rfl
@[simp] theorem setCore_clusters (s : State) (c : Nat) (x : Core) : (s.setCore c x).clusters = s.clusters := rfl
@[simp] theorem setCore_dies (s : State) (c : Nat) (x : Core) : (s.setCore c x).dies = s.dies := rfl
@[simp] theorem setCore_mdies (s : State) (c : Nat) (x : Core) : (s.setCore c x).mdies = s.mdies := rfl
@[simp] theorem setCore_dir (s : State) (c : Nat) (x : Core) : (s.setCore c x).dir = s.dir := rfl
@[simp] theorem setCore_colls (s : State) (c : Nat) (x : Core) : (s.setCore c x).colls = s.colls := rfl
@[simp] theorem setCore_suspd (s : State) (c : Nat) (x : Core) : (s.setCore c x).suspd = s.suspd := rfl
@[simp] theorem setCore_fab (s : State) (c : Nat) (x : Core) : (s.setCore c x).fab = s.fab := rfl
@[simp] theorem setCore_ctxs (s : State) (c : Nat) (x : Core) : (s.setCore c x).ctxs = s.ctxs := rfl
@[simp] theorem setCore_launches (s : State) (c : Nat) (x : Core) : (s.setCore c x).launches = s.launches := rfl
@[simp] theorem setCore_domains (s : State) (c : Nat) (x : Core) : (s.setCore c x).domains = s.domains := rfl
@[simp] theorem setCore_episodes (s : State) (c : Nat) (x : Core) : (s.setCore c x).episodes = s.episodes := rfl
@[simp] theorem setCore_reqs (s : State) (c : Nat) (x : Core) : (s.setCore c x).reqs = s.reqs := rfl
@[simp] theorem setCore_accs (s : State) (c : Nat) (x : Core) : (s.setCore c x).accs = s.accs := rfl
@[simp] theorem setCore_msgs (s : State) (c : Nat) (x : Core) : (s.setCore c x).msgs = s.msgs := rfl
@[simp] theorem setCore_spills (s : State) (c : Nat) (x : Core) : (s.setCore c x).spills = s.spills := rfl
@[simp] theorem setCore_spillAt (s : State) (c : Nat) (x : Core) : (s.setCore c x).spillAt = s.spillAt := rfl
@[simp] theorem setCore_fpkts (s : State) (c : Nat) (x : Core) : (s.setCore c x).fpkts = s.fpkts := rfl
@[simp] theorem setCore_invs (s : State) (c : Nat) (x : Core) : (s.setCore c x).invs = s.invs := rfl
@[simp] theorem setCore_handlers (s : State) (c : Nat) (x : Core) : (s.setCore c x).handlers = s.handlers := rfl
@[simp] theorem setCore_host (s : State) (c : Nat) (x : Core) : (s.setCore c x).host = s.host := rfl
@[simp] theorem setCore_power (s : State) (c : Nat) (x : Core) : (s.setCore c x).power = s.power := rfl
@[simp] theorem setCore_out (s : State) (c : Nat) (x : Core) : (s.setCore c x).out = s.out := rfl
@[simp] theorem modCore_pkg (s : State) (c : Nat) (f : Core → Core) : (s.modCore c f).pkg = s.pkg := rfl
@[simp] theorem modCore_agenda (s : State) (c : Nat) (f : Core → Core) : (s.modCore c f).agenda = s.agenda := rfl
@[simp] theorem modCore_turn (s : State) (c : Nat) (f : Core → Core) : (s.modCore c f).turn = s.turn := rfl
@[simp] theorem modCore_fresh (s : State) (c : Nat) (f : Core → Core) : (s.modCore c f).fresh = s.fresh := rfl
@[simp] theorem modCore_nextId (s : State) (c : Nat) (f : Core → Core) : (s.modCore c f).nextId = s.nextId := rfl
@[simp] theorem modCore_reft (s : State) (c : Nat) (f : Core → Core) : (s.modCore c f).reft = s.reft := rfl
@[simp] theorem modCore_reftAdj (s : State) (c : Nat) (f : Core → Core) : (s.modCore c f).reftAdj = s.reftAdj := rfl
@[simp] theorem modCore_reftNext (s : State) (c : Nat) (f : Core → Core) : (s.modCore c f).reftNext = s.reftNext := rfl
@[simp] theorem modCore_mem (s : State) (c : Nat) (f : Core → Core) : (s.modCore c f).mem = s.mem := rfl
@[simp] theorem modCore_tags (s : State) (c : Nat) (f : Core → Core) : (s.modCore c f).tags = s.tags := rfl
@[simp] theorem modCore_errs (s : State) (c : Nat) (f : Core → Core) : (s.modCore c f).errs = s.errs := rfl
@[simp] theorem modCore_clusters (s : State) (c : Nat) (f : Core → Core) : (s.modCore c f).clusters = s.clusters := rfl
@[simp] theorem modCore_dies (s : State) (c : Nat) (f : Core → Core) : (s.modCore c f).dies = s.dies := rfl
@[simp] theorem modCore_mdies (s : State) (c : Nat) (f : Core → Core) : (s.modCore c f).mdies = s.mdies := rfl
@[simp] theorem modCore_dir (s : State) (c : Nat) (f : Core → Core) : (s.modCore c f).dir = s.dir := rfl
@[simp] theorem modCore_colls (s : State) (c : Nat) (f : Core → Core) : (s.modCore c f).colls = s.colls := rfl
@[simp] theorem modCore_suspd (s : State) (c : Nat) (f : Core → Core) : (s.modCore c f).suspd = s.suspd := rfl
@[simp] theorem modCore_fab (s : State) (c : Nat) (f : Core → Core) : (s.modCore c f).fab = s.fab := rfl
@[simp] theorem modCore_ctxs (s : State) (c : Nat) (f : Core → Core) : (s.modCore c f).ctxs = s.ctxs := rfl
@[simp] theorem modCore_launches (s : State) (c : Nat) (f : Core → Core) : (s.modCore c f).launches = s.launches := rfl
@[simp] theorem modCore_domains (s : State) (c : Nat) (f : Core → Core) : (s.modCore c f).domains = s.domains := rfl
@[simp] theorem modCore_episodes (s : State) (c : Nat) (f : Core → Core) : (s.modCore c f).episodes = s.episodes := rfl
@[simp] theorem modCore_reqs (s : State) (c : Nat) (f : Core → Core) : (s.modCore c f).reqs = s.reqs := rfl
@[simp] theorem modCore_accs (s : State) (c : Nat) (f : Core → Core) : (s.modCore c f).accs = s.accs := rfl
@[simp] theorem modCore_msgs (s : State) (c : Nat) (f : Core → Core) : (s.modCore c f).msgs = s.msgs := rfl
@[simp] theorem modCore_spills (s : State) (c : Nat) (f : Core → Core) : (s.modCore c f).spills = s.spills := rfl
@[simp] theorem modCore_spillAt (s : State) (c : Nat) (f : Core → Core) : (s.modCore c f).spillAt = s.spillAt := rfl
@[simp] theorem modCore_fpkts (s : State) (c : Nat) (f : Core → Core) : (s.modCore c f).fpkts = s.fpkts := rfl
@[simp] theorem modCore_invs (s : State) (c : Nat) (f : Core → Core) : (s.modCore c f).invs = s.invs := rfl
@[simp] theorem modCore_handlers (s : State) (c : Nat) (f : Core → Core) : (s.modCore c f).handlers = s.handlers := rfl
@[simp] theorem modCore_host (s : State) (c : Nat) (f : Core → Core) : (s.modCore c f).host = s.host := rfl
@[simp] theorem modCore_power (s : State) (c : Nat) (f : Core → Core) : (s.modCore c f).power = s.power := rfl
@[simp] theorem modCore_out (s : State) (c : Nat) (f : Core → Core) : (s.modCore c f).out = s.out := rfl
@[simp] theorem setSlot_pkg (s : State) (c k : Nat) (x : Slot) : (s.setSlot c k x).pkg = s.pkg := rfl
@[simp] theorem setSlot_agenda (s : State) (c k : Nat) (x : Slot) : (s.setSlot c k x).agenda = s.agenda := rfl
@[simp] theorem setSlot_turn (s : State) (c k : Nat) (x : Slot) : (s.setSlot c k x).turn = s.turn := rfl
@[simp] theorem setSlot_fresh (s : State) (c k : Nat) (x : Slot) : (s.setSlot c k x).fresh = s.fresh := rfl
@[simp] theorem setSlot_nextId (s : State) (c k : Nat) (x : Slot) : (s.setSlot c k x).nextId = s.nextId := rfl
@[simp] theorem setSlot_reft (s : State) (c k : Nat) (x : Slot) : (s.setSlot c k x).reft = s.reft := rfl
@[simp] theorem setSlot_reftAdj (s : State) (c k : Nat) (x : Slot) : (s.setSlot c k x).reftAdj = s.reftAdj := rfl
@[simp] theorem setSlot_reftNext (s : State) (c k : Nat) (x : Slot) : (s.setSlot c k x).reftNext = s.reftNext := rfl
@[simp] theorem setSlot_mem (s : State) (c k : Nat) (x : Slot) : (s.setSlot c k x).mem = s.mem := rfl
@[simp] theorem setSlot_tags (s : State) (c k : Nat) (x : Slot) : (s.setSlot c k x).tags = s.tags := rfl
@[simp] theorem setSlot_errs (s : State) (c k : Nat) (x : Slot) : (s.setSlot c k x).errs = s.errs := rfl
@[simp] theorem setSlot_clusters (s : State) (c k : Nat) (x : Slot) : (s.setSlot c k x).clusters = s.clusters := rfl
@[simp] theorem setSlot_dies (s : State) (c k : Nat) (x : Slot) : (s.setSlot c k x).dies = s.dies := rfl
@[simp] theorem setSlot_mdies (s : State) (c k : Nat) (x : Slot) : (s.setSlot c k x).mdies = s.mdies := rfl
@[simp] theorem setSlot_dir (s : State) (c k : Nat) (x : Slot) : (s.setSlot c k x).dir = s.dir := rfl
@[simp] theorem setSlot_colls (s : State) (c k : Nat) (x : Slot) : (s.setSlot c k x).colls = s.colls := rfl
@[simp] theorem setSlot_suspd (s : State) (c k : Nat) (x : Slot) : (s.setSlot c k x).suspd = s.suspd := rfl
@[simp] theorem setSlot_fab (s : State) (c k : Nat) (x : Slot) : (s.setSlot c k x).fab = s.fab := rfl
@[simp] theorem setSlot_ctxs (s : State) (c k : Nat) (x : Slot) : (s.setSlot c k x).ctxs = s.ctxs := rfl
@[simp] theorem setSlot_launches (s : State) (c k : Nat) (x : Slot) : (s.setSlot c k x).launches = s.launches := rfl
@[simp] theorem setSlot_domains (s : State) (c k : Nat) (x : Slot) : (s.setSlot c k x).domains = s.domains := rfl
@[simp] theorem setSlot_episodes (s : State) (c k : Nat) (x : Slot) : (s.setSlot c k x).episodes = s.episodes := rfl
@[simp] theorem setSlot_reqs (s : State) (c k : Nat) (x : Slot) : (s.setSlot c k x).reqs = s.reqs := rfl
@[simp] theorem setSlot_accs (s : State) (c k : Nat) (x : Slot) : (s.setSlot c k x).accs = s.accs := rfl
@[simp] theorem setSlot_msgs (s : State) (c k : Nat) (x : Slot) : (s.setSlot c k x).msgs = s.msgs := rfl
@[simp] theorem setSlot_spills (s : State) (c k : Nat) (x : Slot) : (s.setSlot c k x).spills = s.spills := rfl
@[simp] theorem setSlot_spillAt (s : State) (c k : Nat) (x : Slot) : (s.setSlot c k x).spillAt = s.spillAt := rfl
@[simp] theorem setSlot_fpkts (s : State) (c k : Nat) (x : Slot) : (s.setSlot c k x).fpkts = s.fpkts := rfl
@[simp] theorem setSlot_invs (s : State) (c k : Nat) (x : Slot) : (s.setSlot c k x).invs = s.invs := rfl
@[simp] theorem setSlot_handlers (s : State) (c k : Nat) (x : Slot) : (s.setSlot c k x).handlers = s.handlers := rfl
@[simp] theorem setSlot_host (s : State) (c k : Nat) (x : Slot) : (s.setSlot c k x).host = s.host := rfl
@[simp] theorem setSlot_power (s : State) (c k : Nat) (x : Slot) : (s.setSlot c k x).power = s.power := rfl
@[simp] theorem setSlot_out (s : State) (c k : Nat) (x : Slot) : (s.setSlot c k x).out = s.out := rfl
@[simp] theorem modSlot_pkg (s : State) (c k : Nat) (f : Slot → Slot) : (s.modSlot c k f).pkg = s.pkg := rfl
@[simp] theorem modSlot_agenda (s : State) (c k : Nat) (f : Slot → Slot) : (s.modSlot c k f).agenda = s.agenda := rfl
@[simp] theorem modSlot_turn (s : State) (c k : Nat) (f : Slot → Slot) : (s.modSlot c k f).turn = s.turn := rfl
@[simp] theorem modSlot_fresh (s : State) (c k : Nat) (f : Slot → Slot) : (s.modSlot c k f).fresh = s.fresh := rfl
@[simp] theorem modSlot_nextId (s : State) (c k : Nat) (f : Slot → Slot) : (s.modSlot c k f).nextId = s.nextId := rfl
@[simp] theorem modSlot_reft (s : State) (c k : Nat) (f : Slot → Slot) : (s.modSlot c k f).reft = s.reft := rfl
@[simp] theorem modSlot_reftAdj (s : State) (c k : Nat) (f : Slot → Slot) : (s.modSlot c k f).reftAdj = s.reftAdj := rfl
@[simp] theorem modSlot_reftNext (s : State) (c k : Nat) (f : Slot → Slot) : (s.modSlot c k f).reftNext = s.reftNext := rfl
@[simp] theorem modSlot_mem (s : State) (c k : Nat) (f : Slot → Slot) : (s.modSlot c k f).mem = s.mem := rfl
@[simp] theorem modSlot_tags (s : State) (c k : Nat) (f : Slot → Slot) : (s.modSlot c k f).tags = s.tags := rfl
@[simp] theorem modSlot_errs (s : State) (c k : Nat) (f : Slot → Slot) : (s.modSlot c k f).errs = s.errs := rfl
@[simp] theorem modSlot_clusters (s : State) (c k : Nat) (f : Slot → Slot) : (s.modSlot c k f).clusters = s.clusters := rfl
@[simp] theorem modSlot_dies (s : State) (c k : Nat) (f : Slot → Slot) : (s.modSlot c k f).dies = s.dies := rfl
@[simp] theorem modSlot_mdies (s : State) (c k : Nat) (f : Slot → Slot) : (s.modSlot c k f).mdies = s.mdies := rfl
@[simp] theorem modSlot_dir (s : State) (c k : Nat) (f : Slot → Slot) : (s.modSlot c k f).dir = s.dir := rfl
@[simp] theorem modSlot_colls (s : State) (c k : Nat) (f : Slot → Slot) : (s.modSlot c k f).colls = s.colls := rfl
@[simp] theorem modSlot_suspd (s : State) (c k : Nat) (f : Slot → Slot) : (s.modSlot c k f).suspd = s.suspd := rfl
@[simp] theorem modSlot_fab (s : State) (c k : Nat) (f : Slot → Slot) : (s.modSlot c k f).fab = s.fab := rfl
@[simp] theorem modSlot_ctxs (s : State) (c k : Nat) (f : Slot → Slot) : (s.modSlot c k f).ctxs = s.ctxs := rfl
@[simp] theorem modSlot_launches (s : State) (c k : Nat) (f : Slot → Slot) : (s.modSlot c k f).launches = s.launches := rfl
@[simp] theorem modSlot_domains (s : State) (c k : Nat) (f : Slot → Slot) : (s.modSlot c k f).domains = s.domains := rfl
@[simp] theorem modSlot_episodes (s : State) (c k : Nat) (f : Slot → Slot) : (s.modSlot c k f).episodes = s.episodes := rfl
@[simp] theorem modSlot_reqs (s : State) (c k : Nat) (f : Slot → Slot) : (s.modSlot c k f).reqs = s.reqs := rfl
@[simp] theorem modSlot_accs (s : State) (c k : Nat) (f : Slot → Slot) : (s.modSlot c k f).accs = s.accs := rfl
@[simp] theorem modSlot_msgs (s : State) (c k : Nat) (f : Slot → Slot) : (s.modSlot c k f).msgs = s.msgs := rfl
@[simp] theorem modSlot_spills (s : State) (c k : Nat) (f : Slot → Slot) : (s.modSlot c k f).spills = s.spills := rfl
@[simp] theorem modSlot_spillAt (s : State) (c k : Nat) (f : Slot → Slot) : (s.modSlot c k f).spillAt = s.spillAt := rfl
@[simp] theorem modSlot_fpkts (s : State) (c k : Nat) (f : Slot → Slot) : (s.modSlot c k f).fpkts = s.fpkts := rfl
@[simp] theorem modSlot_invs (s : State) (c k : Nat) (f : Slot → Slot) : (s.modSlot c k f).invs = s.invs := rfl
@[simp] theorem modSlot_handlers (s : State) (c k : Nat) (f : Slot → Slot) : (s.modSlot c k f).handlers = s.handlers := rfl
@[simp] theorem modSlot_host (s : State) (c k : Nat) (f : Slot → Slot) : (s.modSlot c k f).host = s.host := rfl
@[simp] theorem modSlot_power (s : State) (c k : Nat) (f : Slot → Slot) : (s.modSlot c k f).power = s.power := rfl
@[simp] theorem modSlot_out (s : State) (c k : Nat) (f : Slot → Slot) : (s.modSlot c k f).out = s.out := rfl
@[simp] theorem setCluster_pkg (s : State) (c : Nat) (x : Cluster) : (s.setCluster c x).pkg = s.pkg := rfl
@[simp] theorem setCluster_agenda (s : State) (c : Nat) (x : Cluster) : (s.setCluster c x).agenda = s.agenda := rfl
@[simp] theorem setCluster_turn (s : State) (c : Nat) (x : Cluster) : (s.setCluster c x).turn = s.turn := rfl
@[simp] theorem setCluster_fresh (s : State) (c : Nat) (x : Cluster) : (s.setCluster c x).fresh = s.fresh := rfl
@[simp] theorem setCluster_nextId (s : State) (c : Nat) (x : Cluster) : (s.setCluster c x).nextId = s.nextId := rfl
@[simp] theorem setCluster_reft (s : State) (c : Nat) (x : Cluster) : (s.setCluster c x).reft = s.reft := rfl
@[simp] theorem setCluster_reftAdj (s : State) (c : Nat) (x : Cluster) : (s.setCluster c x).reftAdj = s.reftAdj := rfl
@[simp] theorem setCluster_reftNext (s : State) (c : Nat) (x : Cluster) : (s.setCluster c x).reftNext = s.reftNext := rfl
@[simp] theorem setCluster_mem (s : State) (c : Nat) (x : Cluster) : (s.setCluster c x).mem = s.mem := rfl
@[simp] theorem setCluster_tags (s : State) (c : Nat) (x : Cluster) : (s.setCluster c x).tags = s.tags := rfl
@[simp] theorem setCluster_errs (s : State) (c : Nat) (x : Cluster) : (s.setCluster c x).errs = s.errs := rfl
@[simp] theorem setCluster_cores (s : State) (c : Nat) (x : Cluster) : (s.setCluster c x).cores = s.cores := rfl
@[simp] theorem setCluster_dies (s : State) (c : Nat) (x : Cluster) : (s.setCluster c x).dies = s.dies := rfl
@[simp] theorem setCluster_mdies (s : State) (c : Nat) (x : Cluster) : (s.setCluster c x).mdies = s.mdies := rfl
@[simp] theorem setCluster_dir (s : State) (c : Nat) (x : Cluster) : (s.setCluster c x).dir = s.dir := rfl
@[simp] theorem setCluster_colls (s : State) (c : Nat) (x : Cluster) : (s.setCluster c x).colls = s.colls := rfl
@[simp] theorem setCluster_suspd (s : State) (c : Nat) (x : Cluster) : (s.setCluster c x).suspd = s.suspd := rfl
@[simp] theorem setCluster_fab (s : State) (c : Nat) (x : Cluster) : (s.setCluster c x).fab = s.fab := rfl
@[simp] theorem setCluster_ctxs (s : State) (c : Nat) (x : Cluster) : (s.setCluster c x).ctxs = s.ctxs := rfl
@[simp] theorem setCluster_launches (s : State) (c : Nat) (x : Cluster) : (s.setCluster c x).launches = s.launches := rfl
@[simp] theorem setCluster_domains (s : State) (c : Nat) (x : Cluster) : (s.setCluster c x).domains = s.domains := rfl
@[simp] theorem setCluster_episodes (s : State) (c : Nat) (x : Cluster) : (s.setCluster c x).episodes = s.episodes := rfl
@[simp] theorem setCluster_reqs (s : State) (c : Nat) (x : Cluster) : (s.setCluster c x).reqs = s.reqs := rfl
@[simp] theorem setCluster_accs (s : State) (c : Nat) (x : Cluster) : (s.setCluster c x).accs = s.accs := rfl
@[simp] theorem setCluster_msgs (s : State) (c : Nat) (x : Cluster) : (s.setCluster c x).msgs = s.msgs := rfl
@[simp] theorem setCluster_spills (s : State) (c : Nat) (x : Cluster) : (s.setCluster c x).spills = s.spills := rfl
@[simp] theorem setCluster_spillAt (s : State) (c : Nat) (x : Cluster) : (s.setCluster c x).spillAt = s.spillAt := rfl
@[simp] theorem setCluster_fpkts (s : State) (c : Nat) (x : Cluster) : (s.setCluster c x).fpkts = s.fpkts := rfl
@[simp] theorem setCluster_invs (s : State) (c : Nat) (x : Cluster) : (s.setCluster c x).invs = s.invs := rfl
@[simp] theorem setCluster_handlers (s : State) (c : Nat) (x : Cluster) : (s.setCluster c x).handlers = s.handlers := rfl
@[simp] theorem setCluster_host (s : State) (c : Nat) (x : Cluster) : (s.setCluster c x).host = s.host := rfl
@[simp] theorem setCluster_power (s : State) (c : Nat) (x : Cluster) : (s.setCluster c x).power = s.power := rfl
@[simp] theorem setCluster_out (s : State) (c : Nat) (x : Cluster) : (s.setCluster c x).out = s.out := rfl
@[simp] theorem setDie_pkg (s : State) (d : Nat) (x : Die) : (s.setDie d x).pkg = s.pkg := rfl
@[simp] theorem setDie_agenda (s : State) (d : Nat) (x : Die) : (s.setDie d x).agenda = s.agenda := rfl
@[simp] theorem setDie_turn (s : State) (d : Nat) (x : Die) : (s.setDie d x).turn = s.turn := rfl
@[simp] theorem setDie_fresh (s : State) (d : Nat) (x : Die) : (s.setDie d x).fresh = s.fresh := rfl
@[simp] theorem setDie_nextId (s : State) (d : Nat) (x : Die) : (s.setDie d x).nextId = s.nextId := rfl
@[simp] theorem setDie_reft (s : State) (d : Nat) (x : Die) : (s.setDie d x).reft = s.reft := rfl
@[simp] theorem setDie_reftAdj (s : State) (d : Nat) (x : Die) : (s.setDie d x).reftAdj = s.reftAdj := rfl
@[simp] theorem setDie_reftNext (s : State) (d : Nat) (x : Die) : (s.setDie d x).reftNext = s.reftNext := rfl
@[simp] theorem setDie_mem (s : State) (d : Nat) (x : Die) : (s.setDie d x).mem = s.mem := rfl
@[simp] theorem setDie_tags (s : State) (d : Nat) (x : Die) : (s.setDie d x).tags = s.tags := rfl
@[simp] theorem setDie_errs (s : State) (d : Nat) (x : Die) : (s.setDie d x).errs = s.errs := rfl
@[simp] theorem setDie_cores (s : State) (d : Nat) (x : Die) : (s.setDie d x).cores = s.cores := rfl
@[simp] theorem setDie_clusters (s : State) (d : Nat) (x : Die) : (s.setDie d x).clusters = s.clusters := rfl
@[simp] theorem setDie_mdies (s : State) (d : Nat) (x : Die) : (s.setDie d x).mdies = s.mdies := rfl
@[simp] theorem setDie_dir (s : State) (d : Nat) (x : Die) : (s.setDie d x).dir = s.dir := rfl
@[simp] theorem setDie_colls (s : State) (d : Nat) (x : Die) : (s.setDie d x).colls = s.colls := rfl
@[simp] theorem setDie_suspd (s : State) (d : Nat) (x : Die) : (s.setDie d x).suspd = s.suspd := rfl
@[simp] theorem setDie_fab (s : State) (d : Nat) (x : Die) : (s.setDie d x).fab = s.fab := rfl
@[simp] theorem setDie_ctxs (s : State) (d : Nat) (x : Die) : (s.setDie d x).ctxs = s.ctxs := rfl
@[simp] theorem setDie_launches (s : State) (d : Nat) (x : Die) : (s.setDie d x).launches = s.launches := rfl
@[simp] theorem setDie_domains (s : State) (d : Nat) (x : Die) : (s.setDie d x).domains = s.domains := rfl
@[simp] theorem setDie_episodes (s : State) (d : Nat) (x : Die) : (s.setDie d x).episodes = s.episodes := rfl
@[simp] theorem setDie_reqs (s : State) (d : Nat) (x : Die) : (s.setDie d x).reqs = s.reqs := rfl
@[simp] theorem setDie_accs (s : State) (d : Nat) (x : Die) : (s.setDie d x).accs = s.accs := rfl
@[simp] theorem setDie_msgs (s : State) (d : Nat) (x : Die) : (s.setDie d x).msgs = s.msgs := rfl
@[simp] theorem setDie_spills (s : State) (d : Nat) (x : Die) : (s.setDie d x).spills = s.spills := rfl
@[simp] theorem setDie_spillAt (s : State) (d : Nat) (x : Die) : (s.setDie d x).spillAt = s.spillAt := rfl
@[simp] theorem setDie_fpkts (s : State) (d : Nat) (x : Die) : (s.setDie d x).fpkts = s.fpkts := rfl
@[simp] theorem setDie_invs (s : State) (d : Nat) (x : Die) : (s.setDie d x).invs = s.invs := rfl
@[simp] theorem setDie_handlers (s : State) (d : Nat) (x : Die) : (s.setDie d x).handlers = s.handlers := rfl
@[simp] theorem setDie_host (s : State) (d : Nat) (x : Die) : (s.setDie d x).host = s.host := rfl
@[simp] theorem setDie_power (s : State) (d : Nat) (x : Die) : (s.setDie d x).power = s.power := rfl
@[simp] theorem setDie_out (s : State) (d : Nat) (x : Die) : (s.setDie d x).out = s.out := rfl
@[simp] theorem setMdie_pkg (s : State) (m : Nat) (x : MDie) : (s.setMdie m x).pkg = s.pkg := rfl
@[simp] theorem setMdie_agenda (s : State) (m : Nat) (x : MDie) : (s.setMdie m x).agenda = s.agenda := rfl
@[simp] theorem setMdie_turn (s : State) (m : Nat) (x : MDie) : (s.setMdie m x).turn = s.turn := rfl
@[simp] theorem setMdie_fresh (s : State) (m : Nat) (x : MDie) : (s.setMdie m x).fresh = s.fresh := rfl
@[simp] theorem setMdie_nextId (s : State) (m : Nat) (x : MDie) : (s.setMdie m x).nextId = s.nextId := rfl
@[simp] theorem setMdie_reft (s : State) (m : Nat) (x : MDie) : (s.setMdie m x).reft = s.reft := rfl
@[simp] theorem setMdie_reftAdj (s : State) (m : Nat) (x : MDie) : (s.setMdie m x).reftAdj = s.reftAdj := rfl
@[simp] theorem setMdie_reftNext (s : State) (m : Nat) (x : MDie) : (s.setMdie m x).reftNext = s.reftNext := rfl
@[simp] theorem setMdie_mem (s : State) (m : Nat) (x : MDie) : (s.setMdie m x).mem = s.mem := rfl
@[simp] theorem setMdie_tags (s : State) (m : Nat) (x : MDie) : (s.setMdie m x).tags = s.tags := rfl
@[simp] theorem setMdie_errs (s : State) (m : Nat) (x : MDie) : (s.setMdie m x).errs = s.errs := rfl
@[simp] theorem setMdie_cores (s : State) (m : Nat) (x : MDie) : (s.setMdie m x).cores = s.cores := rfl
@[simp] theorem setMdie_clusters (s : State) (m : Nat) (x : MDie) : (s.setMdie m x).clusters = s.clusters := rfl
@[simp] theorem setMdie_dies (s : State) (m : Nat) (x : MDie) : (s.setMdie m x).dies = s.dies := rfl
@[simp] theorem setMdie_dir (s : State) (m : Nat) (x : MDie) : (s.setMdie m x).dir = s.dir := rfl
@[simp] theorem setMdie_colls (s : State) (m : Nat) (x : MDie) : (s.setMdie m x).colls = s.colls := rfl
@[simp] theorem setMdie_suspd (s : State) (m : Nat) (x : MDie) : (s.setMdie m x).suspd = s.suspd := rfl
@[simp] theorem setMdie_fab (s : State) (m : Nat) (x : MDie) : (s.setMdie m x).fab = s.fab := rfl
@[simp] theorem setMdie_ctxs (s : State) (m : Nat) (x : MDie) : (s.setMdie m x).ctxs = s.ctxs := rfl
@[simp] theorem setMdie_launches (s : State) (m : Nat) (x : MDie) : (s.setMdie m x).launches = s.launches := rfl
@[simp] theorem setMdie_domains (s : State) (m : Nat) (x : MDie) : (s.setMdie m x).domains = s.domains := rfl
@[simp] theorem setMdie_episodes (s : State) (m : Nat) (x : MDie) : (s.setMdie m x).episodes = s.episodes := rfl
@[simp] theorem setMdie_reqs (s : State) (m : Nat) (x : MDie) : (s.setMdie m x).reqs = s.reqs := rfl
@[simp] theorem setMdie_accs (s : State) (m : Nat) (x : MDie) : (s.setMdie m x).accs = s.accs := rfl
@[simp] theorem setMdie_msgs (s : State) (m : Nat) (x : MDie) : (s.setMdie m x).msgs = s.msgs := rfl
@[simp] theorem setMdie_spills (s : State) (m : Nat) (x : MDie) : (s.setMdie m x).spills = s.spills := rfl
@[simp] theorem setMdie_spillAt (s : State) (m : Nat) (x : MDie) : (s.setMdie m x).spillAt = s.spillAt := rfl
@[simp] theorem setMdie_fpkts (s : State) (m : Nat) (x : MDie) : (s.setMdie m x).fpkts = s.fpkts := rfl
@[simp] theorem setMdie_invs (s : State) (m : Nat) (x : MDie) : (s.setMdie m x).invs = s.invs := rfl
@[simp] theorem setMdie_handlers (s : State) (m : Nat) (x : MDie) : (s.setMdie m x).handlers = s.handlers := rfl
@[simp] theorem setMdie_host (s : State) (m : Nat) (x : MDie) : (s.setMdie m x).host = s.host := rfl
@[simp] theorem setMdie_power (s : State) (m : Nat) (x : MDie) : (s.setMdie m x).power = s.power := rfl
@[simp] theorem setMdie_out (s : State) (m : Nat) (x : MDie) : (s.setMdie m x).out = s.out := rfl
@[simp] theorem setCtx_pkg (s : State) (k : Nat) (x : Ctx) : (s.setCtx k x).pkg = s.pkg := rfl
@[simp] theorem setCtx_agenda (s : State) (k : Nat) (x : Ctx) : (s.setCtx k x).agenda = s.agenda := rfl
@[simp] theorem setCtx_turn (s : State) (k : Nat) (x : Ctx) : (s.setCtx k x).turn = s.turn := rfl
@[simp] theorem setCtx_fresh (s : State) (k : Nat) (x : Ctx) : (s.setCtx k x).fresh = s.fresh := rfl
@[simp] theorem setCtx_nextId (s : State) (k : Nat) (x : Ctx) : (s.setCtx k x).nextId = s.nextId := rfl
@[simp] theorem setCtx_reft (s : State) (k : Nat) (x : Ctx) : (s.setCtx k x).reft = s.reft := rfl
@[simp] theorem setCtx_reftAdj (s : State) (k : Nat) (x : Ctx) : (s.setCtx k x).reftAdj = s.reftAdj := rfl
@[simp] theorem setCtx_reftNext (s : State) (k : Nat) (x : Ctx) : (s.setCtx k x).reftNext = s.reftNext := rfl
@[simp] theorem setCtx_mem (s : State) (k : Nat) (x : Ctx) : (s.setCtx k x).mem = s.mem := rfl
@[simp] theorem setCtx_tags (s : State) (k : Nat) (x : Ctx) : (s.setCtx k x).tags = s.tags := rfl
@[simp] theorem setCtx_errs (s : State) (k : Nat) (x : Ctx) : (s.setCtx k x).errs = s.errs := rfl
@[simp] theorem setCtx_cores (s : State) (k : Nat) (x : Ctx) : (s.setCtx k x).cores = s.cores := rfl
@[simp] theorem setCtx_clusters (s : State) (k : Nat) (x : Ctx) : (s.setCtx k x).clusters = s.clusters := rfl
@[simp] theorem setCtx_dies (s : State) (k : Nat) (x : Ctx) : (s.setCtx k x).dies = s.dies := rfl
@[simp] theorem setCtx_mdies (s : State) (k : Nat) (x : Ctx) : (s.setCtx k x).mdies = s.mdies := rfl
@[simp] theorem setCtx_dir (s : State) (k : Nat) (x : Ctx) : (s.setCtx k x).dir = s.dir := rfl
@[simp] theorem setCtx_colls (s : State) (k : Nat) (x : Ctx) : (s.setCtx k x).colls = s.colls := rfl
@[simp] theorem setCtx_suspd (s : State) (k : Nat) (x : Ctx) : (s.setCtx k x).suspd = s.suspd := rfl
@[simp] theorem setCtx_fab (s : State) (k : Nat) (x : Ctx) : (s.setCtx k x).fab = s.fab := rfl
@[simp] theorem setCtx_launches (s : State) (k : Nat) (x : Ctx) : (s.setCtx k x).launches = s.launches := rfl
@[simp] theorem setCtx_domains (s : State) (k : Nat) (x : Ctx) : (s.setCtx k x).domains = s.domains := rfl
@[simp] theorem setCtx_episodes (s : State) (k : Nat) (x : Ctx) : (s.setCtx k x).episodes = s.episodes := rfl
@[simp] theorem setCtx_reqs (s : State) (k : Nat) (x : Ctx) : (s.setCtx k x).reqs = s.reqs := rfl
@[simp] theorem setCtx_accs (s : State) (k : Nat) (x : Ctx) : (s.setCtx k x).accs = s.accs := rfl
@[simp] theorem setCtx_msgs (s : State) (k : Nat) (x : Ctx) : (s.setCtx k x).msgs = s.msgs := rfl
@[simp] theorem setCtx_spills (s : State) (k : Nat) (x : Ctx) : (s.setCtx k x).spills = s.spills := rfl
@[simp] theorem setCtx_spillAt (s : State) (k : Nat) (x : Ctx) : (s.setCtx k x).spillAt = s.spillAt := rfl
@[simp] theorem setCtx_fpkts (s : State) (k : Nat) (x : Ctx) : (s.setCtx k x).fpkts = s.fpkts := rfl
@[simp] theorem setCtx_invs (s : State) (k : Nat) (x : Ctx) : (s.setCtx k x).invs = s.invs := rfl
@[simp] theorem setCtx_handlers (s : State) (k : Nat) (x : Ctx) : (s.setCtx k x).handlers = s.handlers := rfl
@[simp] theorem setCtx_host (s : State) (k : Nat) (x : Ctx) : (s.setCtx k x).host = s.host := rfl
@[simp] theorem setCtx_power (s : State) (k : Nat) (x : Ctx) : (s.setCtx k x).power = s.power := rfl
@[simp] theorem setCtx_out (s : State) (k : Nat) (x : Ctx) : (s.setCtx k x).out = s.out := rfl
@[simp] theorem irq_pkg (s : State) (v : Nat) : (s.irq v).pkg = s.pkg := rfl
@[simp] theorem irq_agenda (s : State) (v : Nat) : (s.irq v).agenda = s.agenda := rfl
@[simp] theorem irq_turn (s : State) (v : Nat) : (s.irq v).turn = s.turn := rfl
@[simp] theorem irq_fresh (s : State) (v : Nat) : (s.irq v).fresh = s.fresh := rfl
@[simp] theorem irq_nextId (s : State) (v : Nat) : (s.irq v).nextId = s.nextId := rfl
@[simp] theorem irq_reft (s : State) (v : Nat) : (s.irq v).reft = s.reft := rfl
@[simp] theorem irq_reftAdj (s : State) (v : Nat) : (s.irq v).reftAdj = s.reftAdj := rfl
@[simp] theorem irq_reftNext (s : State) (v : Nat) : (s.irq v).reftNext = s.reftNext := rfl
@[simp] theorem irq_mem (s : State) (v : Nat) : (s.irq v).mem = s.mem := rfl
@[simp] theorem irq_tags (s : State) (v : Nat) : (s.irq v).tags = s.tags := rfl
@[simp] theorem irq_errs (s : State) (v : Nat) : (s.irq v).errs = s.errs := rfl
@[simp] theorem irq_cores (s : State) (v : Nat) : (s.irq v).cores = s.cores := rfl
@[simp] theorem irq_clusters (s : State) (v : Nat) : (s.irq v).clusters = s.clusters := rfl
@[simp] theorem irq_dies (s : State) (v : Nat) : (s.irq v).dies = s.dies := rfl
@[simp] theorem irq_mdies (s : State) (v : Nat) : (s.irq v).mdies = s.mdies := rfl
@[simp] theorem irq_dir (s : State) (v : Nat) : (s.irq v).dir = s.dir := rfl
@[simp] theorem irq_colls (s : State) (v : Nat) : (s.irq v).colls = s.colls := rfl
@[simp] theorem irq_suspd (s : State) (v : Nat) : (s.irq v).suspd = s.suspd := rfl
@[simp] theorem irq_fab (s : State) (v : Nat) : (s.irq v).fab = s.fab := rfl
@[simp] theorem irq_ctxs (s : State) (v : Nat) : (s.irq v).ctxs = s.ctxs := rfl
@[simp] theorem irq_launches (s : State) (v : Nat) : (s.irq v).launches = s.launches := rfl
@[simp] theorem irq_domains (s : State) (v : Nat) : (s.irq v).domains = s.domains := rfl
@[simp] theorem irq_episodes (s : State) (v : Nat) : (s.irq v).episodes = s.episodes := rfl
@[simp] theorem irq_reqs (s : State) (v : Nat) : (s.irq v).reqs = s.reqs := rfl
@[simp] theorem irq_accs (s : State) (v : Nat) : (s.irq v).accs = s.accs := rfl
@[simp] theorem irq_msgs (s : State) (v : Nat) : (s.irq v).msgs = s.msgs := rfl
@[simp] theorem irq_spills (s : State) (v : Nat) : (s.irq v).spills = s.spills := rfl
@[simp] theorem irq_spillAt (s : State) (v : Nat) : (s.irq v).spillAt = s.spillAt := rfl
@[simp] theorem irq_fpkts (s : State) (v : Nat) : (s.irq v).fpkts = s.fpkts := rfl
@[simp] theorem irq_invs (s : State) (v : Nat) : (s.irq v).invs = s.invs := rfl
@[simp] theorem irq_handlers (s : State) (v : Nat) : (s.irq v).handlers = s.handlers := rfl
@[simp] theorem irq_host (s : State) (v : Nat) : (s.irq v).host = s.host := rfl
@[simp] theorem irq_power (s : State) (v : Nat) : (s.irq v).power = s.power := rfl
@[simp] theorem modReq_pkg (s : State) (id : Nat) (f : Req → Req) : (s.modReq id f).pkg = s.pkg := rfl
@[simp] theorem modReq_agenda (s : State) (id : Nat) (f : Req → Req) : (s.modReq id f).agenda = s.agenda := rfl
@[simp] theorem modReq_turn (s : State) (id : Nat) (f : Req → Req) : (s.modReq id f).turn = s.turn := rfl
@[simp] theorem modReq_fresh (s : State) (id : Nat) (f : Req → Req) : (s.modReq id f).fresh = s.fresh := rfl
@[simp] theorem modReq_nextId (s : State) (id : Nat) (f : Req → Req) : (s.modReq id f).nextId = s.nextId := rfl
@[simp] theorem modReq_reft (s : State) (id : Nat) (f : Req → Req) : (s.modReq id f).reft = s.reft := rfl
@[simp] theorem modReq_reftAdj (s : State) (id : Nat) (f : Req → Req) : (s.modReq id f).reftAdj = s.reftAdj := rfl
@[simp] theorem modReq_reftNext (s : State) (id : Nat) (f : Req → Req) : (s.modReq id f).reftNext = s.reftNext := rfl
@[simp] theorem modReq_mem (s : State) (id : Nat) (f : Req → Req) : (s.modReq id f).mem = s.mem := rfl
@[simp] theorem modReq_tags (s : State) (id : Nat) (f : Req → Req) : (s.modReq id f).tags = s.tags := rfl
@[simp] theorem modReq_errs (s : State) (id : Nat) (f : Req → Req) : (s.modReq id f).errs = s.errs := rfl
@[simp] theorem modReq_cores (s : State) (id : Nat) (f : Req → Req) : (s.modReq id f).cores = s.cores := rfl
@[simp] theorem modReq_clusters (s : State) (id : Nat) (f : Req → Req) : (s.modReq id f).clusters = s.clusters := rfl
@[simp] theorem modReq_dies (s : State) (id : Nat) (f : Req → Req) : (s.modReq id f).dies = s.dies := rfl
@[simp] theorem modReq_mdies (s : State) (id : Nat) (f : Req → Req) : (s.modReq id f).mdies = s.mdies := rfl
@[simp] theorem modReq_dir (s : State) (id : Nat) (f : Req → Req) : (s.modReq id f).dir = s.dir := rfl
@[simp] theorem modReq_colls (s : State) (id : Nat) (f : Req → Req) : (s.modReq id f).colls = s.colls := rfl
@[simp] theorem modReq_suspd (s : State) (id : Nat) (f : Req → Req) : (s.modReq id f).suspd = s.suspd := rfl
@[simp] theorem modReq_fab (s : State) (id : Nat) (f : Req → Req) : (s.modReq id f).fab = s.fab := rfl
@[simp] theorem modReq_ctxs (s : State) (id : Nat) (f : Req → Req) : (s.modReq id f).ctxs = s.ctxs := rfl
@[simp] theorem modReq_launches (s : State) (id : Nat) (f : Req → Req) : (s.modReq id f).launches = s.launches := rfl
@[simp] theorem modReq_domains (s : State) (id : Nat) (f : Req → Req) : (s.modReq id f).domains = s.domains := rfl
@[simp] theorem modReq_episodes (s : State) (id : Nat) (f : Req → Req) : (s.modReq id f).episodes = s.episodes := rfl
@[simp] theorem modReq_accs (s : State) (id : Nat) (f : Req → Req) : (s.modReq id f).accs = s.accs := rfl
@[simp] theorem modReq_msgs (s : State) (id : Nat) (f : Req → Req) : (s.modReq id f).msgs = s.msgs := rfl
@[simp] theorem modReq_spills (s : State) (id : Nat) (f : Req → Req) : (s.modReq id f).spills = s.spills := rfl
@[simp] theorem modReq_spillAt (s : State) (id : Nat) (f : Req → Req) : (s.modReq id f).spillAt = s.spillAt := rfl
@[simp] theorem modReq_fpkts (s : State) (id : Nat) (f : Req → Req) : (s.modReq id f).fpkts = s.fpkts := rfl
@[simp] theorem modReq_invs (s : State) (id : Nat) (f : Req → Req) : (s.modReq id f).invs = s.invs := rfl
@[simp] theorem modReq_handlers (s : State) (id : Nat) (f : Req → Req) : (s.modReq id f).handlers = s.handlers := rfl
@[simp] theorem modReq_host (s : State) (id : Nat) (f : Req → Req) : (s.modReq id f).host = s.host := rfl
@[simp] theorem modReq_power (s : State) (id : Nat) (f : Req → Req) : (s.modReq id f).power = s.power := rfl
@[simp] theorem modReq_out (s : State) (id : Nat) (f : Req → Req) : (s.modReq id f).out = s.out := rfl
@[simp] theorem dropReq_pkg (s : State) (id : Nat) : (s.dropReq id).pkg = s.pkg := rfl
@[simp] theorem dropReq_agenda (s : State) (id : Nat) : (s.dropReq id).agenda = s.agenda := rfl
@[simp] theorem dropReq_turn (s : State) (id : Nat) : (s.dropReq id).turn = s.turn := rfl
@[simp] theorem dropReq_fresh (s : State) (id : Nat) : (s.dropReq id).fresh = s.fresh := rfl
@[simp] theorem dropReq_nextId (s : State) (id : Nat) : (s.dropReq id).nextId = s.nextId := rfl
@[simp] theorem dropReq_reft (s : State) (id : Nat) : (s.dropReq id).reft = s.reft := rfl
@[simp] theorem dropReq_reftAdj (s : State) (id : Nat) : (s.dropReq id).reftAdj = s.reftAdj := rfl
@[simp] theorem dropReq_reftNext (s : State) (id : Nat) : (s.dropReq id).reftNext = s.reftNext := rfl
@[simp] theorem dropReq_mem (s : State) (id : Nat) : (s.dropReq id).mem = s.mem := rfl
@[simp] theorem dropReq_tags (s : State) (id : Nat) : (s.dropReq id).tags = s.tags := rfl
@[simp] theorem dropReq_errs (s : State) (id : Nat) : (s.dropReq id).errs = s.errs := rfl
@[simp] theorem dropReq_cores (s : State) (id : Nat) : (s.dropReq id).cores = s.cores := rfl
@[simp] theorem dropReq_clusters (s : State) (id : Nat) : (s.dropReq id).clusters = s.clusters := rfl
@[simp] theorem dropReq_dies (s : State) (id : Nat) : (s.dropReq id).dies = s.dies := rfl
@[simp] theorem dropReq_mdies (s : State) (id : Nat) : (s.dropReq id).mdies = s.mdies := rfl
@[simp] theorem dropReq_dir (s : State) (id : Nat) : (s.dropReq id).dir = s.dir := rfl
@[simp] theorem dropReq_colls (s : State) (id : Nat) : (s.dropReq id).colls = s.colls := rfl
@[simp] theorem dropReq_suspd (s : State) (id : Nat) : (s.dropReq id).suspd = s.suspd := rfl
@[simp] theorem dropReq_fab (s : State) (id : Nat) : (s.dropReq id).fab = s.fab := rfl
@[simp] theorem dropReq_ctxs (s : State) (id : Nat) : (s.dropReq id).ctxs = s.ctxs := rfl
@[simp] theorem dropReq_launches (s : State) (id : Nat) : (s.dropReq id).launches = s.launches := rfl
@[simp] theorem dropReq_domains (s : State) (id : Nat) : (s.dropReq id).domains = s.domains := rfl
@[simp] theorem dropReq_episodes (s : State) (id : Nat) : (s.dropReq id).episodes = s.episodes := rfl
@[simp] theorem dropReq_accs (s : State) (id : Nat) : (s.dropReq id).accs = s.accs := rfl
@[simp] theorem dropReq_msgs (s : State) (id : Nat) : (s.dropReq id).msgs = s.msgs := rfl
@[simp] theorem dropReq_spills (s : State) (id : Nat) : (s.dropReq id).spills = s.spills := rfl
@[simp] theorem dropReq_spillAt (s : State) (id : Nat) : (s.dropReq id).spillAt = s.spillAt := rfl
@[simp] theorem dropReq_fpkts (s : State) (id : Nat) : (s.dropReq id).fpkts = s.fpkts := rfl
@[simp] theorem dropReq_invs (s : State) (id : Nat) : (s.dropReq id).invs = s.invs := rfl
@[simp] theorem dropReq_handlers (s : State) (id : Nat) : (s.dropReq id).handlers = s.handlers := rfl
@[simp] theorem dropReq_host (s : State) (id : Nat) : (s.dropReq id).host = s.host := rfl
@[simp] theorem dropReq_power (s : State) (id : Nat) : (s.dropReq id).power = s.power := rfl
@[simp] theorem dropReq_out (s : State) (id : Nat) : (s.dropReq id).out = s.out := rfl
@[simp] theorem putTag_pkg (s : State) (k : Nat) (t : Bool) : (s.putTag k t).pkg = s.pkg := rfl
@[simp] theorem putTag_agenda (s : State) (k : Nat) (t : Bool) : (s.putTag k t).agenda = s.agenda := rfl
@[simp] theorem putTag_turn (s : State) (k : Nat) (t : Bool) : (s.putTag k t).turn = s.turn := rfl
@[simp] theorem putTag_fresh (s : State) (k : Nat) (t : Bool) : (s.putTag k t).fresh = s.fresh := rfl
@[simp] theorem putTag_nextId (s : State) (k : Nat) (t : Bool) : (s.putTag k t).nextId = s.nextId := rfl
@[simp] theorem putTag_reft (s : State) (k : Nat) (t : Bool) : (s.putTag k t).reft = s.reft := rfl
@[simp] theorem putTag_reftAdj (s : State) (k : Nat) (t : Bool) : (s.putTag k t).reftAdj = s.reftAdj := rfl
@[simp] theorem putTag_reftNext (s : State) (k : Nat) (t : Bool) : (s.putTag k t).reftNext = s.reftNext := rfl
@[simp] theorem putTag_mem (s : State) (k : Nat) (t : Bool) : (s.putTag k t).mem = s.mem := rfl
@[simp] theorem putTag_errs (s : State) (k : Nat) (t : Bool) : (s.putTag k t).errs = s.errs := rfl
@[simp] theorem putTag_cores (s : State) (k : Nat) (t : Bool) : (s.putTag k t).cores = s.cores := rfl
@[simp] theorem putTag_clusters (s : State) (k : Nat) (t : Bool) : (s.putTag k t).clusters = s.clusters := rfl
@[simp] theorem putTag_dies (s : State) (k : Nat) (t : Bool) : (s.putTag k t).dies = s.dies := rfl
@[simp] theorem putTag_mdies (s : State) (k : Nat) (t : Bool) : (s.putTag k t).mdies = s.mdies := rfl
@[simp] theorem putTag_dir (s : State) (k : Nat) (t : Bool) : (s.putTag k t).dir = s.dir := rfl
@[simp] theorem putTag_colls (s : State) (k : Nat) (t : Bool) : (s.putTag k t).colls = s.colls := rfl
@[simp] theorem putTag_suspd (s : State) (k : Nat) (t : Bool) : (s.putTag k t).suspd = s.suspd := rfl
@[simp] theorem putTag_fab (s : State) (k : Nat) (t : Bool) : (s.putTag k t).fab = s.fab := rfl
@[simp] theorem putTag_ctxs (s : State) (k : Nat) (t : Bool) : (s.putTag k t).ctxs = s.ctxs := rfl
@[simp] theorem putTag_launches (s : State) (k : Nat) (t : Bool) : (s.putTag k t).launches = s.launches := rfl
@[simp] theorem putTag_domains (s : State) (k : Nat) (t : Bool) : (s.putTag k t).domains = s.domains := rfl
@[simp] theorem putTag_episodes (s : State) (k : Nat) (t : Bool) : (s.putTag k t).episodes = s.episodes := rfl
@[simp] theorem putTag_reqs (s : State) (k : Nat) (t : Bool) : (s.putTag k t).reqs = s.reqs := rfl
@[simp] theorem putTag_accs (s : State) (k : Nat) (t : Bool) : (s.putTag k t).accs = s.accs := rfl
@[simp] theorem putTag_msgs (s : State) (k : Nat) (t : Bool) : (s.putTag k t).msgs = s.msgs := rfl
@[simp] theorem putTag_spills (s : State) (k : Nat) (t : Bool) : (s.putTag k t).spills = s.spills := rfl
@[simp] theorem putTag_spillAt (s : State) (k : Nat) (t : Bool) : (s.putTag k t).spillAt = s.spillAt := rfl
@[simp] theorem putTag_fpkts (s : State) (k : Nat) (t : Bool) : (s.putTag k t).fpkts = s.fpkts := rfl
@[simp] theorem putTag_invs (s : State) (k : Nat) (t : Bool) : (s.putTag k t).invs = s.invs := rfl
@[simp] theorem putTag_handlers (s : State) (k : Nat) (t : Bool) : (s.putTag k t).handlers = s.handlers := rfl
@[simp] theorem putTag_host (s : State) (k : Nat) (t : Bool) : (s.putTag k t).host = s.host := rfl
@[simp] theorem putTag_power (s : State) (k : Nat) (t : Bool) : (s.putTag k t).power = s.power := rfl
@[simp] theorem putTag_out (s : State) (k : Nat) (t : Bool) : (s.putTag k t).out = s.out := rfl
@[simp] theorem addReq_pkg (s : State) (r : Req) : (s.addReq r).pkg = s.pkg := rfl
@[simp] theorem addReq_agenda (s : State) (r : Req) : (s.addReq r).agenda = s.agenda := rfl
@[simp] theorem addReq_turn (s : State) (r : Req) : (s.addReq r).turn = s.turn := rfl
@[simp] theorem addReq_fresh (s : State) (r : Req) : (s.addReq r).fresh = s.fresh := rfl
@[simp] theorem addReq_reft (s : State) (r : Req) : (s.addReq r).reft = s.reft := rfl
@[simp] theorem addReq_reftAdj (s : State) (r : Req) : (s.addReq r).reftAdj = s.reftAdj := rfl
@[simp] theorem addReq_reftNext (s : State) (r : Req) : (s.addReq r).reftNext = s.reftNext := rfl
@[simp] theorem addReq_mem (s : State) (r : Req) : (s.addReq r).mem = s.mem := rfl
@[simp] theorem addReq_tags (s : State) (r : Req) : (s.addReq r).tags = s.tags := rfl
@[simp] theorem addReq_errs (s : State) (r : Req) : (s.addReq r).errs = s.errs := rfl
@[simp] theorem addReq_cores (s : State) (r : Req) : (s.addReq r).cores = s.cores := rfl
@[simp] theorem addReq_clusters (s : State) (r : Req) : (s.addReq r).clusters = s.clusters := rfl
@[simp] theorem addReq_dies (s : State) (r : Req) : (s.addReq r).dies = s.dies := rfl
@[simp] theorem addReq_mdies (s : State) (r : Req) : (s.addReq r).mdies = s.mdies := rfl
@[simp] theorem addReq_dir (s : State) (r : Req) : (s.addReq r).dir = s.dir := rfl
@[simp] theorem addReq_colls (s : State) (r : Req) : (s.addReq r).colls = s.colls := rfl
@[simp] theorem addReq_suspd (s : State) (r : Req) : (s.addReq r).suspd = s.suspd := rfl
@[simp] theorem addReq_fab (s : State) (r : Req) : (s.addReq r).fab = s.fab := rfl
@[simp] theorem addReq_ctxs (s : State) (r : Req) : (s.addReq r).ctxs = s.ctxs := rfl
@[simp] theorem addReq_launches (s : State) (r : Req) : (s.addReq r).launches = s.launches := rfl
@[simp] theorem addReq_domains (s : State) (r : Req) : (s.addReq r).domains = s.domains := rfl
@[simp] theorem addReq_episodes (s : State) (r : Req) : (s.addReq r).episodes = s.episodes := rfl
@[simp] theorem addReq_accs (s : State) (r : Req) : (s.addReq r).accs = s.accs := rfl
@[simp] theorem addReq_msgs (s : State) (r : Req) : (s.addReq r).msgs = s.msgs := rfl
@[simp] theorem addReq_spills (s : State) (r : Req) : (s.addReq r).spills = s.spills := rfl
@[simp] theorem addReq_spillAt (s : State) (r : Req) : (s.addReq r).spillAt = s.spillAt := rfl
@[simp] theorem addReq_fpkts (s : State) (r : Req) : (s.addReq r).fpkts = s.fpkts := rfl
@[simp] theorem addReq_invs (s : State) (r : Req) : (s.addReq r).invs = s.invs := rfl
@[simp] theorem addReq_handlers (s : State) (r : Req) : (s.addReq r).handlers = s.handlers := rfl
@[simp] theorem addReq_host (s : State) (r : Req) : (s.addReq r).host = s.host := rfl
@[simp] theorem addReq_power (s : State) (r : Req) : (s.addReq r).power = s.power := rfl
@[simp] theorem addReq_out (s : State) (r : Req) : (s.addReq r).out = s.out := rfl
@[simp] theorem writeBytes_pkg (s : State) (k : Nat) (bs : List Byte) : (s.writeBytes k bs).pkg = s.pkg := rfl
@[simp] theorem writeBytes_agenda (s : State) (k : Nat) (bs : List Byte) : (s.writeBytes k bs).agenda = s.agenda := rfl
@[simp] theorem writeBytes_turn (s : State) (k : Nat) (bs : List Byte) : (s.writeBytes k bs).turn = s.turn := rfl
@[simp] theorem writeBytes_fresh (s : State) (k : Nat) (bs : List Byte) : (s.writeBytes k bs).fresh = s.fresh := rfl
@[simp] theorem writeBytes_nextId (s : State) (k : Nat) (bs : List Byte) : (s.writeBytes k bs).nextId = s.nextId := rfl
@[simp] theorem writeBytes_reft (s : State) (k : Nat) (bs : List Byte) : (s.writeBytes k bs).reft = s.reft := rfl
@[simp] theorem writeBytes_reftAdj (s : State) (k : Nat) (bs : List Byte) : (s.writeBytes k bs).reftAdj = s.reftAdj := rfl
@[simp] theorem writeBytes_reftNext (s : State) (k : Nat) (bs : List Byte) : (s.writeBytes k bs).reftNext = s.reftNext := rfl
@[simp] theorem writeBytes_errs (s : State) (k : Nat) (bs : List Byte) : (s.writeBytes k bs).errs = s.errs := rfl
@[simp] theorem writeBytes_cores (s : State) (k : Nat) (bs : List Byte) : (s.writeBytes k bs).cores = s.cores := rfl
@[simp] theorem writeBytes_clusters (s : State) (k : Nat) (bs : List Byte) : (s.writeBytes k bs).clusters = s.clusters := rfl
@[simp] theorem writeBytes_dies (s : State) (k : Nat) (bs : List Byte) : (s.writeBytes k bs).dies = s.dies := rfl
@[simp] theorem writeBytes_mdies (s : State) (k : Nat) (bs : List Byte) : (s.writeBytes k bs).mdies = s.mdies := rfl
@[simp] theorem writeBytes_dir (s : State) (k : Nat) (bs : List Byte) : (s.writeBytes k bs).dir = s.dir := rfl
@[simp] theorem writeBytes_colls (s : State) (k : Nat) (bs : List Byte) : (s.writeBytes k bs).colls = s.colls := rfl
@[simp] theorem writeBytes_suspd (s : State) (k : Nat) (bs : List Byte) : (s.writeBytes k bs).suspd = s.suspd := rfl
@[simp] theorem writeBytes_fab (s : State) (k : Nat) (bs : List Byte) : (s.writeBytes k bs).fab = s.fab := rfl
@[simp] theorem writeBytes_ctxs (s : State) (k : Nat) (bs : List Byte) : (s.writeBytes k bs).ctxs = s.ctxs := rfl
@[simp] theorem writeBytes_launches (s : State) (k : Nat) (bs : List Byte) : (s.writeBytes k bs).launches = s.launches := rfl
@[simp] theorem writeBytes_domains (s : State) (k : Nat) (bs : List Byte) : (s.writeBytes k bs).domains = s.domains := rfl
@[simp] theorem writeBytes_episodes (s : State) (k : Nat) (bs : List Byte) : (s.writeBytes k bs).episodes = s.episodes := rfl
@[simp] theorem writeBytes_reqs (s : State) (k : Nat) (bs : List Byte) : (s.writeBytes k bs).reqs = s.reqs := rfl
@[simp] theorem writeBytes_accs (s : State) (k : Nat) (bs : List Byte) : (s.writeBytes k bs).accs = s.accs := rfl
@[simp] theorem writeBytes_msgs (s : State) (k : Nat) (bs : List Byte) : (s.writeBytes k bs).msgs = s.msgs := rfl
@[simp] theorem writeBytes_spills (s : State) (k : Nat) (bs : List Byte) : (s.writeBytes k bs).spills = s.spills := rfl
@[simp] theorem writeBytes_spillAt (s : State) (k : Nat) (bs : List Byte) : (s.writeBytes k bs).spillAt = s.spillAt := rfl
@[simp] theorem writeBytes_fpkts (s : State) (k : Nat) (bs : List Byte) : (s.writeBytes k bs).fpkts = s.fpkts := rfl
@[simp] theorem writeBytes_invs (s : State) (k : Nat) (bs : List Byte) : (s.writeBytes k bs).invs = s.invs := rfl
@[simp] theorem writeBytes_handlers (s : State) (k : Nat) (bs : List Byte) : (s.writeBytes k bs).handlers = s.handlers := rfl
@[simp] theorem writeBytes_host (s : State) (k : Nat) (bs : List Byte) : (s.writeBytes k bs).host = s.host := rfl
@[simp] theorem writeBytes_power (s : State) (k : Nat) (bs : List Byte) : (s.writeBytes k bs).power = s.power := rfl
@[simp] theorem writeBytes_out (s : State) (k : Nat) (bs : List Byte) : (s.writeBytes k bs).out = s.out := rfl

/-! ## Tables and vectors -/

@[simp] theorem tblGet_tblSet_same {α : Type} (k : Nat) (a : α) (t : Tbl α) : tblGet k (tblSet k a t) = some a := by
  induction t with
  | nil => simp [tblSet, tblGet]
  | cons x t ih =>
    obtain ⟨i, b⟩ := x
    by_cases h : i = k
    · simp [tblSet, tblGet, h]
    · by_cases h2 : k < i
      · simp [tblSet, tblGet, h, h2]
      · simp [tblSet, tblGet, h, h2, ih]

theorem tblGet_tblSet_other {α : Type} {j k : Nat} (h : j ≠ k) (a : α) (t : Tbl α) : tblGet j (tblSet k a t) = tblGet j t := by
  induction t with
  | nil => simp [tblSet, tblGet, Ne.symm h]
  | cons x t ih =>
    obtain ⟨i, b⟩ := x
    by_cases h1 : i = k
    · subst h1; simp [tblSet, tblGet, Ne.symm h]
    · by_cases h2 : k < i
      · by_cases h3 : j < k
        · have : j < i := by omega
          have h4 : ¬ i = j := by omega
          simp [tblSet, tblGet, h1, h2, h3, Ne.symm h, this, h4]
        · simp [tblSet, tblGet, h1, h2, h3, Ne.symm h]
      · simp [tblSet, tblGet, h1, h2, ih]

@[simp] theorem tblGetD_tblSet_same {α : Type} (k : Nat) (a d : α) (t : Tbl α) : tblGetD (tblSet k a t) k d = a := by
  simp [tblGetD]

theorem tblGetD_tblSet_other {α : Type} {j k : Nat} (h : j ≠ k) (a d : α) (t : Tbl α) : tblGetD (tblSet k a t) j d = tblGetD t j d := by
  simp [tblGetD, tblGet_tblSet_other h]

@[simp] theorem vget_vset_same {α : Type} {n : Nat} (v : Vector α n) {i : Nat} (h : i < n) (a d : α) : vget (vset v i a) i d = a := by
  simp [vget, vset, h]

theorem vget_vset_other {α : Type} {n : Nat} (v : Vector α n) {i j : Nat} (h : i ≠ j) (a d : α) : vget (vset v i a) j d = vget v j d := by
  simp [vget, vset, h]

/-! ## Reads after updates -/

@[simp] theorem core_setCore_same (s : State) (c : Nat) (x : Core) : (s.setCore c x).core c = x := by
  simp [State.core, State.setCore]

theorem core_setCore_other (s : State) {c d : Nat} (h : d ≠ c) (x : Core) : (s.setCore c x).core d = s.core d := by
  simp [State.core, State.setCore, tblGet_tblSet_other h]

@[simp] theorem core_modCore_same (s : State) (c : Nat) (f : Core → Core) : (s.modCore c f).core c = f (s.core c) := core_setCore_same ..

theorem core_modCore_other (s : State) {c d : Nat} (h : d ≠ c) (f : Core → Core) : (s.modCore c f).core d = s.core d :=
  core_setCore_other s h _

@[simp] theorem slotAt_setSlot_same (s : State) (c : Nat) {k : Nat} (h : k < 4) (x : Slot) : (s.setSlot c k x).slotAt c k = x := by
  simp [State.slotAt, State.setSlot, Core.slot, Core.setSlot, h]

theorem slotAt_setSlot_otherCore (s : State) {c d : Nat} (h : d ≠ c) (j k : Nat) (x : Slot) : (s.setSlot c k x).slotAt d j = s.slotAt d j := by
  simp [State.slotAt, State.setSlot, core_modCore_other s h]

theorem slotAt_setSlot_otherSlot (s : State) (c : Nat) {j k : Nat} (h : k ≠ j) (x : Slot) : (s.setSlot c k x).slotAt c j = s.slotAt c j := by
  simp [State.slotAt, State.setSlot, Core.slot, Core.setSlot, vget_vset_other _ h]

@[simp] theorem slotAt_modSlot_same (s : State) (c : Nat) {k : Nat} (h : k < 4) (f : Slot → Slot) :
    (s.modSlot c k f).slotAt c k = f (s.slotAt c k) := slotAt_setSlot_same s c h _

@[simp] theorem core_setCluster (s : State) (n : Nat) (x : Cluster) (c : Nat) : (s.setCluster n x).core c = s.core c := rfl
@[simp] theorem core_setMdie (s : State) (n : Nat) (x : MDie) (c : Nat) : (s.setMdie n x).core c = s.core c := rfl
@[simp] theorem core_setDie (s : State) (n : Nat) (x : Die) (c : Nat) : (s.setDie n x).core c = s.core c := rfl
@[simp] theorem core_setCtx (s : State) (n : Nat) (x : Ctx) (c : Nat) : (s.setCtx n x).core c = s.core c := rfl
@[simp] theorem cluster_setCluster_same (s : State) (n : Nat) (x : Cluster) : (s.setCluster n x).cluster n = x := by
  simp [State.cluster, State.setCluster]
@[simp] theorem mdie_setMdie_same (s : State) (n : Nat) (x : MDie) : (s.setMdie n x).mdie n = x := by simp [State.mdie, State.setMdie]
@[simp] theorem die_setDie_same (s : State) (n : Nat) (x : Die) : (s.setDie n x).die n = x := by simp [State.die, State.setDie]
@[simp] theorem ctx_setCtx_same (s : State) (n : Nat) (x : Ctx) : (s.setCtx n x).ctx n = x := by simp [State.ctx, State.setCtx]

end Sys2Proof.Machine
end

