-- ==== Sys2Proof/Laws/Issue.lean ====
section
/-! SUPPORT. What issue answers where an instruction executes, and what the three shapes of a meaning answer then. -/
namespace Sys2Proof.Machine

@[simp] theorem usesAB_insR (f : FR) : usesAB (insR f) = [f.a, f.b] := rfl
@[simp] theorem usesAB_insIA (f : FI) : usesAB (insIA f) = [f.a] := rfl
@[simp] theorem usesAB_insI (f : FI) : usesAB (insI f) = [f.a] := rfl
@[simp] theorem usesAB_insX (f : FX) : usesAB (insX f) = [f.a] := rfl
@[simp] theorem usesAB_insL (f : FL) : usesAB (insL f) = [f.a] := rfl

theorem issue_ok {s : State} {i : Ins} {u : Uses} {vec : Bool} (w : BitVec 10) (h : s.issues i u vec = true) :
    issue i u vec w s = .ok (s.begun i u w) := by
  simp only [State.issues, State.cur, Bool.and_eq_true, Bool.not_eq_true', Bool.or_eq_true] at h
  obtain ⟨⟨⟨⟨⟨⟨-, h1⟩, h2⟩, h3⟩, h4⟩, h5⟩, h6⟩ := h
  have h7 : (!vec && !(s.slotAt s.turn.1 s.turn.2).predTrue i.pred) = false := by
    rcases h2 with h | h <;> simp [h]
  have h8 : (!u.moves && u.g.any fun r => ((s.slotAt s.turn.1 s.turn.2).readG r).expired) = false := by
    rcases h6 with h | h
    · simp [h]
    · rw [h]; simp
  simp only [issue, h1, h7, h3, h4, h5, h8, State.begun, State.cur, Bool.false_eq_true, ↓reduceIte]

theorem execSlot_acts {s : State} {i : Ins} {u : Uses} {vec : Bool} (w : BitVec 10)
    (body : Slot → Except Trap (Slot × Option W64)) (h : s.issues i u vec = true) :
    execSlot i u vec w body s = match body (s.begun i u w) with
      | .error t => s.faults t
      | .ok (sl, target) => s.retires sl i.len target := by
  simp only [execSlot, issue_ok w h]
  cases body (s.begun i u w) <;> rfl

theorem execReg_acts {s : State} {i : Ins} {u : Uses} {vec : Bool} (w : BitVec 10)
    (body : Slot → Except Trap Slot) (h : s.issues i u vec = true) :
    execReg i u vec w body s = match body (s.begun i u w) with
      | .error t => s.faults t
      | .ok sl => s.retires sl i.len none := by
  simp only [execReg, execSlot_acts w _ h]
  cases body (s.begun i u w) <;> rfl

theorem execState_acts {s : State} {i : Ins} {u : Uses} {vec : Bool} (w : BitVec 10)
    (body : Nat → Nat → Slot → Res) (h : s.issues i u vec = true) :
    execState i u vec w body s = body s.turn.1 s.turn.2 (s.begun i u w) := by
  simp only [execState, issue_ok w h]

/-! ## Retiring, waiting and freezing -/

@[simp] theorem retire_mem (s : State) (c k : Nat) (sl : Slot) (n : Nat) (g : Option W64) : (s.retire c k sl n g).mem = s.mem := rfl
@[simp] theorem retire_out (s : State) (c k : Nat) (sl : Slot) (n : Nat) (g : Option W64) : (s.retire c k sl n g).out = s.out := rfl
@[simp] theorem retire_clusters (s : State) (c k : Nat) (sl : Slot) (n : Nat) (g : Option W64) :
    (s.retire c k sl n g).clusters = s.clusters := rfl

/-- Retiring changes no other core. -/
theorem retire_core_other (s : State) {c d : Nat} (h : d ≠ c) (k : Nat) (sl : Slot) (n : Nat) (g : Option W64) :
    (s.retire c k sl n g).core d = s.core d := core_setCore_other s h _

@[simp] theorem stall_mem (s : State) (c k : Nat) (w : Wait) : (s.stall c k w).mem = s.mem := rfl

@[simp] theorem traceRec_cores (s : State) (c k : Nat) (g : Bool) (ty pc a b : Nat) : (s.traceRec c k g ty pc a b).cores = s.cores := by
  simp only [State.traceRec]; split <;> rfl
@[simp] theorem traceRec_mem (s : State) (c k : Nat) (g : Bool) (ty pc a b : Nat) : (s.traceRec c k g ty pc a b).mem = s.mem := by
  simp only [State.traceRec]; split <;> rfl
@[simp] theorem traceRec_reqs (s : State) (c k : Nat) (g : Bool) (ty pc a b : Nat) : (s.traceRec c k g ty pc a b).reqs = s.reqs := by
  simp only [State.traceRec]; split <;> rfl
@[simp] theorem traceRec_fpkts (s : State) (c k : Nat) (g : Bool) (ty pc a b : Nat) : (s.traceRec c k g ty pc a b).fpkts = s.fpkts := by
  simp only [State.traceRec]; split <;> rfl

@[simp] theorem discardHeld_mem (s : State) (c k : Nat) : (s.discardHeld c k).mem = s.mem := by
  simp only [State.discardHeld]
  split
  · split
    · rfl
    · split <;> rfl
  · rfl
  · rfl

/-- What a fold of steps that each keep a value keeps. -/
theorem foldl_keeps {α β γ : Type} (f : α → β → α) (v : α → γ) (h : ∀ s x, v (f s x) = v s) (l : List β) (s : α) :
    v (l.foldl f s) = v s := by
  induction l generalizing s with
  | nil => rfl
  | cons x l ih => rw [List.foldl_cons, ih, h]

@[simp] theorem discardAll_mem (s : State) (c : Nat) : (s.discardAll c).mem = s.mem :=
  foldl_keeps _ State.mem (fun s _ => foldl_keeps _ State.mem (fun s _ => discardHeld_mem s _ _) _ s) _ s

@[simp] theorem freeze_mem (s : State) (c k : Nat) (t : Trap) : (s.freeze c k t).mem = s.mem := by
  simp only [State.freeze]
  split
  · split <;> rfl
  · split <;> simp

/-- A discarded instruction changes nothing of a slot but what it waits for. -/
theorem discardHeld_slotAt (s : State) (c k d j : Nat) : ∃ r, (s.discardHeld c k).slotAt d j = { s.slotAt d j with run := r } := by
  have self : ∃ r, s.slotAt d j = { s.slotAt d j with run := r } := ⟨_, rfl⟩
  have put : ∃ r, (s.setSlot c k { s.slotAt c k with run := .running }).slotAt d j = { s.slotAt d j with run := r } := by
    by_cases h : d = c
    · subst h
      by_cases hk : k = j
      · subst hk
        by_cases hj : k < 4
        · exact ⟨.running, slotAt_setSlot_same s d hj _⟩
        · refine ⟨(s.slotAt d k).run, ?_⟩
          simp [State.slotAt, State.setSlot, Core.slot, Core.setSlot, vget, vset, hj]
      · exact ⟨_, slotAt_setSlot_otherSlot s d hk _⟩
    · exact ⟨_, slotAt_setSlot_otherCore s h j k _⟩
  simp only [State.discardHeld]
  split
  · split
    · exact self
    · split
      · exact self
      · exact put
  · exact put
  · exact self

/-! ## The three shapes always answer -/

/-- What issue answers: a next state of the slot that waits, is squashed or faults, or the slot as its effect begins. -/
theorem issue_answers (i : Ins) (u : Uses) (vec : Bool) (w : BitVec 10) (s : State) :
    (∃ t, issue i u vec w s = .error (.next t) ∧ t.mem = s.mem) ∨ issue i u vec w s = .ok ((s.slotAt s.turn.1 s.turn.2).begin i u w) := by
  simp only [issue]
  split
  · exact .inl ⟨_, rfl, rfl⟩
  split
  · exact .inl ⟨_, rfl, rfl⟩
  split
  · exact .inl ⟨_, rfl, rfl⟩
  split
  · exact .inl ⟨_, rfl, rfl⟩
  split
  · exact .inl ⟨_, rfl, freeze_mem ..⟩
  split
  · exact .inl ⟨_, rfl, freeze_mem ..⟩
  · exact .inr rfl

theorem execSlot_answers (i : Ins) (u : Uses) (vec : Bool) (w : BitVec 10) (body : Slot → Except Trap (Slot × Option W64)) (s : State) :
    ∃ t, execSlot i u vec w body s = .next t ∧ t.mem = s.mem := by
  simp only [execSlot]
  obtain ⟨t, h, g⟩ | h := issue_answers i u vec w s
  · exact ⟨t, by simp [h], g⟩
  · simp only [h]
    cases hb : body ((s.slotAt s.turn.1 s.turn.2).begin i u w) with
    | error e => exact ⟨_, rfl, freeze_mem ..⟩
    | ok x => exact ⟨_, rfl, rfl⟩

theorem execReg_answers (i : Ins) (u : Uses) (vec : Bool) (w : BitVec 10) (body : Slot → Except Trap Slot) (s : State) :
    ∃ t, execReg i u vec w body s = .next t ∧ t.mem = s.mem := execSlot_answers i u vec w _ s

/-- A meaning on more than its slot answers where its body does. -/
theorem execState_answers (i : Ins) (u : Uses) (vec : Bool) (w : BitVec 10) (body : Nat → Nat → Slot → Res) (s : State)
    (h : ∀ sl, ∃ t, body s.turn.1 s.turn.2 sl = .next t) : ∃ t, execState i u vec w body s = .next t := by
  simp only [execState]
  obtain ⟨t, g, -⟩ | g := issue_answers i u vec w s
  · exact ⟨t, by simp [g]⟩
  · rw [g]; exact h _

end Sys2Proof.Machine
end

