-- ==== Sys2Proof/Laws/Memory.lean ====
section
/-! SUPPORT. Memory: what a byte reads after a write, and that every operation over memory keeps its one form. -/
namespace Sys2Proof.Machine

/-! ## One byte -/

@[simp] theorem memGet_memPut_same (m : List Host.Cell) (k : Nat) (v : Byte) (lo : Nat) (h : memWfFrom lo m = true) :
    memGet (memPut m k v) k = v := by
  induction m generalizing lo with
  | nil => by_cases hv : v = memDefault <;> simp [memPut, memGet, hv]
  | cons c t ih =>
    obtain ⟨a, b⟩ := c
    simp only [memWfFrom, Bool.and_eq_true, decide_eq_true_eq] at h
    obtain ⟨⟨h1, h2⟩, h3⟩ := h
    by_cases e : a = k
    · subst e
      by_cases hv : v = memDefault
      · subst hv
        simp only [memPut, beq_self_eq_true, ↓reduceIte]
        cases t with
        | nil => rfl
        | cons d u =>
          obtain ⟨x, y⟩ := d
          simp only [memWfFrom, Bool.and_eq_true, decide_eq_true_eq] at h3
          have g1 : ¬ x = a := by omega
          have g2 : a < x := by omega
          simp [memGet, g1, g2]
      · simp [memPut, memGet, hv]
    · by_cases l : k < a
      · by_cases hv : v = memDefault <;> simp [memPut, memGet, e, l, hv]
      · simp [memPut, memGet, e, l, ih _ h3]

theorem memGet_memPut_other {j k : Nat} (hjk : j ≠ k) (m : List Host.Cell) (v : Byte) (lo : Nat) (h : memWfFrom lo m = true) :
    memGet (memPut m k v) j = memGet m j := by
  induction m generalizing lo with
  | nil => by_cases hv : v = memDefault <;> simp [memPut, memGet, hv, Ne.symm hjk]
  | cons c t ih =>
    obtain ⟨a, b⟩ := c
    simp only [memWfFrom, Bool.and_eq_true, decide_eq_true_eq] at h
    obtain ⟨⟨h1, h2⟩, h3⟩ := h
    by_cases e : a = k
    · subst e
      by_cases hv : v = memDefault
      · simp only [memPut, beq_self_eq_true, ↓reduceIte, hv, memGet]
        have g : ¬ a = j := fun q => hjk q.symm
        by_cases l : j < a
        · simp only [beq_iff_eq, g, ↓reduceIte, l]
          cases t with
          | nil => rfl
          | cons d u =>
            obtain ⟨x, y⟩ := d
            simp only [memWfFrom, Bool.and_eq_true, decide_eq_true_eq] at h3
            have g1 : ¬ x = j := by omega
            have g2 : j < x := by omega
            simp [memGet, g1, g2]
        · simp [g, l]
      · simp [memPut, memGet, hv, Ne.symm hjk]
    · by_cases l : k < a
      · by_cases hv : v = memDefault
        · simp [memPut, e, l, hv]
        · by_cases g : j < k
          · have g1 : j < a := by omega
            have g2 : ¬ a = j := by omega
            simp [memPut, memGet, e, l, hv, g, g1, g2, Ne.symm hjk]
          · simp [memPut, memGet, e, l, hv, g, Ne.symm hjk]
      · simp [memPut, memGet, e, l, ih _ h3]

theorem memWfFrom_mono {lo hi : Nat} (hl : lo ≤ hi) {m : List Host.Cell} (h : memWfFrom hi m = true) : memWfFrom lo m = true := by
  cases m with
  | nil => rfl
  | cons c t =>
    obtain ⟨a, b⟩ := c
    simp only [memWfFrom, Bool.and_eq_true, decide_eq_true_eq] at h ⊢
    exact ⟨⟨by omega, h.1.2⟩, h.2⟩

theorem memPut_wfFrom (m : List Host.Cell) (k : Nat) (v : Byte) (lo : Nat) (hk : lo ≤ k) (h : memWfFrom lo m = true) :
    memWfFrom lo (memPut m k v) = true := by
  induction m generalizing lo with
  | nil => by_cases hv : v = memDefault <;> simp [memPut, memWfFrom, hv, hk]
  | cons c t ih =>
    obtain ⟨a, b⟩ := c
    simp only [memWfFrom, Bool.and_eq_true, decide_eq_true_eq] at h
    obtain ⟨⟨h1, h2⟩, h3⟩ := h
    by_cases e : a = k
    · subst e
      by_cases hv : v = memDefault
      · simp only [memPut, beq_self_eq_true, ↓reduceIte, hv]
        exact memWfFrom_mono (by omega) h3
      · simp [memPut, memWfFrom, hv, h1, h3]
    · by_cases l : k < a
      · by_cases hv : v = memDefault
        · simp only [memPut, beq_iff_eq, e, ↓reduceIte, l, hv, memWfFrom, Bool.and_eq_true, decide_eq_true_eq]
          exact ⟨⟨h1, h2⟩, h3⟩
        · have g : k + 1 ≤ a := by omega
          simp only [memPut, beq_iff_eq, e, ↓reduceIte, l, hv, memWfFrom, Bool.and_eq_true, decide_eq_true_eq]
          exact ⟨⟨hk, by simpa using hv⟩, ⟨g, h2⟩, h3⟩
      · simp only [memPut, beq_iff_eq, e, ↓reduceIte, l, memWfFrom, Bool.and_eq_true, decide_eq_true_eq]
        exact ⟨⟨h1, h2⟩, ih _ (by omega) h3⟩

theorem memPut_wf {m : List Host.Cell} (k : Nat) (v : Byte) (h : memWf m = true) : memWf (memPut m k v) = true :=
  memPut_wfFrom m k v 0 (by omega) h

/-! ## Bytes in a row -/

theorem memPuts_wf {m : List Host.Cell} (k : Nat) (bs : List Byte) (h : memWf m = true) : memWf (memPuts m k bs) = true := by
  induction bs generalizing m k with
  | nil => exact h
  | cons b bs ih => exact ih (k + 1) (memPut_wf k b h)

theorem memGet_memPuts_other {m : List Host.Cell} (k : Nat) (bs : List Byte) (h : memWf m = true) {j : Nat}
    (hj : ¬(k ≤ j ∧ j < k + bs.length)) : memGet (memPuts m k bs) j = memGet m j := by
  induction bs generalizing m k with
  | nil => rfl
  | cons b bs ih =>
    simp only [List.length_cons] at hj
    have g : j ≠ k := by rintro rfl; exact hj ⟨Nat.le_refl _, by omega⟩
    have g2 : ¬(k + 1 ≤ j ∧ j < k + 1 + bs.length) := fun q => hj ⟨by omega, by omega⟩
    rw [memPuts, ih (k + 1) (memPut_wf k b h) g2, memGet_memPut_other g m b 0 h]

theorem memGet_memPuts_same {m : List Host.Cell} (k : Nat) (bs : List Byte) (h : memWf m = true) {i : Nat} (hi : i < bs.length) :
    memGet (memPuts m k bs) (k + i) = bs[i] := by
  induction bs generalizing m k i with
  | nil => simp at hi
  | cons b bs ih =>
    cases i with
    | zero =>
      simp only [memPuts, Nat.add_zero, List.getElem_cons_zero]
      rw [memGet_memPuts_other (k + 1) bs (memPut_wf k b h) (by omega), memGet_memPut_same m k b 0 h]
    | succ i =>
      have e : k + (i + 1) = k + 1 + i := by omega
      simp only [memPuts, e, List.getElem_cons_succ]
      exact ih (k + 1) (memPut_wf k b h) (by simpa using hi)

/-! ## Other operations -/

theorem filter_wfFrom (p : Host.Cell → Bool) (m : List Host.Cell) (lo : Nat) (h : memWfFrom lo m = true) : memWfFrom lo (m.filter p) = true := by
  induction m generalizing lo with
  | nil => rfl
  | cons c t ih =>
    obtain ⟨a, b⟩ := c
    simp only [memWfFrom, Bool.and_eq_true, decide_eq_true_eq] at h
    by_cases e : p (a, b) = true
    · simp only [List.filter_cons, e, ↓reduceIte, memWfFrom, Bool.and_eq_true, decide_eq_true_eq]
      exact ⟨h.1, ih _ h.2⟩
    · simp only [List.filter_cons, e, Bool.false_eq_true, ↓reduceIte]
      exact memWfFrom_mono (by omega) (ih _ h.2)

theorem filter_wf (p : Host.Cell → Bool) {m : List Host.Cell} (h : memWf m = true) : memWf (m.filter p) = true := filter_wfFrom p m 0 h

theorem foldl_memPut_wf (f : Host.Cell → Nat × Byte) (l m : List Host.Cell) (h : memWf m = true) :
    memWf (l.foldl (fun m c => memPut m (f c).1 (f c).2) m) = true := by
  induction l generalizing m with
  | nil => exact h
  | cons c t ih => exact ih _ (memPut_wf _ _ h)

theorem moveCells_wf {m : List Host.Cell} (a b n : Nat) (h : memWf m = true) : memWf (moveCells m a b n) = true :=
  foldl_memPut_wf (fun c => (c.1 - a + b, c.2)) _ _ (filter_wf _ h)

theorem zeroCells_wf {m : List Host.Cell} (a n : Nat) (h : memWf m = true) : memWf (zeroCells m a n) = true := filter_wf _ h

/-! ## The operations of the state that store bytes -/

theorem writeBytes_wf {s : State} (k : Nat) (bs : List Byte) (h : memWf s.mem = true) : memWf (s.writeBytes k bs).mem = true :=
  memPuts_wf k bs h

theorem lmWrite_wf {s : State} (c off : Nat) (bs : List Byte) (h : memWf s.mem = true) : memWf (s.lmWrite c off bs).mem = true :=
  memPuts_wf _ bs h

@[simp] theorem putTags4_mem (s : State) (k : Nat) (t : BitVec 4) : (s.putTags4 k t).mem = s.mem := by
  have h : ∀ (l : List Nat) (s : State), (l.foldl (fun s i => s.putTag (k + 16 * i) (t.getLsbD i)) s).mem = s.mem := by
    intro l
    induction l with
    | nil => intro s; rfl
    | cons i l ih => intro s; rw [List.foldl_cons, ih]; rfl
  exact h _ _

theorem hbmPut_wf {s : State} (line : Nat) (d : W512) (t : BitVec 4) (h : memWf s.mem = true) : memWf (s.hbmPut line d t).mem = true := by
  simp only [State.hbmPut, putTags4_mem]
  exact memPuts_wf (hbmKey (line * 64)) (bytesOf d 64) h

theorem reset_wf : memWf State.reset.mem = true := rfl

/-- What is read after a write of the same bytes. -/
theorem bytesAt_writeBytes_same {s : State} (k : Nat) (bs : List Byte) (h : memWf s.mem = true) :
    (s.writeBytes k bs).bytesAt k bs.length = bs := by
  apply List.ext_getElem (by simp [State.bytesAt])
  intro i h1 h2
  simp only [State.bytesAt, State.writeBytes, List.getElem_map, List.getElem_range]
  exact memGet_memPuts_same k bs h h2

theorem memGet_writeBytes_other {s : State} (k : Nat) (bs : List Byte) (h : memWf s.mem = true) {j : Nat}
    (hj : ¬(k ≤ j ∧ j < k + bs.length)) : memGet (s.writeBytes k bs).mem j = memGet s.mem j := by
  simp only [State.writeBytes]
  exact memGet_memPuts_other k bs h hj

end Sys2Proof.Machine
end

