-- ==== Sys2Proof/Tests/Slice0.lean ====
section
/-! SUPPORT. Tests: for every encoded constructor one word laid out from R76's fields and R83's opcode map; ill-formed instructions; the spec's
worked examples; and for every statement with hypotheses a state and operands that meet them. -/
namespace Sys2Proof.Tests
open Sys2Proof Sys2Proof.Machine
set_option Elab.async false

def fr (d a b c : RegNo) (mod : BitVec 12) (sub : BitVec 8) (pred : BitVec 4) : FR :=
  { pred := pred, sub := sub, mod := mod, c := c, b := b, a := a, d := d }
def fi (d a : RegNo) (imm : BitVec 32) (mod : BitVec 6) (pred : BitVec 4) : FI := { pred := pred, mod := mod, imm := imm, a := a, d := d }
def fx (d a b : RegNo) (imm : BitVec 44) (mod : BitVec 12) (sub : BitVec 8) (pred : BitVec 4) : FX :=
  { imm := imm, pred := pred, sub := sub, mod := mod, b := b, a := a, d := d }
def fl (d a b c : RegNo) (imm : W64) (mod : BitVec 16) (sub : BitVec 8) (pred : BitVec 4) : FL :=
  { imm := imm, pred := pred, sub := sub, mod := mod, c := c, b := b, a := a, d := d }

/-- A word of `n` bits reads as the instruction and is written back. -/
def reads (p : Nat × Nat × Instr) : Bool :=
  decodeTableWord p.1 p.2.1 == some p.2.2 && wellFormed p.2.2 && leNat (encode p.2.2) == p.2.1

def words_integer : List (Nat × Nat × Instr) := [
  (64, 0x40000c0842fc04, .add (fr 63 2 33 0 0x3 0x0 1)),
  (64, 0xc000200842fc0c, .sub (fr 63 2 33 0 0x8 0x0 3)),
  (64, 0x18010100842fc18, .mul (fr 63 2 33 0 0x404 0x0 6)),
  (64, 0x1c000100842fc1c, .div (fr 63 2 33 0 0x4 0x0 7)),
  (64, 0x1c0842fc20, .rem (fr 63 2 33 0 0x7 0x0 0)),
  (64, 0xc000040842fc2c, .minR (fr 63 2 33 0 0x1 0x0 3)),
  (64, 0x10000080842fc30, .maxR (fr 63 2 33 0 0x2 0x0 4)),
  (64, 0x14000140842fc34, .andR (fr 63 2 33 0 0x5 0x0 5)),
  (64, 0x18000180842fc38, .orR (fr 63 2 33 0 0x6 0x0 6)),
  (64, 0x1c000000842fc3c, .xorR (fr 63 2 33 0 0x0 0x0 7)),
  (64, 0xc0842fc40, .andn (fr 63 2 33 0 0x3 0x0 0)),
  (64, 0x4000200842fc44, .orn (fr 63 2 33 0 0x8 0x0 1)),
  (64, 0x8000040842fc48, .shl (fr 63 2 33 0 0x1 0x0 2)),
  (64, 0xc000080842fc4c, .shr (fr 63 2 33 0 0x2 0x0 3)),
  (64, 0x100000c0842fc50, .sar (fr 63 2 33 0 0x3 0x0 4)),
  (64, 0x14000100842fc54, .rol (fr 63 2 33 0 0x4 0x0 5)),
  (64, 0x18000140842fc58, .ror (fr 63 2 33 0 0x5 0x0 6)),
  (64, 0x10028842fc10, .addc (fr 63 2 33 40 0x400 0x0 0)),
  (64, 0x10028842fc14, .subb (fr 63 2 33 40 0x400 0x0 0)),
  (64, 0xc003e1c24, .negR (fr 7 62 0 0 0x3 0x0 0)),
  (64, 0xc003e1c28, .absR (fr 7 62 0 0 0x3 0x0 0)),
  (64, 0x1c0032245c, .clz (fr 9 50 0 0 0x7 0x0 0)),
  (64, 0x401c0032245c, .ctz (fr 9 50 0 0 0x7 0x1 0)),
  (64, 0x801c0032245c, .popc (fr 9 50 0 0 0x7 0x2 0))]
theorem test_words_integer : words_integer.all reads = true := by decide +kernel

def words_integer2 : List (Nat × Nat × Instr) := [
  (64, 0xc01c0032245c, .brev (fr 9 50 0 0 0x7 0x3 0)),
  (64, 0x1001c0032245c, .bswap (fr 9 50 0 0 0x7 0x4 0)),
  (64, 0x100842fc60, .bfx (fr 63 2 33 0 0x4 0x0 0)),
  (64, 0x11842fc64, .bfi (fr 63 2 33 17 0x0 0x0 0)),
  (64, 0x5842fc68, .sel (fr 63 2 33 5 0x0 0x0 0)),
  (64, 0x2800c0842186c, .cmp (fr 6 2 33 0 0x3 0xa 0)),
  (64, 0x3f0474, .mov (fr 1 63 0 0 0x0 0x0 0)),
  (64, 0xb0ffffffffc92408, .addi (fi 9 9 0xffffffff 0x3 11)),
  (64, 0x28e0000000001470, .li (fi 5 0 0x80000000 0x23 2))]
theorem test_words_integer2 : words_integer2.all reads = true := by decide +kernel

def words_integerWide : List (Nat × Nat × Instr) := [
  (96, 0x80000000ff290020303d0809, .addiF96 (fx 2 61 0 0x80000000ff2 0x203 0x0 9)),
  (96, 0x80000000ffb90020303d082d, .minF96 (fx 2 61 0 0x80000000ffb 0x203 0x0 9)),
  (96, 0x80000000ffc90020303d0831, .maxF96 (fx 2 61 0 0x80000000ffc 0x203 0x0 9)),
  (96, 0x80000000ffd90020303d0835, .andF96 (fx 2 61 0 0x80000000ffd 0x203 0x0 9)),
  (96, 0x80000000ffe90020303d0839, .orF96 (fx 2 61 0 0x80000000ffe 0x203 0x0 9)),
  (96, 0x80000000fff90020303d083d, .xorF96 (fx 2 61 0 0x80000000fff 0x203 0x0 9)),
  (96, 0x8000000100290020303d0849, .shlF96 (fx 2 61 0 0x80000001002 0x203 0x0 9)),
  (96, 0x8000000100390020303d084d, .shrF96 (fx 2 61 0 0x80000001003 0x203 0x0 9)),
  (96, 0x8000000100490020303d0851, .sarF96 (fx 2 61 0 0x80000001004 0x203 0x0 9)),
  (96, 0x8000000100590020303d0855, .rolF96 (fx 2 61 0 0x80000001005 0x203 0x0 9)),
  (96, 0x8000000100690020303d0859, .rorF96 (fx 2 61 0 0x80000001006 0x203 0x0 9)),
  (96, 0x50010040031c6d, .cmpF96 (fx 7 3 0 0x5 0x4 0x1 0)),
  (96, 0x1000000000000000001871, .liF96 (fx 6 0 0 0x100000000 0x0 0x0 0)),
  (128, 0xfedcba9876543210040000100003080a, .addiF128 (fl 2 3 0 0 0xfedcba9876543210 0x4 0x0 1)),
  (128, 0x80000000000000000000000000008472, .liF128 (fl 33 0 0 0 0x8000000000000000 0x0 0x0 0))]
theorem test_words_integerWide : words_integerWide.all reads = true := by decide +kernel

def words_capability : List (Nat × Nat × Instr) := [
  (64, 0x40842fc80, .cbound (fr 63 2 33 0 0x1 0x0 0)),
  (64, 0x842fc84, .cperm (fr 63 2 33 0 0x0 0x0 0)),
  (64, 0x20000842fc88, .coff (fr 63 2 33 0 0x800 0x0 0)),
  (64, 0x842fc8c, .cseta (fr 63 2 33 0 0x0 0x0 0)),
  (64, 0x842fc98, .cchan (fr 63 2 33 0 0x0 0x0 0)),
  (64, 0x842fc9c, .csub (fr 63 2 33 0 0x0 0x0 0)),
  (64, 0x1400000061490, .cget (fr 5 6 0 0 0x0 0x5 0)),
  (64, 0x61494, .cclr (fr 5 6 0 0 0x0 0x0 0)),
  (96, 0xfffffffffff0000000061481, .cboundF96 (fx 5 6 0 0xfffffffffff 0x0 0x0 0)),
  (96, 0xfff0000000061485, .cpermF96 (fx 5 6 0 0xfff 0x0 0x0 0)),
  (96, 0x800000000000000000061489, .coffF96 (fx 5 6 0 0x80000000000 0x0 0x0 0)),
  (96, 0x1000000006148d, .csetaF96 (fx 5 6 0 0x1 0x0 0x0 0)),
  (96, 0x1f0000000061499, .cchanF96 (fx 5 6 0 0x1f 0x0 0x0 0)),
  (128, 0xffffffffffffffc0000000000006148a, .coffF128 (fl 5 6 0 0 0xffffffffffffffc0 0x0 0x0 0)),
  (128, 0xffffffffffffffc0000000000006148e, .csetaF128 (fl 5 6 0 0 0xffffffffffffffc0 0x0 0x0 0))]
theorem test_words_capability : words_capability.all reads = true := by decide +kernel

def words_control : List (Nat × Nat × Instr) := [
  (64, 0xc0, .nop (fr 0 0 0 0 0x0 0x0 0)),
  (96, 0xc1, .nopF96 (fx 0 0 0 0x0 0x0 0x0 0)),
  (128, 0xc2, .nopF128 (fl 0 0 0 0 0x0 0x0 0x0 0)),
  (64, 0x3fffffff0000c4, .b (fi 0 0 0xfffffffc 0x0 0)),
  (64, 0x40000001bd00c8, .bp (fi 0 61 0x6 0x1 0)),
  (64, 0x100000cc, .call (fi 0 0 0x40 0x0 0)),
  (64, 0x28500d8, .loop (fi 0 5 0xa 0x0 0)),
  (96, 0xffffffffffc00000000000c5, .bF96 (fx 0 0 0 0xffffffffffc 0x0 0x0 0)),
  (96, 0x800000103c00c9, .bpF96 (fx 0 60 0 0x8 0x1 0x0 0)),
  (96, 0x300000000000cd, .callF96 (fx 0 0 0 0x3 0x0 0x0 0)),
  (96, 0x900000000400d9, .loopF96 (fx 0 4 0 0x9 0x0 0x0 0)),
  (64, 0x204d0, .jmp (fr 1 2 0 0 0x0 0x0 0)),
  (64, 0x100d4, .ret (fr 0 1 0 0 0x0 0x0 0)),
  (64, 0x10000000528dc, .wait (fr 10 5 0 0 0x0 0x4 0)),
  (64, 0xe0, .yield (fr 0 0 0 0 0x0 0x0 0)),
  (64, 0xc00000000000e4, .actend (fr 0 0 0 0 0x0 0x0 3))]
theorem test_words_control : words_control.all reads = true := by decide +kernel

def words_memory : List (Nat × Nat × Instr) := [
  (64, 0x1c00031500, .ld (fr 5 3 0 0 0x7 0x0 0)),
  (64, 0x17100842fd04, .st (fr 63 2 33 0 0x5c4 0x0 0)),
  (64, 0x1037d08, .ldv (fr 31 3 4 0 0x0 0x0 0)),
  (64, 0x2000000103790c, .stv (fr 30 3 4 0 0x0 0x80 0)),
  (64, 0x2c70830510, .ldvg (fr 1 3 2 7 0xb 0x0 0)),
  (64, 0x2070830514, .stvs (fr 1 3 2 7 0x8 0x0 0)),
  (64, 0x842fd18, .ldc (fr 63 2 33 0 0x0 0x0 0)),
  (64, 0x842fd1c, .stc (fr 63 2 33 0 0x0 0x0 0)),
  (64, 0x400001030120, .pref (fr 0 3 4 0 0x0 0x1 0)),
  (64, 0x400001030124, .touch (fr 0 3 4 0 0x0 0x1 0)),
  (64, 0x158000000128, .fence (fr 0 0 0 0 0x560 0x0 0)),
  (64, 0x12c, .drain (fr 0 0 0 0 0x0 0x0 0)),
  (64, 0x598001851130, .amo (fr 4 5 6 0 0x660 0x1 0)),
  (64, 0x8800001851134, .amof (fr 4 5 6 0 0x0 0x22 0)),
  (64, 0x2040c20538, .cas (fr 1 2 3 4 0x8 0x0 0)),
  (64, 0x1c3102053c, .mcst (fr 1 2 4 3 0x7 0x0 0)),
  (64, 0x400031020540, .mred (fr 1 2 4 3 0x0 0x1 0)),
  (64, 0xc20144, .l1inv (fr 0 2 3 0 0x0 0x0 0)),
  (64, 0xc20148, .l1wb (fr 0 2 3 0 0x0 0x0 0)),
  (96, 0x400000090031501, .ldF96 (fx 5 3 0 0x40 0x9 0x0 0)),
  (96, 0x400005400071105, .stF96 (fx 4 7 0 0x40 0x540 0x0 0)),
  (96, 0x400000000030509, .ldvF96 (fx 1 3 0 0x40 0x0 0x0 0)),
  (96, 0x40000000003050d, .stvF96 (fx 1 3 0 0x40 0x0 0x0 0)),
  (96, 0x100000000030519, .ldcF96 (fx 1 3 0 0x10 0x0 0x0 0))]
theorem test_words_memory : words_memory.all reads = true := by decide +kernel

def words_memory2 : List (Nat × Nat × Instr) := [
  (96, 0xffffffffff0000000003051d, .stcF96 (fx 1 3 0 0xffffffffff0 0x0 0x0 0)),
  (96, 0x10000000030121, .prefF96 (fx 0 3 0 0x1 0x0 0x0 0)),
  (96, 0x10000000030125, .touchF96 (fx 0 3 0 0x1 0x0 0x0 0)),
  (96, 0x80000000051131, .amoF96 (fx 4 5 0 0x8 0x0 0x0 0)),
  (96, 0x80030000051135, .amofF96 (fx 4 5 0 0x8 0x0 0x3 0)),
  (96, 0x40000008102053d, .mcstF96 (fx 1 2 4 0x40 0x8 0x0 0)),
  (96, 0x400040001020541, .mredF96 (fx 1 2 4 0x40 0x0 0x4 0))]
theorem test_words_memory2 : words_memory2.all reads = true := by decide +kernel

def words_float : List (Nat × Nat × Instr) := [
  (64, 0x2c0842fd80, .fadd (fr 63 2 33 0 0xb 0x0 0)),
  (64, 0xac0842fd84, .fsub (fr 63 2 33 0 0x2b 0x0 0)),
  (64, 0x12c0842fd88, .fmul (fr 63 2 33 0 0x4b 0x0 0)),
  (64, 0x22c0842fd90, .fdiv (fr 63 2 33 0 0x8b 0x0 0)),
  (64, 0x2c0842fd98, .fmin (fr 63 2 33 0 0xb 0x0 0)),
  (64, 0xac0842fd9c, .fmax (fr 63 2 33 0 0x2b 0x0 0)),
  (64, 0xc0284842fd8c, .fma (fr 63 2 33 4 0xa 0x3 0)),
  (64, 0x3000020594, .fsqrt (fr 1 2 0 0 0xc 0x0 0)),
  (64, 0x80340842fda0, .fsgn (fr 63 2 33 0 0xd 0x2 0)),
  (64, 0x1c02c01440da4, .fcmp (fr 3 4 5 0 0xb 0x7 0)),
  (64, 0x3c00040da8, .fclass (fr 3 4 0 0 0xf 0x0 0)),
  (64, 0x2c43800040dac, .fcvt (fr 3 4 0 0 0x10e 0xb 0)),
  (64, 0x2811c00040db0, .ftoi (fr 3 4 0 0 0x47 0xa 0)),
  (64, 0x1003000040db4, .itof (fr 3 4 0 0 0xc 0x4 0)),
  (64, 0x22c00040db8, .fround (fr 3 4 0 0 0x8b 0x0 0)),
  (96, 0x3fc0000000000b0020581, .faddF96 (fx 1 2 0 0x3fc00000 0xb 0x0 0)),
  (96, 0x3fc0000000000b0020585, .fsubF96 (fx 1 2 0 0x3fc00000 0xb 0x0 0)),
  (96, 0x3fc0000000000b0020589, .fmulF96 (fx 1 2 0 0x3fc00000 0xb 0x0 0)),
  (96, 0x3fc0000000000b0020599, .fminF96 (fx 1 2 0 0x3fc00000 0xb 0x0 0)),
  (96, 0x3fc0000000000b002059d, .fmaxF96 (fx 1 2 0 0x3fc00000 0xb 0x0 0)),
  (96, 0x3f80000000300b00205a5, .fcmpF96 (fx 1 2 0 0x3f800000 0xb 0x3 0)),
  (128, 0x3ff00000000000000000002800020582, .faddF128 (fl 1 2 0 0 0x3ff0000000000000 0xa 0x0 0)),
  (128, 0x3ff00000000000000000002800020586, .fsubF128 (fl 1 2 0 0 0x3ff0000000000000 0xa 0x0 0)),
  (128, 0x3ff0000000000000000000280002058a, .fmulF128 (fl 1 2 0 0 0x3ff0000000000000 0xa 0x0 0))]
theorem test_words_float : words_float.all reads = true := by decide +kernel

def words_vector : List (Nat × Nat × Instr) := [
  (64, 0x280002c07c205c0, .vadd (fr 1 2 31 0 0xb 0x0 10)),
  (64, 0x280002c07c205c4, .vsub (fr 1 2 31 0 0xb 0x0 10)),
  (64, 0x280002c07c205c8, .vmul (fr 1 2 31 0 0xb 0x0 10)),
  (64, 0x280002c07c205d0, .vmin (fr 1 2 31 0 0xb 0x0 10)),
  (64, 0x280002c07c205d4, .vmax (fr 1 2 31 0 0xb 0x0 10)),
  (64, 0x80803040c205cc, .vfma (fr 1 2 3 4 0xc 0x2 2)),
  (64, 0x403800c205d8, .vsgn (fr 1 2 3 0 0xe 0x1 0)),
  (64, 0x3002c00c205dc, .vcmp (fr 1 2 3 0 0xb 0xc 0)),
  (64, 0x470c205e0, .vsel (fr 1 2 3 7 0x1 0x0 0)),
  (64, 0x807c205e4, .vand (fr 1 2 31 0 0x2 0x0 0)),
  (64, 0xc07c205e8, .vor (fr 1 2 31 0 0x3 0x0 0)),
  (64, 0x1007c205ec, .vxor (fr 1 2 31 0 0x4 0x0 0)),
  (64, 0x1407c205f0, .vshl (fr 1 2 31 0 0x5 0x0 0)),
  (64, 0x1807c205f4, .vshr (fr 1 2 31 0 0x6 0x0 0)),
  (64, 0x1c07c205f8, .vsar (fr 1 2 31 0 0x7 0x0 0)),
  (64, 0xb002c0002a1fc, .vred (fr 40 2 0 0 0xb 0x2c 0)),
  (64, 0x8000c00020600, .vscan (fr 1 2 0 0 0x3 0x20 0)),
  (64, 0x440c20604, .vperm (fr 1 2 3 4 0x1 0x0 0)),
  (64, 0x100c82a20c, .vext (fr 40 2 50 0 0x4 0x0 0)),
  (64, 0x100ca80a10, .vins (fr 2 40 50 0 0x4 0x0 0)),
  (64, 0xb002c00020614, .vcvt (fr 1 2 0 0 0xb 0x2c 0)),
  (64, 0x2c04400c20618, .vquant (fr 1 2 3 0 0x11 0xb 0)),
  (64, 0x4802c00030a1c, .vdeq (fr 2 3 0 0 0xb 0x12 0)),
  (64, 0x2c00020620, .vexp2 (fr 1 2 0 0 0xb 0x0 0))]
theorem test_words_vector : words_vector.all reads = true := by decide +kernel

def words_vector2 : List (Nat × Nat × Instr) := [
  (64, 0x2c00020624, .vlog2 (fr 1 2 0 0 0xb 0x0 0)),
  (64, 0x2c00020628, .vrcp (fr 1 2 0 0 0xb 0x0 0)),
  (64, 0x2c0002062c, .vrsq (fr 1 2 0 0 0xb 0x0 0)),
  (64, 0x1400c20630, .vlut (fr 1 2 3 0 0x5 0x0 0)),
  (64, 0x3c40c20634, .vdot (fr 1 2 3 4 0xf 0x0 0)),
  (64, 0x400020638, .vmov (fr 1 2 0 0 0x1 0x0 0)),
  (64, 0x400400030638, .vmovPop (fr 1 3 0 0 0x1 0x1 0)),
  (64, 0x800400050a38, .vmovPush (fr 2 5 0 0 0x1 0x2 0)),
  (96, 0x3fc000000c00001c1, .vaddF96 (fx 0 0 0 0x3fc0 0xc 0x0 0)),
  (96, 0x3fc000000c00001c5, .vsubF96 (fx 0 0 0 0x3fc0 0xc 0x0 0)),
  (96, 0x3fc000000c00001c9, .vmulF96 (fx 0 0 0 0x3fc0 0xc 0x0 0)),
  (96, 0x3fc000000c00001d1, .vminF96 (fx 0 0 0 0x3fc0 0xc 0x0 0)),
  (96, 0x3fc000000c00001d5, .vmaxF96 (fx 0 0 0 0x3fc0 0xc 0x0 0)),
  (96, 0x300a00100205dd, .vcmpF96 (fx 1 2 0 0x3 0x1 0xa 0)),
  (96, 0xfffffffffff00000800205e5, .vandF96 (fx 1 2 0 0xfffffffffff 0x8 0x0 0)),
  (96, 0xfffffffffff00000800205e9, .vorF96 (fx 1 2 0 0xfffffffffff 0x8 0x0 0)),
  (96, 0xfffffffffff00000800205ed, .vxorF96 (fx 1 2 0 0xfffffffffff 0x8 0x0 0)),
  (96, 0xfffffffffff00000800205f1, .vshlF96 (fx 1 2 0 0xfffffffffff 0x8 0x0 0)),
  (96, 0xfffffffffff00000800205f5, .vshrF96 (fx 1 2 0 0xfffffffffff 0x8 0x0 0)),
  (96, 0xfffffffffff00000800205f9, .vsarF96 (fx 1 2 0 0xfffffffffff 0x8 0x0 0)),
  (64, 0xc0000000280608, .vbcast (fi 1 40 0x0 0x3 0)),
  (96, 0x70000040000609, .vbcastF96 (fx 1 0 0 0x7 0x4 0x0 0)),
  (128, 0xffffffffffffffff000000200000060a, .vbcastF128 (fl 1 0 0 0 0xffffffffffffffff 0x8 0x0 0))]
theorem test_words_vector2 : words_vector2.all reads = true := by decide +kernel

def words_accumulator : List (Nat × Nat × Instr) := [
  (64, 0xc202c0, .laccClr (fr 0 2 3 0 0x0 0x0 0)),
  (64, 0x3040c202c4, .laccAdd (fr 0 2 3 4 0xc 0x0 0)),
  (64, 0x2c40c216c8, .laccMac (fr 5 2 3 4 0xb 0x0 0)),
  (64, 0x2800c216cc, .laccRd (fr 5 2 3 0 0xa 0x0 0)),
  (64, 0x40c202d0, .laccMrg (fr 0 2 3 4 0x0 0x0 0))]
theorem test_words_accumulator : words_accumulator.all reads = true := by decide +kernel

def words_stream : List (Nat × Nat × Instr) := [
  (64, 0x400a80ee0, .sbind (fr 3 40 2 0 0x1 0x0 0)),
  (128, 0x10203040506070800480000002806e2, .sbindF128 (fl 1 40 0 0 0x102030405060708 0x0 0x12 0)),
  (64, 0x202e4, .sfree (fr 0 2 0 0 0x0 0x0 0)),
  (64, 0x3a2e8, .sstat (fr 40 3 0 0 0x0 0x0 0))]
theorem test_words_stream : words_stream.all reads = true := by decide +kernel

def words_message : List (Nat × Nat × Instr) := [
  (64, 0x1c61700, .send (fr 5 6 7 0 0x0 0x0 0)),
  (96, 0xfff0010000281701, .sendF96 (fx 5 40 0 0xfff 0x0 0x1 0)),
  (64, 0x3c0000006e304, .sendr (fr 56 6 0 0 0x0 0xf 0)),
  (64, 0x7c00000061708, .hset (fr 5 6 0 0 0x0 0x1f 0)),
  (64, 0x842ff0c, .hmask (fr 63 2 33 0 0x0 0x0 0)),
  (96, 0xffffffff000000006170d, .hmaskF96 (fx 5 6 0 0xffffffff 0x0 0x0 0)),
  (64, 0x81c21710, .launch (fr 5 2 7 8 0x0 0x0 0))]
theorem test_words_message : words_message.all reads = true := by decide +kernel

def words_eventGroupDomainJob : List (Nat × Nat × Instr) := [
  (64, 0xc00001801714, .evset (fr 5 0 6 0 0x0 0x3 0)),
  (96, 0x300020000001f15, .evsetF96 (fx 7 0 0 0x30 0x0 0x2 0)),
  (64, 0xc00001801718, .evclr (fr 5 0 6 0 0x0 0x3 0)),
  (96, 0x300020000001f19, .evclrF96 (fx 7 0 0 0x30 0x0 0x2 0)),
  (64, 0xc00001801720, .evtest (fr 5 0 6 0 0x0 0x3 0)),
  (96, 0x300020000001f21, .evtestF96 (fx 7 0 0 0x30 0x0 0x2 0)),
  (64, 0x1c0000180171c, .evwait (fr 5 0 6 0 0x0 0x7 0)),
  (96, 0x300040000001f1d, .evwaitF96 (fx 7 0 0 0x30 0x0 0x4 0)),
  (64, 0x4800000000324, .barrier (fr 0 0 0 0 0x0 0x12 0)),
  (64, 0x3fc00000001728, .groupid (fr 5 0 0 0 0x0 0xff 0)),
  (64, 0x172c, .corenum (fr 5 0 0 0 0x0 0x0 0)),
  (64, 0x2ca3340, .dopen (fr 12 10 11 0 0x0 0x0 0)),
  (64, 0x124744, .dclose (fr 17 18 0 0 0x0 0x0 0)),
  (64, 0x400000124748, .dabort (fr 17 18 0 0 0x0 0x1 0)),
  (64, 0x40000012474c, .dstat (fr 17 18 0 0 0x0 0x1 0)),
  (64, 0x1801760, .jwait (fr 5 0 6 0 0x0 0x0 0)),
  (96, 0xffff0000000001761, .jwaitF96 (fx 5 0 0 0xffff 0x0 0x0 0)),
  (64, 0x1801f64, .jpoll (fr 7 0 6 0 0x0 0x0 0)),
  (96, 0x10000000001f65, .jpollF96 (fx 7 0 0 0x1 0x0 0x0 0)),
  (64, 0x400001801768, .jstat (fr 5 0 6 0 0x0 0x1 0))]
theorem test_words_eventGroupDomainJob : words_eventGroupDomainJob.all reads = true := by decide +kernel

def words_system : List (Nat × Nat × Instr) := [
  (64, 0x44001780, .srd (fi 5 0 0x110 0x0 0)),
  (64, 0x3ffc50384, .swr (fi 0 5 0xfff 0x0 0)),
  (64, 0x3fffffffc00388, .trap (fi 0 0 0xffffffff 0x0 0)),
  (64, 0x3fffc0038c, .bkpt (fi 0 0 0xffff 0x0 0)),
  (64, 0x1c30390, .mark (fi 0 3 0x7 0x0 0)),
  (96, 0x70000000030391, .markF96 (fx 0 3 0 0x7 0x0 0x0 0)),
  (64, 0x71b77a0, .killg (fr 29 27 28 0 0x0 0x0 0)),
  (64, 0x4000000617a4, .resume (fr 5 6 0 0 0x0 0x1 0)),
  (64, 0x1c617a8, .pgreply (fr 5 6 7 0 0x0 0x0 0)),
  (64, 0x1c617ac, .tlbinv (fr 5 6 7 0 0x0 0x0 0))]
theorem test_words_system : words_system.all reads = true := by decide +kernel

/-! ## States of the tests -/

def quietG (x : GReg) : Bool := !x.pending && !x.expired && !x.bad
def quietV (x : VReg) : Bool := !x.pending && x.expired == 0 && !x.bad

/-- The slot whose turn it is runs, every mailbox is full, and no register is pending, expired or damaged. -/
def ready (s : State) : Bool :=
  decide (s.turn.2 < 4) && s.reqs.isEmpty && s.cur.mbp == 0xFF && s.cur.run == .running &&
  (List.range 64).all (fun r => quietG (s.cur.readG (BitVec.ofNat 6 r))) && (List.range 64).all (fun r => quietV (s.cur.readV (BitVec.ofNat 6 r)))

theorem ready_g {s : State} (h : ready s = true) (r : RegNo) : quietG (s.cur.readG r) = true := by
  simp only [ready, Bool.and_eq_true, List.all_eq_true] at h
  have := h.1.2 r.toNat (by simpa using r.isLt)
  simpa using this

theorem ready_v {s : State} (h : ready s = true) (r : RegNo) : quietV (s.cur.readV r) = true := by
  simp only [ready, Bool.and_eq_true, List.all_eq_true] at h
  have := h.2 r.toNat (by simpa using r.isLt)
  simpa using this

theorem mbox_bit (r : RegNo) (n : Nat) (h : mbox? r = some n) : (0xFF : BitVec 8).getLsbD n = true := by
  have h1 : ∀ r : RegNo, (match mbox? r with | some n => (0xFF : BitVec 8).getLsbD n | none => true) = true := by decide
  have := h1 r
  rwa [h] at this

/-- In such a state an instruction that no predicate squashes executes, whatever it reads and writes. -/
theorem ready_issues {s : State} (h : ready s = true) (i : Ins) (hp : i.pred = 0) (u : Uses) (vec : Bool) : s.issues i u vec = true := by
  have hg := fun r => ready_g h r
  have hv := fun r => ready_v h r
  simp only [quietG, quietV, Bool.and_eq_true, Bool.not_eq_true', beq_iff_eq] at hg hv
  simp only [ready, Bool.and_eq_true, decide_eq_true_eq, List.isEmpty_iff, beq_iff_eq] at h
  obtain ⟨⟨⟨⟨⟨h1, h2⟩, h3⟩, -⟩, -⟩, -⟩ := h
  have hp0 : s.cur.predTrue 0 = true := by
    have e : fld (0#4) 0 3 % 8 = 0 := by decide
    simp [Slot.predTrue, Slot.readP, e]
  have hm : s.cur.mboxMissing u = false := by
    simp only [Slot.mboxMissing, List.any_eq_false, h3]
    intro r _
    split
    · next n hn => rw [mbox_bit r n hn]; simp
    · simp
  simp only [State.issues, h1, h2, hp, hp0, hm, decide_true, Bool.true_and, Bool.or_true, Bool.not_false, Bool.and_true]
  simp [skidFull, Slot.pends, parityErr, hg, hv]

theorem ready_clean {s : State} (h : ready s = true) (r : RegNo) (b : BitVec 64) : s.clean r b = true := by
  have := ready_v h r
  simp only [quietV, Bool.and_eq_true, beq_iff_eq] at this
  simp [State.clean, this]

/-- Slot 0 of worker core 0 runs with the given g registers, and has its turn. -/
def stG (g : List (Nat × GReg)) : State :=
  State.reset.modSlot 0 0 fun sl => { sl with run := .running, pc := selfAlias 0, pcc := rootExec (selfAlias 0), pccTag := true, mbp := 0xFF, g := g.foldl (fun v p => vset v p.1 p.2) sl.g }
def num (x : Nat) : GReg := { val := BitVec.ofNat 128 x }
def cap (kind : Nat) (perm : BitVec 12) (a : Nat) : GReg := { val := mkCap kind 63 0 0 perm a, tag := true }

/-- Numbers in g2 to g5, capabilities in g6 to g15, a control word in g16. -/
def s0 : State := stG [(2, num 7), (4, num (2 ^ 64 - 1)), (5, num (2 ^ 63)), (6, cap 0 0x7FF (selfAlias 0x1000).toNat), (7, cap 2 0x7FF (5 * 2 ^ 36)),
  (8, cap 0 pEXEC (selfAlias 0x40).toNat), (9, cap 0 pEXEC (selfAlias 0x42).toNat), (10, cap 0 pLD (selfAlias 0x40).toNat), (11, cap 3 0x7FF 0),
  (12, { val := mkCap 0 1 0 8 0x7FF 0x2000, tag := true }), (13, { val := mkCap 0 63 1 0 0x7FF 0x2000, tag := true }), (14, cap 0 0x7FF (2 ^ 63 + 0x3FF * 2 ^ 53 + 0x10000)), (16, num 0x0804)]

theorem s0_ready : ready s0 = true := by decide +kernel

def r0 : FR := fr 1 2 4 5 3 0 0
def i0 : FI := fi 1 2 5 3 0
def x0 : FX := fx 1 2 0 5 3 0 0
def l0 : FL := fl 1 2 0 0 5 3 0 0

/-! ## Witnesses: for each statement a state and operands that meet the hypotheses of its clauses -/

theorem wit_IntegerArithmeticResults : (s0.issues (insR r0) { g := [2, 4], dg := [1] } false && s0.issues (insIA i0) { g := [2], dg := [1] } false &&
    s0.issues (insX x0) { g := [2], dg := [1] } false && s0.issues (insL l0) { g := [2], dg := [1] } false &&
    intSigned 3 && !intSigned 7) = true := by decide +kernel

theorem wit_LogicAndShiftResults : (s0.issues (insR r0) { g := [2, 4], dg := [1] } false &&
    s0.issues (insX x0) { g := [2], dg := [1] } false) = true := by decide +kernel

theorem wit_BitCountAndFieldResults : (s0.issues (insR r0) { g := [2], dg := [1] } false &&
    s0.issues (insR (fr 1 2 16 0 4 0 0)) { g := [2, 16], dg := [1] } false && s0.issues (insR (fr 1 2 4 16 0 0 0)) { g := [2, 4, 16], dg := [1] } false) = true := by
  decide +kernel

/-- A zero divisor, the signed overflow, and a plain division. -/
theorem wit_CarryAndDivisionResults : (let at_ (f : FR) : Slot := s0.begun (insR f) { g := [f.a, f.b], dg := [f.d] } (intWarn (insR f))
    s0.issues (insR (fr 1 2 4 5 0x400 0 0)) { g := [2, 4, 5], dg := [1] } false && s0.issues (insR (fr 1 2 3 0 4 0 0)) { g := [2, 3], dg := [1] } false &&
    srcY (insR (fr 1 2 3 0 4 0 0)) (at_ (fr 1 2 3 0 4 0 0)) == 0 && srcX (insR (fr 1 5 4 0 4 0 0)) (at_ (fr 1 5 4 0 4 0 0)) == -2 ^ 63 &&
    srcY (insR (fr 1 5 4 0 4 0 0)) (at_ (fr 1 5 4 0 4 0 0)) == -1 && intSigned (insR (fr 1 5 4 0 4 0 0)).ty &&
    srcY (insR (fr 1 4 2 0 4 0 0)) (at_ (fr 1 4 2 0 4 0 0)) == 7) = true := by decide +kernel

theorem wit_CompareAndMoveResults : (s0.issues (insR (fr 1 2 4 0 3 10 0)) { g := [2, 4] } false && s0.issues (insX (fx 1 2 0 5 3 0 0)) { g := [2] } false &&
    s0.issues (insR r0) { g := [2], dg := [1], moves := true } false && s0.issues (insIA (fi 1 0 5 3 0)) { dg := [1] } false &&
    rawX (insX (fx 1 2 0 7 3 0 0)) s0.cur == rawY (insX (fx 1 2 0 7 3 0 0)) s0.cur) = true := by decide +kernel

/-- What CBOUND asks for and gets, then each of its faults in turn: untagged, not a kind that has bounds, malformed, out of bounds, inexact;
and CCHAN of a channel. -/
theorem wit_CapabilityResults : s0.issues (insR (fr 1 6 2 0 0 0 0)) { g := [6, 2], dg := [1] } false = true ∧
    capDecode (s0.cur.readG 6).val = some (0, 2 ^ 64) ∧ (s0.cur.readG 6).tag = true ∧ (s0.cur.readG 6).val.toNat / 2 ^ 124 = 0 ∧ capKind (s0.cur.readG 6).val = 0 ∧
    (capEncode (capAddr (s0.cur.readG 6).val) (capAddr (s0.cur.readG 6).val + 7)).2.2.2 = true ∧
    (capEncode (capAddr (s0.cur.readG 6).val) (capAddr (s0.cur.readG 6).val + 0x100001)).2.2.2 = false ∧
    (s0.cur.readG 2).tag = false ∧ capKind (s0.cur.readG 11).val = 3 ∧ (s0.cur.readG 11).tag = true ∧
    (s0.cur.readG 13).tag = true ∧ capDecode (s0.cur.readG 13).val = none ∧
    (s0.cur.readG 12).tag = true ∧ (capDecode (s0.cur.readG 12).val).any (fun p => p.2 < capAddr (s0.cur.readG 12).val + 7) = true ∧
    capKind (s0.cur.readG 7).val = 2 ∧ (s0.cur.readG 7).tag = true ∧ (s0.cur.readG 7).val.toNat / 2 ^ 124 = 0 ∧
    capDecode (s0.cur.readG 7).val = some (0, 2 ^ 64) := by decide +kernel

theorem wit_CapabilitiesNeverWiden : (cboundVal (s0.cur.readG 6).val 7 false).isOk = true ∧ (cchanVal (s0.cur.readG 7) (5 * 2 ^ 36 + 31)).isOk = true ∧
    capDecode (capWithAddr (s0.cur.readG 6).val 64) = capDecode (s0.cur.readG 6).val := by decide +kernel

theorem wit_BoundsEncodingHoldsRequest : capAddr (s0.cur.readG 6).val = (selfAlias 0x1000).toNat ∧ (selfAlias 0x1000).toNat + 7 ≤ 2 ^ 64 ∧
    (let r := capEncode (selfAlias 0x1000).toNat ((selfAlias 0x1000).toNat + 7)
     capDecode (capWithBounds (s0.cur.readG 6).val r.1 r.2.1 r.2.2.1)) = some ((selfAlias 0x1000).toNat, (selfAlias 0x1000).toNat + 7) := by decide +kernel

/-- A jump that passes, and each of its faults. -/
theorem wit_TransferResults : s0.issues (insR (fr 1 8 0 0 0 0 0)) { g := [8], dg := [1] } false = true ∧ s0.issues (insI (fi 0 60 4 0 0)) {} false = true ∧
    s0.issues (insX (fx 0 60 0 4 1 0 0)) {} false = true ∧ s0.issues (insI (fi 0 0 4 0 0)) { dg := [1] } false = true ∧
    s0.issues (insR (fr 0 8 0 0 0 0 0)) { g := [8], dg := [0] } false = true ∧
    (s0.cur.readG 8).tag = true ∧ (s0.cur.readG 8).val.toNat / 2 ^ 122 = 0 ∧ hasPerm (s0.cur.readG 8).val pEXEC = true ∧ (s0.cur.readG 8).val.toNat % 4 = 0 ∧
    (s0.cur.readG 2).tag = false ∧ (s0.cur.readG 7).tag = true ∧ (s0.cur.readG 7).val.toNat / 2 ^ 122 ≠ 0 ∧
    (s0.cur.readG 10).tag = true ∧ (s0.cur.readG 10).val.toNat / 2 ^ 122 = 0 ∧ hasPerm (s0.cur.readG 10).val pEXEC = false ∧
    (s0.cur.readG 9).tag = true ∧ (s0.cur.readG 9).val.toNat / 2 ^ 122 = 0 ∧ hasPerm (s0.cur.readG 9).val pEXEC = true ∧ (s0.cur.readG 9).val.toNat % 4 ≠ 0 := by
  decide +kernel

/-- LOOP of a count and of zero; WAIT for a passed time, and for a message that has not come. -/
theorem wit_LoopAndWaitResults : s0.issues (insI (fi 0 2 10 0 0)) { g := [2] } false = true ∧ s0.issues (insX (fx 0 2 0 10 0 0 0)) { g := [2] } false = true ∧
    s0.cur.g64 2 ≠ 0 ∧ s0.cur.g64 3 = 0 ∧ s0.issues (insR (fr 1 3 0 0 0 4 0)) { g := [3], dg := [1] } false = true ∧ s0.cur.g64 3 ≤ s0.reft ∧
    s0.issues (insR (fr 1 0 0 0 0 1 0)) { dg := [1] } false = true ∧ s0.cur.msgl = false ∧ s0.issues (insR (fr 0 0 0 0 0 0 0)) {} false = true := by decide +kernel

/-- The last byte of a loop's body with one, and with two passes left. -/
theorem wit_RetirementAdvancesAndFrame : (let sl (n : W64) : Slot := { pc := 0x40, loop := { lact := true, lstart := 0x20, lend := 0x48, lcnt := n } }
    (sl 1).pc + 8 = (sl 1).loop.lend ∧ (sl 1).loop.lcnt.toNat ≤ 1 ∧ 1 < (sl 2).loop.lcnt.toNat) ∧
    ∀ l < 4, vget (s0.core 0).links l [] = [] := by decide +kernel

theorem wit_FloatResults : (s0.issues (insR (fr 1 2 4 5 0xB 0 0)) { g := [2, 4, 5], dg := [1] } false && s0.issues (insX (fx 1 2 0 0x3F800000 0xB 0 0)) { g := [2], dg := [1] } false &&
    s0.issues (insL (fl 1 2 0 0 0 0xA 0 0)) { g := [2], dg := [1] } false && s0.issues (insR (fr 1 2 4 0 0xB 0 0)) { g := [2, 4] } false) = true := by decide +kernel

/-- The smallest subnormal and the largest finite number of FP32. -/
theorem wit_RoundingKeepsRepresentable : (1 : Nat) < 2 ^ (ffmt 0x0B).bits ∧ (match decodeF 0x0B 1, decodeF 0x0B 0x7F7FFFFF with
    | .fin false 1 _ false, .fin false _ _ false => true
    | _, _ => false) = true := by decide +kernel

/-- A number between two of FP32's, and one between two of E4M3's. -/
theorem wit_NearestRoundingIsNearest : (roundF 0x0B 0 false false 1 (.fin false (2 ^ 24 + 1) 0 false)).flags &&& fOF = 0 ∧
    (roundF 0x0E 0 false false 1 (.fin true 17 0 false)).flags &&& fOF = 0 := by decide +kernel

theorem wit_VectorArithmeticResults : (s0.issues (insR (fr 1 2 3 4 0xB 0 0)) { v := [2, 3, 4], dv := [1] } true && s0.clean 2 (s0.laneBytes (insR (fr 1 2 3 4 0xB 0 0)) 4) &&
    s0.issues (insX (fx 1 2 0 5 3 0 0)) { v := [2], dv := [1] } true && laneOn (s0.cur.laneMask 0) 4 15 && !laneOn (s0.cur.laneMask 8) 4 15) = true := by decide +kernel

theorem wit_VectorLogicCompareMoveResults : (s0.issues (insR (fr 1 2 3 4 3 0 0)) { v := [2, 3, 4], dv := [1] } true && s0.issues (insX (fx 1 2 0 5 3 0 0)) { v := [2] } true &&
    tAny (insR (fr 1 2 3 0 3 0 0)).ty && s0.issues (insIA (fi 1 2 0 3 0)) { g := [2], dv := [1] } true && s0.issues (insL (fl 1 0 0 0 5 3 0 0)) { dv := [1] } true &&
    (s0.cur.readV 2).expired == 0 && s0.issues (insR (fr 1 2 3 0 3 0 0)) { g := [3], v := [2], dg := [1] } true &&
    s0.issues (insR (fr 1 2 3 0 3 0 0)) { g := [2, 3], dv := [1] } true) = true := by decide +kernel

/-- Every operation of VRED over signed words, and one over FP32; VSCAN; both kinds of VDOT. -/
theorem wit_ReductionResults : ((List.range 6).all (fun op => vredOk (BitVec.ofNat 8 (32 * op + 3)) 3) && vredOk 0x0B 0x0B && s0.clean 2 (s0.laneBytes (insR (fr 1 2 0 0 3 3 0)) 4) &&
    s0.issues (insR (fr 1 2 0 0 3 3 0)) { v := [2], dg := [1] } true && s0.issues (insR (fr 1 2 0 0 3 0 0)) { v := [2], dv := [1] } true &&
    tInt (insR (fr 1 2 3 4 1 0 0)).ty && !tInt (insR (fr 1 2 3 4 0xC 0 0)).ty && s0.issues (insR (fr 1 2 3 4 1 0 0)) { v := [2, 3, 4], dv := [1] } true) = true := by decide +kernel

/-- VCVT between element types, to and from a block format; VQUANT; VDEQ to BF16 and to FP32; a bounded approximation. -/
theorem wit_VectorConversionResults : (!isBlock (insR (fr 1 2 0 0 0xB 0x0C 0)).ty && isBlock (insR (fr 1 2 0 0 0x11 0x0C 0)).ty && isBlock 0x12 && tFp32 0x0C && tFp32 0x0B &&
    (s0.cur.readV 2).expired == 0 && s0.laneBytes (insR (fr 1 2 0 0 0x11 0x0C 0)) 2 != 0 && s0.issues (insR (fr 1 2 0 0 0xB 0x0C 0)) { v := [2], dv := [1] } true &&
    s0.issues (insR (fr 1 2 3 0 0x11 0x0B 0)) { v := [2, 3], dv := [1] } true && s0.issues (insR (fr 2 4 0 0 0x0B 0x11 0)) { v := [4], dv := [2, 3] } true) = true ∧
    (0x0B : Nat) ≤ 0x0D := by decide +kernel

theorem wit_VectorConversionResults_approx : (deliverApprox 2 0x0B 3 0 false 1 ⟨false, 5, 1, 0⟩ 1 (-20)).flags &&& fOF = 0 := by
  have h : (roundF 0x0B 0 false false 1 (.fin false 5 0 true)).flags &&& fOF = 0 ∧
      ((roundF 0x0B 0 false false 1 (.fin false 5 0 true)).flags ||| (fNX ||| 0)) &&& fOF = 0 := by decide +kernel
  have e : ¬((0 : Int) + (bitLen 5 : Int) - 1 < 1 - ((ffmt 0x0B).bias : Int)) := by decide
  simp only [deliverApprox, h.1, e, bne_self_eq_false, Bool.false_eq_true, ↓reduceIte, Bool.false_and]
  split
  · decide
  · exact h.2

/-- What an access of the own local memory asks for: it passes its checks at `ea`, all of it lies at offset `off`, and nothing there is lost. -/
def ownAccess (s : State) (i : Ins) (n : Nat) (perm : BitVec 12) (align off : Nat) (store : Bool) : Bool :=
  match memCheck s s.turn.1 s.cur i.a (memOff i s.cur) n perm align store with
  | .ok (_, ea) => (splitLines ea 0 n).all (fun p => ownLocal s.turn.1 p.ea == some (off + p.off) && !s.ownAhead s.turn.1 (off + p.off) p.len) &&
      !errIn s.errs (lmKey s.turn.1 off) n 8 true && (List.range n).all (fun j => !s.lmExpired s.turn.1 (off + j)) && s.accs.all (fun a => a.gid != s.nextId)
  | .error _ => false

/-- Loads at 0x1000, a capability load there, a vector load across a line, and the last bytes of local memory. -/
theorem wit_LocalLoadResults : (s0.calm && s0.issues (insR (fr 1 6 3 0 7 0 0)) { g := [6, 3], dg := [1] } false && mOrd 7 == 0 &&
    ownAccess s0 (insR (fr 1 6 3 0 7 0 0)) 4 pLD 1 0x1000 false && ownAccess s0 (insX (fx 1 6 0 0x20 4 0 0)) 8 pLD 1 0x1020 false &&
    ownAccess s0 (insR (fr 1 6 3 0 0 0 0)) 16 pLD 16 0x1000 false && ownAccess s0 (insX (fx 1 6 0 0x7EFF8 0 0 0)) 8 pLD 1 0x7FFF8 false &&
    ownAccess s0 (insX (fx 1 6 0 0x20 0 0 0)) 64 pLD 1 0x1020 false && hasPerm (s0.cur.readG 6).val pLDCAP) = true := by decide +kernel

/-- Stores at the same places; every element of a scatter and of a gather at 0x1000. -/
theorem wit_LocalStoreResults : (s0.calm && s0.cur.vgDone == 0 && memWf s0.mem && ownAccess s0 (insR (fr 2 6 3 0 3 0 0)) 4 pST 1 0x1000 true &&
    s0.issues (insR (fr 2 6 3 0 3 0 0)) { g := [2, 6, 3] } false && ownAccess s0 (insX (fx 6 6 0 0x7EFF0 0 0 0)) 16 pST 16 0x7FFF0 true &&
    (s0.cur.readG 6).tag && hasPerm (s0.cur.readG 6).val pSTCAP && ownAccess s0 (insX (fx 1 6 0 0x20 0 0 0)) 64 pST 1 0x1020 true &&
    (s0.cur.readV 1).expired == 0 && s0.tags.isEmpty && s0.issues (insR (fr 1 6 2 0 7 0 0)) { g := [6], v := [2, 1] } false &&
    (List.range 16).all (fun j => laneOn (s0.cur.readP 0) 4 j &&
      BitVec.ofInt 64 (sextN 32 (vElem (s0.cur.readV 2).val 4 j)) == memOff (insR (fr 1 6 3 0 7 0 0)) s0.cur) &&
    ownAccess s0 (insR (fr 1 6 3 0 7 0 0)) 4 pLD 1 0x1000 false && ownAccess s0 (insR (fr 1 6 3 0 7 0 0)) 4 pST 1 0x1000 true) = true := by decide +kernel

/-- A page of context 0 at VA 0x10000, translated and readable, and its capability in g14; none of its neighbours is. -/
def sPage : State :=
  (stG [(14, cap 0 0x7FF (2 ^ 63 + 0x3FF * 2 ^ 53 + 0x10000)), (15, cap 0 0x7FF (2 ^ 63 + 0x3FF * 2 ^ 53 + 0x50000)), (6, cap 0 0x7FF (selfAlias 0x1000).toNat)]).modCore 0
    fun c => { c with utlb := [{ ctx := 0, vpage := 1, level := 0, entry := 0x33 }] }

/-- PREF and TOUCH of an untranslated and of a translated address, and of a local one; fences with nothing outstanding. -/
theorem wit_PrefetchAndFenceResults : (sPage.still && sPage.issues (insR (fr 0 15 3 0 0 0 0)) { g := [15, 3] } false &&
    (match accessCheck sPage.pkg 0 sPage.cur 15 (memOff (insR (fr 0 15 3 0 0 0 0)) sPage.cur) 8 pLD 1 with
      | .ok (_, ea) => ea.getLsbD 63 && fld ea 53 10 == 0x3FF && decide (fld ea 0 53 < ctlBase) && decide (sPage.ldpend 0 < 64) &&
        (match sPage.xlate 0 0 (fld ea 0 53 / 64 * 64) .read false with
          | .miss => true
          | _ => false)
      | .error _ => false) &&
    (match accessCheck sPage.pkg 0 sPage.cur 14 (memOff (insR (fr 0 14 3 0 0 0 0)) sPage.cur) 1 pLD 1 with
      | .ok (_, ea) => ea.getLsbD 63 && fld ea 53 10 == 0x3FF && decide (fld ea 0 53 < ctlBase) &&
        (match sPage.xlate 0 0 (fld ea 0 53) .read false with
          | .ok _ _ => true
          | _ => false)
      | .error _ => false) &&
    (match accessCheck sPage.pkg 0 sPage.cur 6 (memOff (insR (fr 0 6 3 0 0 0 0)) sPage.cur) 1 pST 1 with
      | .ok (_, ea) => !ea.getLsbD 63
      | .error _ => false) &&
    sPage.issues (insR (fr 0 0 0 0 0x60 0 0)) {} false && sPage.reqs.isEmpty && sPage.accs.isEmpty && !(sPage.core 0).slotBusy 0 &&
    (sPage.l1Cores 0).all (fun hc => (sPage.core hc).l1.isEmpty) && sPage.cur.clk != 0xFFFFFFFF && !(sPage.core 0).fused &&
    sPage.issues (insR (fr 0 0 0 0 0 0 0)) { g := [0, 0] } false) = true := by decide +kernel

/-- An atomic with a g operand and with a v operand, both CAS sizes, and multicasts to no package and to one, all at the own local memory. -/
theorem wit_AtomicAndMulticastIssueResults :
  (let okAt (off : W64) (n align : Nat) : Bool := match memCheck s0 0 s0.cur 6 off n pATOMIC align true with
      | .ok (_, ea) => !ea.getLsbD 63 && !atomAhead s0.pkg s0.reqs 0 0 ea
      | .error _ => false
    let sMc := s0.modSlot 0 0 fun sl => sl.putV 4 (BitVec.allOnes 64) 2
    let mcAt (s : State) (n align : Nat) : Bool := match accessCheck s.pkg 0 s.cur 6 0 n (pST ||| pMCAST) align with
      | .ok (_, ea) => !ea.getLsbD 63 &&
        ((ownLocal 0 (mcAddr s.pkg ea s.pkg.toNat)).all fun o => !localBad (s.core 0) s.cur o n true) &&
        (mcList (mcDests s.cur 4)).all fun q => (splitLines ea 0 n).all fun p => !atomAhead s.pkg s.reqs 0 0 (mcAddr s.pkg p.ea q)
      | .error _ => false
    s0.calm && decide (s0.ldpend 0 < 64) && okAt (memOff (insR (fr 2 6 3 0 0 0 0)) s0.cur) (s0.handlerSize 0) (s0.handlerSize 0) &&
    okAt 0 (s0.handlerSize 2) (s0.handlerSize 2) && okAt (s0.cur.g64 3) 16 16 && okAt (s0.cur.g64 3) 8 8 && (s0.cur.readV 1).expired == 0 &&
    s0.issues (insR (fr 2 6 3 0 0 0 0)) { g := [2, 6, 3], dg := [2] } false && s0.issues (insR (fr 1 6 3 0 0 0x22 0)) { g := [6, 3], v := [1], dv := [1] } false &&
    s0.issues (insR (fr 2 6 3 4 9 0 0)) { g := [6, 3, 4, 2], dg := [2] } false &&
    s0.issues (insR (fr 2 6 4 3 3 0 0)) { g := [2, 6, 3], v := [4, 5] } false && mcAt s0 4 1 && mcList (mcDests s0.cur 4) == [] &&
    ready sMc && mcAt sMc 4 1 && mcList (mcDests sMc.cur 4) == [1] && mcAt sMc (sMc.handlerSize 0) (sMc.handlerSize 0)) = true := by decide +kernel

/-- Each accumulator instruction at 0x1000; an addend of 7 and a NaN; a result to be written, before and after its cycles. -/
theorem wit_AccumulatorResults :
  (let ck (f : FR) (us : List RegNo) (w : BitVec 10) (r : RegNo) (perm : BitVec 12) (st : Bool) : Bool :=
      match laccCheck s0 0 (s0.begun (insR f) { g := us } w) (insR f) r perm st with
      | .ok o => (match laccReadBad s0 0 o with
          | none => true
          | some _ => false)
      | .error _ => false
    memWf s0.mem && (s0.core 0).lacc.isEmpty && ck (fr 0 6 3 0 0 0 0) [6, 3] 0 3 pST true && ck (fr 0 6 3 2 0xB 0 0) [6, 3, 2] 0 3 (pLD ||| pST) true &&
    ck (fr 1 6 3 0 0xA 0 0) [6, 3] 0 3 pLD false && ck (fr 0 6 3 3 0 0 0) [6, 3, 3] 0 3 (pLD ||| pST) false &&
    s0.issues (insR (fr 2 6 3 2 0xB 0 0)) { g := [6, 3, 2, 2] } false &&
    (match decodeF 0x0B 0x40E00000, decodeF 0x0B 0x7FC00000 with
      | .fin _ _ _ _, .nan _ => true
      | _, _ => false) &&
    (let x : LaccOp := { slot := 0, rd := some (1, 5), cycles := 10 }
     let t := s0.modCore 0 fun c => { c with lacc := [x] }
     let t1 := t.setDie 0 { t.die 0 with cyc := 10 }
     decide ((t.cycOf 0 - x.since).toNat < x.cycles) && decide (x.cycles ≤ (t1.cycOf 0 - x.since).toNat))) = true := by decide +kernel

/-- A stream of four signed words from 0x1000, bound for reading with an entry queued, and bound for writing. -/
def sdWords : W512 := BitVec.ofNat 512 (4 + 4 * 2 ^ 32 + 3 * 2 ^ 480)
def stream (state : BitVec 2) (moved next : Nat) (q : List StreamEnt) : State :=
  (stG [(6, cap 0 0x7FF (selfAlias 0x1000).toNat)]).modSlot 0 0 fun sl => sl.setStream 1
    { state := state, desc := sdWords, cap := (cap 0 0x7FF (selfAlias 0x1000).toNat).val, ifmt := 3, moved := moved, next := next, queue := q }

theorem wit_StreamResults : (s0.inputFmt 0 (s0.cur.readG 6).val sdWords == some 3 && sdLegal sdWords 3 false && sdLegal sdWords 3 true && (lutOffs sdWords).isEmpty && !acqOut s0.accs 0 s0.turn.2 &&
    (match extentCheck s0 0 (s0.begun (insL (fl 1 6 0 0 (4 + 4 * 2 ^ 32) 0 3 0)) { g := [6] } 0) 6 sdWords 4 false with
      | none => true
      | some _ => false) &&
    s0.issues (insL (fl 1 6 0 0 (4 + 4 * 2 ^ 32) 0 3 0)) { g := [6] } false && (s0.cur.readV 2).expired == 0 &&
    (let s := stream 1 0 4 [{ data := 5 }]
     let x := s.cur.stream 1
     s.issues (insR (fr 1 1 0 0 3 1 0)) { dv := [1] } true && x.state == 1 && x.total == 4 && x.queue.length == 1 && decide (x.moved < x.total) &&
     activeBytes (s.cur.laneMask 0) 4 != 0 && activeBytes (s.cur.laneMask 8) 4 == 0) &&
    (let s := stream 1 4 4 []
     let x := s.cur.stream 1
     decide (x.total ≤ x.moved)) &&
    (let s := stream 2 0 0 []
     let x := s.cur.stream 1
     s.issues (insR (fr 1 2 0 0 3 2 0)) { v := [2] } true && x.state == 2 && decide (x.queue.length < 4) && decide (x.moved < x.total) &&
     (s.cur.readV 2).expired == 0 && (List.range 4).all (fun j => (streamItem s 0 s.cur x j 4 true).isOk)) &&
    (let s := stream 1 0 3 []
     let x := s.cur.stream 1
     s.streamsOn 0 0 && decide (x.next + 1 = x.total) && x.queue.all (fun e => e.todo == 0) && !isBlock x.ifmt.toNat &&
     (match streamItem s 0 s.cur x 3 4 false with
       | .ok a => (splitLines a.2 0 4).all fun p => ownLocal 0 p.ea == some (0x100C + p.off)
       | .error _ => false) && !errIn s.errs (lmKey 0 0x100C) 4 8 true) &&
    (let s := stream 2 4 3 [{ data := 5 }]
     let x := s.cur.stream 1
     let j0 := x.next % max 1 x.perEntry
     s.streamsOn 0 0 && x.state == 2 && x.queue.length == 1 && min (x.perEntry - j0) (x.total - x.next) == 1 && decide (s.ldpend 0 + 4 * 1 ≤ 64) &&
     s.cur.run == .running && memWf s.mem)) = true := by
  decide +kernel

/-! ## Messages to traps -/

def desc (ox oy lw lh : Nat) : BitVec 1024 := packFields 1024 [(656, 8, ox), (664, 8, oy), (672, 4, lw), (676, 4, lh), (704, 32, 0x40000), (736, 32, 0x40000), (768, 32, 0x40000)]
/-- Launch 1, two cores wide, runs on cores 0 and 1; slot 0 of core 0 has its turn. -/
def sL : State :=
  { (s0.modCore 0 fun c => { c with lid := some 1 }).modCore 1 fun c => { c with lid := some 1 } with
    launches := [{ lid := 1, desc := desc 0 0 1 0, state := .running, live := (0, 0, 1, 0) }] }
def lL : Launch := sL.launches.getD 0 {}

/-- SEND from a register and from memory; SENDR over the rectangle's edge and to core 1; HSET of an empty and of a malformed entry. -/
theorem wit_SendAndHandlerTableResults : sL.still = true ∧ ready sL = true ∧
    (sendBad sL 0 (insX (fx 7 2 0 8 0 0 0)) (sL.begun (insX (fx 7 2 0 8 0 0 0)) { g := [7], v := [2] } 0)).isNone = true ∧
    (sendBad sL 0 (insX (fx 7 6 0 8 0 1 0)) (sL.begun (insX (fx 7 6 0 8 0 1 0)) { g := [7, 6] } 0)).isNone = true ∧
    (sendBad sL 0 (insR (fr 7 2 2 0 0 0 0)) (sL.begun (insR (fr 7 2 2 0 0 0 0)) { g := [7, 2], v := [2] } 0)).isNone = true ∧
    (match sL.payRead 0 0 (sL.begun (insX (fx 7 6 0 8 0 1 0)) { g := [7, 6] } 0) 6 0 8 with
      | .ok (_, s) => s == sL
      | .error _ => false) = true ∧
    (sL.relWait 0 0 false).isNone = true ∧ sL.cur.isRoot = false ∧ (sL.core 0).sendq = [] ∧
    sL.issues (insX (fx 7 6 0 8 0 1 0)) { g := [7, 6] } false = true ∧ sL.issues (insX (fx 7 2 0 8 0 0 0)) { g := [7], v := [2] } false = true ∧
    sL.issues (insR (fr 56 2 0 0 0 1 0)) { g := [2] } false = true ∧ sL.neighbour 0 1 = none ∧ sL.neighbour 0 0 = some 1 ∧ vget (sL.core 1).links 1 [] = [] ∧
    (let s := sL.modCore 0 fun c => { c with lmb3 := 0 }
     s.still = true ∧ heStatus (s.cur.readG 3).val (s.core 0).lmb3.toNat 0 (((List.range 32).filter (· != 5)).map (s.core 0).handler) = 0 ∧
     s.issues (insR (fr 1 3 4 0 0 0 0)) { g := [3, 4], dg := [1] } false = true) ∧
    heStatus (sL.cur.readG 2).val (sL.core 0).lmb3.toNat 0 (((List.range 32).filter (· != 5)).map (sL.core 0).handler) ≠ 0 ∧
    sL.issues (insR (fr 1 2 4 0 0 0 0)) { g := [2, 4], dg := [1] } false = true := by decide +kernel

/-- A launch of core 16's core alone, from v2 and v3, with boundaries of 0 and a table of zeros: refused while the context may not launch, accepted when it may. -/
def sSub (flags : BitVec 8) : State :=
  let d : BitVec 1024 := packFields 1024 [(656, 8, 16)]
  (sL.setCtx 0 { valid := true, flags := flags, qdepth := 4 }).modSlot 0 0 fun sl =>
    (sl.putV 2 (BitVec.allOnes 64) (d.extractLsb' 0 512)).putV 3 (BitVec.allOnes 64) (d.extractLsb' 512 512)
def subStatus (s : State) : Option Nat :=
  match s.readLaunch 0 0 (s.begun (insR (fr 1 2 8 6 0 0 0)) { g := [8, 6], v := [2, 3], dg := [1] } 0) 6 (launchDesc s.cur 2) (s.cur.readG 8).val with
  | .ok (b, t) => if t == s then some (s.submitStatus 0 true b) else none
  | .error _ => none

theorem wit_LaunchAndActivationEndResults : sL.still = true ∧ ready (sSub 2) = true ∧ (sSub 2).ctxOf 0 = 0 ∧ (capHas (sSub 2).cur 8 pEXEC [0]).isNone = true ∧
    (capHas (sSub 2).cur 6 pLD [0, 1]).isNone = true ∧ ((sSub 2).relWait 0 0 false).isNone = true ∧ subStatus (sSub 2) = some 0 ∧ subStatus (sSub 0) = some 1 ∧
    sL.issues (insR (fr 0 0 0 0 0 0 0)) {} false = true ∧ (sL.relWait 0 0 true).isNone = true ∧ sL.cur.act.opened = [] ∧ sL.cur.act.did = 0 := by decide +kernel

/-- The same launch with slot 1 of core 0 in a state `r`, event word 0 = 5, the job numbers up to 100, and two jobs kept. -/
def sRun (r : Run) : State :=
  ((sL.setCtx 0 { valid := true, ev := Vector.ofFn fun i => if i.val == 0 then 5 else 0 }).modCore 0 fun c =>
    { c with nextJob := 100, jobs := [{ jid := 99, state := 2, status := 0 }, { jid := 98, state := 1 }] }).modSlot 0 1 fun sl => { sl with run := r }
def ageOf (id : BitVec 16) : Nat := (((sRun .dormant).core 0).nextJob - id).toNat

/-- Event instructions; sleepers whose bits are set and are not; BARRIER of a pair, of four and of a complete group; a job that is done, one that
runs, one too old and one not submitted. -/
theorem wit_EventGroupAndJobResults : (sRun .dormant).still = true ∧ ready (sRun .dormant) = true ∧ ((sRun .dormant).relWait 0 0 false).isNone = true ∧
    (sRun .dormant).issues (insR (fr 1 0 2 0 0 0 0)) { g := [2], dg := [1] } false = true ∧
    vget ((sRun .dormant).ctx ((sRun .dormant).ctxOf 0)).ev 0 0 &&& 4 = 4 ∧ vget ((sRun .dormant).ctx ((sRun .dormant).ctxOf 0)).ev 0 0 &&& 2 = 0 ∧
    (sRun (.sleeping (.evwait 8 1 0 false 4))).canWake 0 1 = true ∧ ((sRun (.sleeping (.evwait 8 1 0 false 2))).slotAt 0 1).run = .sleeping (.evwait 8 1 0 false 2) ∧
    (0 : W64) ≤ (sRun (.sleeping (.wait 1 4 0))).reft ∧ ((sRun (.sleeping (.wait 1 1 0))).slotAt 0 1).msgl = false ∧
    isSvc 0 = false ∧ (sL.launchOf 0).isSome = true ∧ lL.logw = 1 ∧ lL.logw < 2 ∧ lL.logh = 0 ∧ sL.episodes = [] ∧
    ageOf 99 = 1 ∧ ageOf 98 = 2 ∧ ageOf 100 = 0 ∧ 64 < ageOf 35 ∧ ageOf 36 = 64 ∧
    (((sRun .dormant).core 0).jobs.find? fun j => j.jid == 99) = some { jid := 99, state := 2, status := 0 } ∧
    (((sRun .dormant).core 0).jobs.find? fun j => j.jid == 98) = some { jid := 98, state := 1 } ∧
    ((sRun (.sleeping (.jwait 8 1 99))).slotAt 0 1).run = .sleeping (.jwait 8 1 99) := by decide +kernel

theorem wit_EventGroupAndJobResults_barrier :
    (let e (l : List Nat) : Episode := { lid := 1, shape := 1, arrived := l }
     let group := (List.range 1).flatMap fun y => (List.range 2).map fun x => coreAt x y
     let s (l : List Nat) : State := { sRun (.sleeping (.barrier 1 true)) with episodes := [e l] }
     (s [0]).episodes[0]?.isSome && ((s [0]).launches.find? fun l => l.lid == 1 && l.state == .running).isSome &&
     group.any (fun c => !(e [0]).arrived.contains c && !lL.fenced c) && group.all (fun c => (e [0, 1]).arrived.contains c) &&
     ((s [0, 1]).slotAt ((s [0, 1]).memberCid 1 0) 1).run == .sleeping (.barrier 1 true) && (s [0, 1]).canWake ((s [0, 1]).memberCid 1 0) 1 &&
     !(({ s [0, 1] with host := { sL.host with pfstage := 1 } } : State).canWake 0 1)) = true := by decide +kernel

/-- Context 0 with the domains `ds`; memory holds a descriptor of domain 1 at 0x1000. -/
def sDom (ds : List Domain) : State := { sL with domains := ds, mem := [(lmKey 0 0x1000, 1)] }
def dom (did parent : BitVec 4) (state : Nat) : Domain := { ctx := 0, did := did, parent := parent, state := state }
/-- The status of a DOPEN of that descriptor. -/
def dopenSt (s : State) (r : RegNo) : Option Nat :=
  match s.payRead 0 0 (s.begun (insR (fr 1 r 14 0 0 0 0)) { g := [r, 14], dg := [1] } 0) r 0 64 with
  | .ok (bs, t) => match s.payReads 0 0 (s.begun (insR (fr 1 r 14 0 0 0 0)) { g := [r, 14], dg := [1] } 0) r
      [((domDesc bs).plist, if (domDesc bs).ok then 16 * (domDesc bs).npres else 0), ((domDesc bs).olist, if (domDesc bs).ok then 16 * (domDesc bs).nout else 0)] with
    | .ok (l, t') => if t == s && t' == s then some (s.dopenStatus 0 (domDesc bs) (domEntries (l.getD 0 [])) (domEntries (l.getD 1 [])) (s.cur.readG 14).val) else none
    | .error _ => none
  | .error _ => none

/-- DOPEN that opens, and of a number in use; DCLOSE of a domain with and without an open child; DABORT, DSTAT. -/
theorem wit_DomainResults : ready (sDom []) = true ∧ (sDom []).still = true ∧ (capHas (sDom []).cur 14 pST (List.range 16)).isNone = true ∧
    ((sDom []).relWait 0 0 true).isNone = true ∧ (sDom []).dir.ents = [] ∧ dopenSt (sDom []) 6 = some 0 ∧ dopenSt (sDom [dom 1 0 1]) 6 = some 4 ∧
    (sDom []).dom 0 7 = none ∧ (sDom [dom 7 0 1]).dom 0 7 = some (dom 7 0 1) ∧ (sDom [dom 7 0 1]).cur.g64 2 = 7 ∧ (dom 7 0 1).isOpen = true ∧ (dom 7 0 3).isOpen = false ∧
    (sDom [dom 7 0 1, dom 8 7 1]).openKids 0 7 = [8] ∧ (sDom [dom 7 0 1]).openKids 0 7 = [] ∧ (sDom [dom 7 0 1]).cur.act.did ∉ (sDom [dom 7 0 1]).domTree 0 7 ∧
    ({ dom 7 0 4 with back := 1 } : Domain).isOpen = true ∧ (sDom []).issues (insR (fr 1 2 0 0 0 1 0)) { dg := [1] } false = true := by decide +kernel

/-- A closed domain with and without a task of its own; an error charged to it; its restore in both forms; its root records. -/
theorem wit_DomainResults_progress : (sDom [dom 7 0 2]).mayComplete 0 7 = true ∧ (sDom [dom 7 0 1]).mayComplete 0 7 = false ∧ (dom 7 0 2).erase = false ∧
    (((sDom [dom 7 0 1]).modSlot 0 0 fun sl => { sl with act := { did := 7 } }).modCore 0 fun c =>
      { c with frz := { frozen := true }, faultRec := packFields 512 [(192, 8, cUNCORR)] }).actErrors 0 7 ≠ [] ∧
    (sDom [{ dom 7 0 4 with phase := 1 }]).storesLeft 0 7 = false ∧ (sDom [{ dom 7 0 4 with phase := 1 }]).areaBad { dom 7 0 4 with phase := 1 } = false ∧
    (dom 7 0 4).reexec = false ∧ (dom 7 0 4).escalate = false ∧ (dom 7 0 4).roots[0]? = none ∧
    ({ dom 7 0 4 with phase := 2, roots := [{ msg := some {} }] } : Domain).roots[0]? = some { msg := some {} } ∧ ((sDom []).core 0).sendq = [] ∧
    (dom 7 0 4).since = (sDom []).reft ∧ ({ dom 7 0 4 with since := 5, reexec := true } : Domain).since ≠ (sDom []).reft := by decide +kernel

/-- Each range of numbers that is not a register, at its ends; FPC with a legal and with an illegal mode. -/
theorem wit_SystemRegisterResults : s0.issues (insI (fi 1 0 0x283 0 0)) { dg := [1] } false = true ∧ s0.issues (insI (fi 0 2 1 0 0)) { g := [2] } false = true ∧
    (s0.cur.g64 16).toNat % 8 < 5 ∧ 5 ≤ (s0.cur.g64 2).toNat % 8 ∧ (s0.cur.g64 2).getLsbD 0 = true ∧ s0.turn.1 = (s0.core 0).phys ∧ isSvc 0 = false ∧ isSvc svcBase = true ∧
    ([0x0B, 0x0F, 0x20, 0xFF, 0x103, 0x107, 0x284, 0x2FF, 0x302, 0xFFF].all fun n => (fi 1 0 n 0 0).imm.toNat % 4096 == n.toNat) = true := by decide +kernel

/-- Slot 0 of service core 0 has its turn; g2 names launch 1 whole, g3 an absent launch, g4 core 1 of the launch; g5 = 1. -/
def sSvc (t : State → State) : State :=
  t { ((({ sL with turn := (svcBase, 0) }).modSlot svcBase 0 fun sl =>
    { sl with run := .running, mbp := 0xFF, g := ([(2, num (1 + 2 ^ 32)), (3, num 9), (4, num 1), (5, num 1), (8, num 4), (7, num (1 + 2 ^ 16 * 8))] : List (Nat × GReg)).foldl (fun (v : Vector GReg 64) (p : Nat × GReg) => vset v p.1 p.2) sl.g }).modCore 1 fun c =>
      c.setSlot 0 { c.slot 0 with run := .running }) with out := [] }
def coldFreeze (sfq : List SfqRec) (s : State) : State := s.modCore 1 fun c => { c with frz := { frozen := true }, sfq := sfq }
def postRead (s : State) : State := s.modSlot 1 0 fun sl => { sl with run := .sleeping (.posted 3) }

theorem wit_TrapAndServiceResults : (let s := sSvc id
    s.still && ready s && isSvc s.turn.1 && s.issues (insR (fr 1 2 5 0 0 0 0)) { g := [2, 5], dg := [1] } false && s.launches.all (fun l => l.lid.toNat != 9) &&
    (s.launches.find? fun l => l.lid.toNat == 1).isSome && (killGroup lL (s.cur.g64 2)).isSome && (killGroup lL (s.cur.g64 7)).isNone &&
    s0.issues (insX (fx 0 2 0 7 0 0 0)) { g := [2] } false && s0.issues (insI (fi 0 0 7 0 0)) {} false) = true := by decide +kernel

theorem wit_TrapAndServiceResults_frozen : ((sSvc (coldFreeze [])).coresNamed 1).all (fun c => ((sSvc id).core c).frz.frozen == false) = true ∧
    (((sSvc (coldFreeze [])).coresNamed 1).find? fun c => ((sSvc (coldFreeze [])).core c).frz.frozen) = some 1 ∧ ((sSvc (coldFreeze [])).core 1).sfqAny = false ∧
    ((sSvc (coldFreeze [{}])).core 1).sfqAny = true ∧ ((sSvc id).coresNamed 1).all (fun c => !(sSvc id).awaits c 0) = true ∧
    (((sSvc postRead).coresNamed 1).find? fun c => (sSvc postRead).awaits c 0) = some 1 ∧ (sSvc postRead).frozen 1 = false ∧ (sSvc postRead).cur.g64 0 = 0 ∧
    (sSvc postRead).cur.g64 5 = 1 ∧ 2 ≤ ((sSvc postRead).cur.g64 8).toNat ∧ (s0.core 0).trcc.getLsbD 0 = false ∧
    (s0.cluster 0).gated = false ∧ (s0.cluster 0).loss = 0 ∧ (s0.cluster 0).trace.length < 256 := by decide +kernel

/-! ## Requests, messages, selection and jobs -/

/-- Context 0 with a page table at frame 1 MiB whose first entry maps VA 0 to 64 GiB on physical 0. -/
def sPT : State :=
  { s0.setCtx 0 { valid := true, ptroot := 0x100001 } with mem := [(hbmKey 0x100000, 0x33)] }
def ea0 (va : Nat) : W64 := BitVec.ofNat 64 (2 ^ 63 + 0x3FF * 2 ^ 53 + va)
def withReq (s : State) (r : Req) : State := { s with reqs := [{ r with id := 5 }], nextId := 6 }

/-- A load that has performed with its access; a store performed, refused, and bound for an absent package; walks that find a leaf and none;
a multicast to packages 1 and 3. -/
theorem wit_AnswerResults : (let r : Req := { id := 5, op := .load, stage := .done, grp := 2, n := 4, ea := ea0 0x40, data := 7 }
    let a : Access := { gid := 2, dest := .g 1, ty := 7, n := 4, left := 1 }
    let s := { withReq s0 r with accs := [a] }
    (s.reqAt 5 == some r) && decide (r.slot < 4 ∧ r.cid < hostBase ∧ 5 < s.nextId) && (s.accs.find? fun a => a.gid == r.grp) == some a && a.isLoad &&
    (withReq s0 { op := .store, stage := .done }).reqAt 5 == some { id := 5, op := .store, stage := .done } && ((s0.core 0).sfq.isEmpty) && !s0.frozen 0 &&
    (match sPT.walkReq { id := 5, grp := 1, ea := ea0 0x40 } with
      | (.leaf _ 3 _, _) => true
      | _ => false) &&
    (match s0.walkReq { id := 5, grp := 1, ea := ea0 0x40 } with
      | (.fault _, _) => true
      | _ => false) && mcList 10 == [1, 3]) = true := by decide +kernel

/-- Core 0's request of core 1's local memory, which its launch admits and another does not; an atomic there; a load of a line that the LLC holds. -/
theorem wit_RequestsPerform : (let at_ : W64 := coreAddr 1 0x1000
    let r : Req := { id := 5, op := .load, stage := .core, n := 4, ea := at_, lid := 1 }
    let s := withReq sL r
    let h : Req := { id := 5, op := .load, stage := .home, n := 4, ea := ea0 0x40, pa := 0x40, attr := { ord := 1 } }
    let sH := (withReq sPT h).llcFillHome 1 false none false
    (s.reqAt 5 == some r) && s.mayPerform r && (s.dieAt 1).gone == false && (s.dieAt 1).dead == false &&
    (match placeOf at_ with
      | .localMem none core self _ off => s.placeCid r core self == 1 && off == 0x1000 && (s.core 1).admits? false 1 off 4 false false &&
        (s.core 1).admits? false 1 off 4 true false && !(s.core 1).admits? false 2 off 4 false false && !(s.core 1).admits? false 2 off 4 true false &&
        !errIn s.errs (lmKey 1 off) 4 8 true
      | _ => false) && decide (at_.toNat % 64 + 4 ≤ 64) && memWf s.mem && decide (at_.toNat % 64 + fixedSize 0 ≤ 64) &&
    sH.reqAt 5 == some h && sH.mayPerform h && !inCtl (h.ea.toNat % 2 ^ 53) && (sH.migOf h.pa).isNone && !sH.lineHeld (h.pa / 64) && !sH.uncheckedPart h && !sH.needsFill h && !sH.lineBad h.pa && !sH.vcStopped h && !h.mc && decide (h.slot < 8)) = true := by
  decide +kernel

/-- A deposit for an empty, for a full, and for a just written mailbox; a bank in its cycle and out of it, with an error in its row, in an ephemeral row, and in another; a row of age 626 and one of 625. -/
theorem wit_LocalMemoryEventResults : (let d : Deposit := { slot := 0, reg := 57, val := 3 }
    let s (mbp new : BitVec 8) : State := (State.reset.modCore 1 fun c => { c with links := vset c.links 0 [d] }).modSlot 1 0 fun sl => { sl with mbp := mbp, mbNew := new }
    vget ((s 0 0).core 1).links 0 [] == [d] && (vget ((s 0 0).core 1).links 3 []).isEmpty && !((s 0 0).slotAt 1 0).mbp.getLsbD 1 && ((s 2 0).slotAt 1 0).mbp.getLsbD 1 &&
    ((s 2 2).slotAt 1 0).mbNew.getLsbD 1 && State.reset.dieRuns (dieOf (State.reset.core 0).phys) && (State.reset.cycOf 0).toNat % 32 == 2 * 0 % 32 &&
    (State.reset.cycOf 0).toNat % 32 != 2 * 15 % 32 &&
    errIn [(lmKey 0 0, false)] (lmKey 0 (1024 * 0 + 64 * 0)) 64 8 false && !errIn [(lmKey 0 0, false)] (lmKey 0 (1024 * 511 + 64 * 15)) 64 8 false &&
    0 < (State.reset.core 0).lmb1.toNat && decide (((State.reset.modCore 0 fun c => { c with lmb1 := 0 }).core 0).lmb1.toNat ≤ 0) &&
    (let row (t : W64) : Bool := let s := { State.reset.modCore 0 fun c => { c with rows := [(0, { stamp := 0, aged := false })] } with reft := t }
       decide (626 ≤ (BitVec.ofNat 16 (s.reft.toNat / 64) - (tblGetD (s.core 0).rows 0 {}).stamp).toNat)
     row (626 * 64) && !row (626 * 64 - 1))) = true := by decide +kernel

/-- Channel 5 of core 0 with a slice of 64 bytes at 0x40000, holding the records `rs`. -/
def sChan (rs : List Rec) : State :=
  sL.modCore 0 fun c => { c with lmb1 := 0x40000, lmb2 := 0x40000, lmb3 := 0x40000, handlers := vset c.handlers 5 (packFields 128 [(5, 59, 2), (68, 10, 0x40000 / 512), (78, 10, 1)])
                                 bufs := vset c.bufs 5 { recs := rs, tail := 0 } }
def msg5 : Msg := { mid := 3, lid := 1, addr := coreAddr 0 5, payload := [1, 2], spkg := 0x3FF }
def rec5 (n : Nat) : Rec := { rid := 1, pos := 0, size := n, complete := true, msg := msg5 }

/-- A message leaves its queue, is sent again, finds room, none, and no core to take it; goes back; is placed around a hint; gets its payload. -/
theorem wit_MessageEventResults : (let q (retry : BitVec 8) : State := sL.modCore 0 fun c => { c with sendq := [{ msg5 with retry := retry }] }
    let fly (s : State) (back : Bool) : State := { s with msgs := [{ msg5 with inFlight := true, back := back }] }
    let room (s : State) : Nat := match s.judge 0 msg5 with
      | .room _ pos => pos
      | .full => 1001
      | .never => 1002
    sL.dieRuns (dieOf (sL.core 0).phys) && nextIssue [] ((q 0).core 0).sendq == some msg5 && fld msg5.addr 53 10 == 0x3FF && msg5.hint.isNone && msg5.origin == 0 &&
    ((((q 1).core 0).sendq ++ ((q 1).cluster ((q 1).clusterId 0)).held ++ (q 1).msgs).find? fun m => m.mid == 3 && m.cid == 0 && !m.inFlight && m.retry != 0 &&
      decide (m.readyAt.toNat ≤ ((q 1).cycOf 0).toNat)).isSome &&
    ((fly (sChan []) false).msgs.find? fun m => m.mid == 3).isSome && (sChan []).targetCid msg5.lid msg5.core == 0 && !((sChan []).dieAt 0).gone &&
    room (sChan []) == 0 && room (sChan [rec5 512]) == 1001 && room sL == 1002 && decide (msg5.chan < 32) && msg5.spkg == 0x3FF && (sL.core 0).sfq.isEmpty &&
    ((sChan [{ rec5 64 with complete := false }]).core 0 |>.buf 5).recs.any (fun r => r.rid == 1 && !r.pad && !r.complete && !r.freed) && memWf sL.mem) = true := by decide +kernel

theorem wit_MessageEventResults_hint : (let m : Msg := { msg5 with hint := some 0, anyCore := true }
    let s : State := { sChan [] with spills := [(0, [m])], dies := [(0, { cyc := 4096 })] }
    tblGetD s.spills (coreNo 0) [] == [m] && (s.hintLaunch m).isSome && (s.place m lL (!m.anyCore) (aroundHint (coreNo 0) 0)).isSome &&
    decide (4096 ≤ (s.cycOf (coreNo 0) - m.headAt).toNat) && (tblGet (coreNo 0) s.spillAt).isNone &&
    (let t : State := { s with spillAt := [(0, 4033)] }
     tblGet (coreNo 0) t.spillAt == some 4033 && decide ((t.cycOf (coreNo 0) - 4033).toNat < 64))) = true := by decide +kernel

/-- Core 0, its slots dormant, with a complete record on channel 5; ages, the watchdog, and a stop that is asked for, each before and at its time. -/
theorem wit_SelectionResults : (let s := (sChan [rec5 64]).modSlot 0 0 fun sl => { sl with run := .dormant }
    let old (n : Nat) : State := s.modCore 0 fun c => { c with age := vset c.age 5 n }
    let dog (n : Nat) : State := sL.modSlot 0 0 fun sl => { sl with wdog := n }
    let stop (r : Run) : State := (sL.modCore 0 fun c => { c with frz := { stopreq := true } }).modSlot 0 0 fun sl => { sl with run := r }
    !s.frozen 0 && !s.stopAsked 0 && s.dieRuns (dieOf (s.core 0).phys) && s.waitingSlots 0 == [] && !s.startHeld 0 && s.freeSlot 0 == some 0 && s.served 0 == some (0, 0, 5) &&
    (s.launchOf 0).isSome && ((s.core 0).buf 5).oldest == some (rec5 64) && (selBreak (s.core 0) 0 5).isNone &&
    decide (4096 ≤ vget ((old 4096).core 0).age 5 0) && decide (vget ((old 4095).core 0).age 5 0 < 4096) &&
    lL.timeout == 2 ^ 22 && decide (lL.timeout ≤ ((dog (2 ^ 22)).slotAt 0 0).wdog) && ((dog 0).slotAt 0 0).run != .dormant && !(dog 0).frozen 0 &&
    ((stop .dormant).core 0).frz.stopreq && !((stop .dormant).core 0).frz.stopped && [0, 1, 2, 3].all (fun k => ((stop .dormant).slotAt 0 k).run == .dormant) &&
    ((stop .running).slotAt 0 0).run != .dormant) = true := by decide +kernel

/-! ## Engines -/

def cmdOf (l : List (Nat × Nat × Nat)) : W512 := packFields 512 l
/-- A command that waits at cluster 0's window; a job of core 0, slot 0, as the window's only one. -/
def sSubmit (cmd : W512) : State :=
  sL.modSlot 0 0 fun sl => { (sl.putV 2 (BitVec.allOnes 64) cmd.toNat) with run := .sleeping (.submit 0 2 8 0 0 false) }
def job1 (cmd : W512) : Job := { jid := 99, cid := 0, lid := 1, cmd := cmd, running := true }
def sJobs (l : List Job) : State := let s := sRun .dormant
  s.setCluster 0 { s.cluster 0 with queue := l }

/-- A command that is accepted and one that is malformed (an unknown operation); a job whose effect has ended, and one that runs. -/
theorem wit_JobResults : (let s (op : Nat) : State := sSubmit (cmdOf [(0, 8, op), (32, 16, 1)])
    let j (e : Option (BitVec 8)) : Job := { job1 (cmdOf [(0, 8, 2), (32, 16, 1)]) with ended := e }
    let ok (op : Nat) : Bool := (s op).jqFree 0 != 0 && (s op).nextSubmit 0 == some (0, 0) &&
      (s op).stillAt 0 && ((s op).slotAt 0 0).run == .sleeping (.submit 0 2 8 0 0 false) && !((s op).slotAt 0 0).isRoot &&
      !(((s op).slotAt 0 0).readV 2).pending && !(((s op).slotAt 0 0).readV 2).bad && (cmdVecs (((s op).slotAt 0 0).readV 2).val).isEmpty
    isColl 0 == false && ok 2 && !(s 2).jobBad 0 (((s 2).slotAt 0 0).readV 2).val && ok 0x7F && (s 0x7F).jobBad 0 (((s 0x7F).slotAt 0 0).readV 2).val &&
    ((sJobs [j (some 0)]).engineJobs 0)[0]? == some (j (some 0)) && (j (some 0)).beat.ids == [] &&
    !(j (some 0)).beat.more && !(j (some 0)).untold &&
    (((sJobs [j (some 0)]).core 0).jobs.find? fun h => h.jid == 99 && h.seq == (j (some 0)).seq) == some { jid := 99, state := 2, status := 0 } &&
    ((sJobs [j none]).engineJobs 0)[0]? == some (j none)) = true := by decide +kernel

/-- MZERO, MTREL, MTCFG of a tile that is free and of one that another job uses; an MMA of two vector operands; MLOAD and MSTORE of one word. -/
theorem wit_MatrixResults : (let j (l : List (Nat × Nat × Nat)) : Job := job1 (cmdOf l)
    let run (l : List (Nat × Nat × Nat)) (op : Nat) : Bool := (sJobs [j l]).matrixJob 0 op == some (j l) && (sJobs [j l]).swapTiles (j l) == sJobs [j l]
    let other : Job := { j [(0, 8, 2), (32, 16, 3)] with jid := 98, slot := 1 }
    let two : State := sJobs [j [(0, 8, 5), (32, 16, 1)], other]
    let mma : Job := { j [(0, 8, 1), (36, 2, 3), (64, 16, 1), (80, 16, 1), (96, 8, 0xC), (104, 8, 0xC), (120, 8, 16)] with vecs := List.replicate 32 0 }
    let one (op : Nat) : List (Nat × Nat × Nat) := [(0, 8, op), (40, 8, 0xB), (64, 16, 1), (80, 16, 1), (128, 19, 0x1000)]
    run [(0, 8, 2), (32, 16, 1)] 2 && run [(0, 8, 6), (32, 16, 1)] 6 && run [(0, 8, 5), (32, 16, 1)] 5 &&
    two.matrixJob 0 5 == some (j [(0, 8, 5), (32, 16, 1)]) && !((two.cluster 0).tile 0).released && !other.same (j [(0, 8, 5), (32, 16, 1)]) &&
    other.ended.isNone && (cmdTiles other.cmd).testBit 0 &&
    (sJobs [mma]).matrixJob 0 1 == some mma && (sJobs [mma]).tokenFree ((sJobs [mma]).physCluster 0 / 512) && (((sJobs [mma]).cluster 0).tile 0).sound (cmdSel mma.cmd) &&
    ((sJobs [mma]).mmaOps 0 mma.cmd).any (fun p => !(cmdSel mma.cmd).isEmpty && ((sJobs [mma]).operandRows mma p.1 0 (maskRows (cmdB mma.cmd 8 2))).isOk &&
      ((sJobs [mma]).operandRows mma p.2 0 (maskRows (cmdB mma.cmd 10 2))).isOk) &&
    (let m := j (one 3)
     (sJobs [m]).matrixJob 0 3 == some m && cmdCols m.cmd 0 == [0] && (sJobs [m]).rowFmt m == 0xB &&
     (match (sJobs [m]).engineRead m 0 ((cmdDesc m.cmd 16).row 0 0).toNat 4 with
      | .ok _ => true
      | _ => false)) &&
    (let m := j (one 4)
     (sJobs [m]).matrixJob 0 4 == some m && cmdCols m.cmd 0 == [0] && (((sJobs [m]).cluster 0).tile 0).sound (cmdSel m.cmd) && memWf (sJobs [m]).mem &&
     ((sJobs [m]).core ((sJobs [m]).clusterCore 0 0)).admits? false 1 ((cmdDesc m.cmd 16).row 0 0).toNat 4 true false)) = true := by decide +kernel

/-- A copy command of 4 bytes from core 0's 0x1000 to its 0x2000, with indices at 0x3000; how each kind begins, and its read and its write done. -/
theorem wit_CopyResults : (let a (o : Nat) : Nat := (coreAddr 0 o).toNat
    let cmd (op : Nat) (l : List (Nat × Nat × Nat)) : W512 := cmdOf ([(0, 8, op), (192, 64, a 0x2000), (256, 32, if op == 0x12 then 32 else 4)] ++ l)
    let src : Nat × Nat × Nat := (128, 64, a 0x1000)
    let fmts (x y : Nat) : List (Nat × Nat × Nat) := [src, (32, 8, x), (40, 8, y)]
    let s (j : Job) (reqs : List Req) : State := { sJobs [j] with reqs := reqs }
    let can (c : W512) (b : Beat) (reqs : List Req) (q : State → Unit_ → Bool) : Bool :=
      let j : Job := { job1 c with beat := b }
      (s j reqs).current 0 isCopyOp == some j && (s j reqs).dieRuns ((s j reqs).physCluster 0 / 512) &&
        ((s j reqs).copyPlan 0 c).any fun p => ((s j reqs).copyAt j p).any (q (s j reqs))
    let ends (c : W512) : Bool := ((sJobs []).copyPlan 0 c).any fun p => ((sJobs []).copyAt { job1 c with pos := 4, bytes := 4 } p).isNone
    let dstOk (st : State) (u : Unit_) : Bool := !addrBad (st.jobEa 0 u.dst) && !st.jobConfined (job1 0) u.dst u.n && decide (1 ≤ u.n ∧ u.dst.toNat % 64 + u.n ≤ 64)
    let rd (c : W512) : Bool := can c {} [] fun st u => u.index.isNone && u.src.any fun p => !addrBad (st.jobEa 0 p.1) && decide (1 ≤ p.2 ∧ p.1.toNat % 64 + p.2 ≤ 64)
    let done (c : W512) (k : Nat) : Bool := can c { stage := k, ids := [5] } [{ id := 5, op := .load, n := 4, stage := .done }] fun st u =>
      dstOk st u && (match st.askedOf [5] with
        | .done _ => true
        | _ => false)
    let moving : List W512 := [cmd 0x10 [src], cmd 0x11 (fmts 0xB 0xC), cmd 0x12 (fmts 0xC 0x11)]
    let fill := cmd 0x15 []
    let indexed : List W512 := [0x13, 0x14].map fun op => cmd op [src, (320, 64, a 0x3000), (48, 8, 2)]
    [cmd 0x10 [src], fill].all ends && moving.all rd && indexed.all (fun c => can c {} [] fun _ u => u.index.isSome) &&
    can fill {} [] (fun st u => u.index.isNone && u.src.isNone && dstOk st u) && (moving ++ indexed).all (fun c => done c 2 && done c 3) && done fill 3) = true := by
  decide +kernel

/-- Collective commands of S-die 0: package 0 is a member among 0, 1 and 2. -/
def sColl (l : List Job) (reqs : List Req) : State := { sJobs [] with colls := vset (sJobs []).colls 0 l, reqs := reqs }
def coll (op : Nat) (l : List (Nat × Nat × Nat)) (c : Coll) (b : Beat) : Job :=
  { job1 (cmdOf ([(0, 8, op), (40, 8, 0xB), (48, 16, 3), (96, 32, 6), (128, 64, (coreAddr 0 0x1000).toNat), (192, 64, (coreAddr 0 0x2000).toNat)] ++ l)) with coll := c, beat := b }
def loaded : List Req := [{ id := 5, op := .load, n := 4, stage := .done }]
def isDone : Asked → Bool
  | .done _ => true
  | _ => false

/-- Each command over, reading, and with what it read; a list and a gate asked for and read; a packet of each kind; CEARB and CEFENCE. -/
theorem wit_CollectiveResults : (let c (step : Nat) : Coll := { listOk := true, gateOk := true, pkgs := [0, 1, 2], step := step }
    let at_ (j : Job) (reqs : List Req) : Bool := (sColl [j] reqs).collJob 0 0 == some j && !(sColl [j] reqs).halted && j.running && j.ended.isNone
    let four : List Nat := [0x20, 0x21, 0x22, 0x23]
    let b1 : Beat := { stage := 1, ids := [5] }
    let b2 : Beat := { stage := 2, ids := [5] }
    let lst (b : Beat) : Job := coll 0x20 [] {} b
    let gate (b : Beat) : Job := coll 0x20 [(320, 64, 0x100)] { c 0 with gateOk := false } b
    let mid : Job := coll 0x20 [] (c 1) { stage := 4 }
    four.all (fun op => at_ (coll op [] (c 100) {}) [] && clOver (coll op [] (c 100) {}) && cmdB (coll op [] (c 100) {}).cmd 56 8 == 0) &&
    four.all (fun op => at_ (coll op [] (c 0) {}) [] && !clOver (coll op [] (c 0) {}) && (clRead (sColl [coll op [] (c 0) {}] []) (coll op [] (c 0) {})).any fun p =>
      decide (1 ≤ p.2 ∧ (addN (clAddr (sColl [coll op [] (c 0) {}] []) (coll op [] (c 0) {}) 16) p.1).toNat % 64 + p.2 ≤ 64)) &&
    four.all (fun op => at_ (coll op [] (c 0) b2) loaded && isDone ((sColl [coll op [] (c 0) b2] loaded).askedOf [5])) &&
    at_ (lst {}) [] && isCollOp 0x20 && (sColl [lst {}] []).mayStart (lst {}) && ((sColl [lst {}] []).resumed (lst {})).isNone && !(lst {}).coll.listOk &&
    at_ (lst b1) loaded && isDone ((sColl [lst b1] loaded).askedOf [5]) && !listBad 0 [0, 1, 2] && listBad 0 [1, 2] &&
    at_ (gate {}) [] && cmdB (gate {}).cmd 40 8 != 0 && decide ((gate {}).coll.pollAt.toNat ≤ (sColl [gate {}] []).reft.toNat) && at_ (gate b1) loaded &&
    at_ mid [] && mid.coll.pkgs.contains 2 && (sColl [mid] []).pkg.toNat != 2 && !clTree mid && clPkg mid (clRank (sColl [mid] []) mid + 3 - 1) == 2 && clNp mid == 3 &&
    (let x : Job := { coll 0x24 [] {} {} with running := false }
     let y : Job := { x with running := true }
     (sColl [x] []).collJob 0 0 == some x && (sColl [x] []).mayStart x && !(sColl [x] []).collFull 0 && x.ended.isNone && (sColl [y] []).collJob 0 0 == some y) &&
    (let x : Job := coll 0x25 [] {} {}
     (sColl [mid, x] []).collJob 0 1 == some x && x.running && cmdB x.cmd 4 1 == 0 && (sColl [x] []).collJob 0 0 == some x)) = true := by decide +kernel

/-! ## Fabric, memory dies, directory, migration -/

def sFab (f : Fabric → Fabric) : State := { s0 with fab := f s0.fab }
def port0 (p : Port) (f : Fabric) : Fabric := { f with ports := tblSet 0 p f.ports }
def upPort : Port := { state := 1, credits := Vector.replicate 8 256 }
def badFlit : BitVec 1024 := BitVec.twoPow 1024 1000
def goodFlit (ty seq : Nat) : BitVec 1024 := ((upPort).flit ty seq 0 true true 0).2

set_option maxRecDepth 20000 in
/-- A destination with a minimal path and a lost one; a request and an output that wait; a packet at its intermediate; flits of each kind at a
port that is up; a port that is down, dead, due a sync, past its silence, retraining; the map between updates and draining. -/
theorem wit_FabricResults : (let link : Fabric → Fabric := port0 { upPort with state := 1 }
    let route1 : Fabric → Fabric := fun f => { f with routes := [(1, { v := true, hops := 1, mport := 0 })] }
    let rq : Req := { id := 5, org := 0x3FF, stage := .fabric, op := .load, n := 4, ea := BitVec.ofNat 64 (2 ^ 63 + 2 ^ 53) }
    let sq : State := { sFab (link ∘ route1) with reqs := [rq], out := [.ack 1] }
    let x : Packet := { dpkg := 1, spkg := 2, ipkg := 0 }
    !s0.pkgLost 961 && (s0.minRoute 961).isNone && (sFab link).minRoute 961 == some (1, 0) && vget s0.dir.live 0 false && !s0.halted &&
    sq.unsent[0]? == some rq && !rq.mc && (sq.route (fld rq.ea 53 10)).isSome && fld rq.ea 53 10 == 1 &&
    (let mq : Req := { rq with op := .store, mc := true }
     let sm : State := { sq with reqs := [mq] }
     sm.unsent[0]? == some mq && (sm.route (fld mq.ea 53 10)).isSome && (List.range 32).any fun q => (sm.reachMask q).getLsbD 1) &&
    (sq.unsent.length == 1 && sq.unpacked[0]? == some 0 && sq.out[0]?.isSome) &&
    ({ sq with fab := { sq.fab with packets := [x] } } : State).fab.packets[0]? == some x && (sq.route 1).isSome &&
    ((sFab link).port 0).state == 1 && !((sFab link).port 0).dead && !flitIntact badFlit && flitIntact (goodFlit 0 0) && flitType (goodFlit 0 0) == 0 &&
    flitSeq (goodFlit 0 0) == ((sFab link).port 0).ack + 1 && flitIntact (goodFlit 1 0) && flitType (goodFlit 1 0) == 1 && flitSeq (goodFlit 1 0) == 0 &&
    flitIntact (goodFlit 0 9) && flitSeq (goodFlit 0 9) != ((sFab link).port 0).ack + 1 &&
    ((sFab (port0 {})).port 0).state == 0 && ((sFab (port0 { upPort with sinceSync := 256 })).port 0).replay.length == 0 &&
    ((sFab (port0 { upPort with sinceSync := 255 })).port 0).sinceSync == 255 && portPeer 0 0 == some 961 &&
    ((sFab (port0 { upPort with naks := 8 })).port 0).naks == 8 && (s0.reft - upPort.lastOk).toNat == 0 &&
    ((sFab (port0 { upPort with state := 2 })).port 0).state == 2 && !s0.fab.draining && memWf s0.mem &&
    s0.fab.packets.all (fun k => k.epoch == s0.fab.epoch) && ({ x with epoch := true } : Packet).epoch != s0.fab.epoch) = true := by decide +kernel

/-- Staged images valid, faulty and empty; one being installed; a request in its bank's queue, blocked and not; one that fills the LLC; slots with
and without a latency-critical request; forced and per-bank refreshes at their ends; the lowest notch. -/
theorem wit_MemoryDieResults : (let img (op : Nat) : HEnt := { staged := [(0x03, BitVec.ofNat 8 op), (0x80, 1), (0x84, 1), (0x85, 3), (0x86, 1)] }
    let rq (st : Stage) (lat : Bool) : Req := { id := 5, org := 0x3FF, stage := st, pa := 0x40, attr := { lat := lat } }
    let s (c : PChan) (r : List Req) : State := (State.modHbm { s0 with reqs := r } 0 1 fun h => { h with pchans := [(0, c)] })
    let at_ (n : Nat) (c : PChan) (r : List Req) : State := { s c r with reft := BitVec.ofNat 64 n }
    (img 0xF0).byte 0x80 == 1 && (img 0xF0).validate.isOk && !(img 0xC0).validate.isOk && (img 0xC0).byte 0x80 == 1 && ({} : HEnt).byte 0x80 == 0 &&
    (s0.hent 12).coming.isNone && hbmPlace 0x40 == { stack := 1, q := 0, bank := 0, row := 0 } &&
    ((s {} [rq .hbm false]).hbmQueue 0)[0]? == some (rq .hbm false) && !((s {} []).mdie 0).lost && (s {} [rq .hbm false]).firstInBank (rq .hbm false) &&
    ((s {} []).pchan 0 1 0).forced.isNone && (tblGet 0 ((s {} []).pchan 0 1 0).blocked).isNone && (tblGet 0 ((s { blocked := [(0, 200)] } []).pchan 0 1 0).blocked) == some 200 &&
    ((s {} [rq .fill false]).reqs.filter fun r => r.stage == .fill)[0]? == some (rq .fill false) && !(rq .fill false).attr.erase &&
    (let er : Req := { rq .fill false with attr := { erase := true } }
     let lost : State := { s {} [er] with errs := [(cellKey 1, true)] }
     (lost.reqs.filter fun r => r.stage == .fill)[0]? == some er && (lost.llcHome 1).isNone && lost.errs.contains (cellKey 1, true) && !lost.errs.contains (poisonKey 1, true)) &&
    (let e : HEnt := { img 0xF0 with coming := some none }
     e.coming.isSome && !e.spoilt) && (let two : List Req := [{ rq .hbm false with id := 4 }, rq .hbm false]
     ((s {} two).hbmQueue 0)[1]? == some (rq .hbm false) && !(s {} two).firstInBank (rq .hbm false)) &&
    (((State.modHbm (at_ 61 {} []) 0 1 fun h => { h with down := true }).hbm 0 1).down) && ((at_ 61 { forced := some (0, false) } []).pchan 0 1 0).forced.isSome &&
    decide (8 ≤ ((at_ 0 { owed := List.replicate 8 0 } [rq .hbm true]).pchan 0 1 0).owed.length) && (at_ 0 { owed := List.replicate 8 0 } [rq .hbm true]).latIn 0 1 0 0 &&
    ((at_ 61 {} []).pchan 0 1 0).slot == 0 && ((at_ 61 {} []).reft.toNat - 0) % 61 == 0 && ((at_ 61 {} []).reft.toNat - 0) / 61 % 16 == 1 && !((at_ 61 {} []).hbm 0 1).down &&
    !(at_ 61 {} []).latIn 0 1 0 1 && (at_ 0 {} [rq .hbm true]).latIn 0 1 0 0 && ((at_ 0 {} [rq .hbm true]).pchan 0 1 0).owed.length < 8 &&
    ((at_ 52 { forced := some (0, false) } []).pchan 0 1 0).forced == some (0, false) && ((at_ 402 { forced := some (0, true) } []).pchan 0 1 0).forced == some (0, true) &&
    tblGet (3 / 4) ((at_ 200 { blocked := [(0, 200)] } []).pchan 0 1 0).blocked == some 200 &&
    (at_ 1000 {} []).reft.toNat - ((at_ 1000 {} []).hbm 0 1).lastReq == 1000 && s0.power.notch != 20 &&
    ({ at_ 1000 {} [] with power := { s0.power with notch := 20 } } : State).power.notch == 20) = true := by decide +kernel

/-- A line of this package's directory with the entries `l` and the transactions `t`. -/
def sDir (l : List DirEnt) (t : List Trans) : State := { s0 with dir := { s0.dir with ents := l, trans := t } }

/-- Requests of package 1 for a line with no entry, owned by another, owned by it, and shared; a wait for one and for two; a foreign line. -/
theorem wit_DirectoryResults : (let e (st : BitVec 3) (o : Nat) (sh : List Nat) : DirEnt := { pline := 7, state := st, owner := o, shr := sh }
    let w (l : List Nat) (since : W64) : Trans := { pline := 7, req := 1, getM := true, wait_ := l, since := since }
    let f (c : BitVec 2) : LlcLine := { frn := true, line := 8, pkg := 4, ctx := 0, hline := 9, cst := c }
    let sF (c : BitVec 2) : State := s0.setMdie 4 { s0.mdie 4 with llc := [f c] }
    let rq : Req := { id := 5, stage := .fabric, sent := true, ea := BitVec.ofNat 64 (2 ^ 63), attr := { cg := true } }
    let wb : WbEnt := { pkg := 4, line := 8, hline := 9, dirty := true }
    let sW : State := { s0 with dir := { s0.dir with wbBuf := [wb] } }
    let lost : Trans := { w [2] (-50000) with lost := true }
    (sDir [e Machine.stM 2 []] [lost]).transAt 7 == some lost && (sDir [e Machine.stM 2 []] [lost]).ownerAwaited lost && (sDir [] []).dir.queue.isEmpty &&
    !(w [2] 0).lost && (sW.llcForeign 4 0 8).isNone && sW.wbLine 4 0 8 == some wb && wb.dirty && !wb.bad &&
    let inv (slot : Nat) (l : List Nat) : Inv := { k := 3, cid := if slot == 4 then 1 else 0, slot := slot, wait_ := l }
    (sDir [] []).dirTakes 1 && !(sDir [] []).dirTakes 0 && ((sDir [] []).transAt 7).isNone && !(sDir [] []).lineHeld 7 && ((sDir [] []).dirGet 7).isNone && decide (((sDir [] []).dirSet 7).length < 16) &&
    [e Machine.stM 2 [], e stE 2 [], e stO 2 [3], e Machine.stM 1 [], e stE 1 [], e stO 1 [3], e stS 0 [1], e stS 0 [1, 2]].all (fun x => (sDir [x] []).dirGet 7 == some x) &&
    (sDir [e stS 0 [1, 2]] [w [2] 0]).transAt 7 == some (w [2] 0) && (w [2, 3] 0).wait_.filter (· != 2) == [3] && (w [2] 0).wait_.filter (· != 2) == [] &&
    decide (50000 ≤ ((0 : W64) - (w [2] (-50000)).since).toNat) && decide (((0 : W64) - (w [2] 0).since).toNat < 50000) &&
    [0, 1, 2, 3].all (fun c => (sF c).llcForeign 4 0 8 == some (f c)) &&
    (withReq s0 rq).reqAt 5 == some rq && rq.org == 0x3FF && rq.ea.getLsbD 63 && ((0 : W64) - rq.since).toNat == 0 &&
    (([inv 4 [2]].find? fun y => y.k == 3) == some (inv 4 [2])) && (inv 4 [2]).wait_.contains 2 && ((inv 4 [2]).wait_.filter fun q => q != 2 && !s0.fab.lost.contains (.package q)).isEmpty &&
    s0.stillAt 0 && ((s0.modSlot 0 1 fun sl => { sl with run := .sleeping (.tlbinv 8 3) }).slotAt 0 1).run == .sleeping (.tlbinv 8 3) && (inv 1 [2]).slot == 1 &&
    !(sDir [] []).protLine 7 && !(sDir [e Machine.stM 2 []] []).protLine 7) = true := by
  decide +kernel

/-- A leaf of M-die 0's 64 KiB frame 1 at 0x30000, to be moved to frame 2; a source that is not there; marked, changed since, and committed. -/
def sMig (g : Mig) : State :=
  State.setMdie { s0 with mem := [(hbmKey 0x30000, 3), (hbmKey 0x30002, 1)] } 0 { s0.mdie 0 with mig := g }
theorem wit_MigrationResults : (let g : Mig := { msrc := 0x10000, mdst := 0x20000, mpte := 0x30000, mnew := 0x20003 }
    let good (g : Mig) : Bool := let e : W64 := BitVec.ofNat 64 ((sMig g).pocNat (fld g.mpte 3 37 * 8) 8)
      paMdie g.src == 0 && leafForm g.mnew g.size.toNat && entryFrame g.mnew == g.dst && leafForm e g.size.toNat && entryFrame e == g.src
    let m (phase : Nat) (old : W64) : Mig := { g with phase := phase, old := old, status := 1 }
    let flushed (x : Mig) : State := (sMig x).llcFlush x.src x.bytes
    !g.busy && good g && !good { g with msrc := 0x50000 } && (m 1 0).busy &&
    !(sMig (m 1 0)).migServing (m 1 0) && ((sMig (m 1 0)).migCopies (m 1 0)).isEmpty && (sMig (m 1 0)).dir.trans.isEmpty && (flushed (m 1 0)).errs.isEmpty &&
    BitVec.ofNat 64 (((flushed (m 1 0)).migCopy 0 (m 1 0)).pocNat 0x30000 8) != (m 1 0).old && BitVec.ofNat 64 (((flushed (m 1 0x10003)).migCopy 0 (m 1 0x10003)).pocNat 0x30000 8) == (m 1 0x10003).old &&
    ((sMig (m 2 0)).migQueue (m 2 0)).isEmpty && (sMig (m 2 0)).reqs.isEmpty &&
    !((withReq (sMig (m 3 0)) { stage := .migq, pa := 0x10040 }).migQueue (m 3 0)).isEmpty) = true := by decide +kernel

/-! ## Observation, rings, the scheduler -/

def sCore (cid : Nat) (f : Core → Core) : State := s0.modCore cid f
def pkt (row : Nat) (l : List (Nat × Nat × Nat)) : Nat × BitVec 256 := (row, packFields 256 ([(248, 8, 1)] ++ l))

/-- A collector with room and full; packets that merge and do not; the debug window of a frozen and of a running core; dumps before, during and after
their service core freezes; a sample that is due. -/
theorem wit_ObservationResults : (let s (n : Nat) (l : List (Nat × BitVec 256)) : State := { sCore (svcBase + 3) (fun c => { c with collector := List.replicate n 0 }) with fpkts := l }
    let fz : Frz := { frozen := true }
    let dmp (f : Frz) : State := sCore (svcBase + 3) fun c => { c with dmpc := 2, frz := f }
    let trc (v : Nat) : State := sCore 0 fun c => { c with trcc := BitVec.ofNat _ v }
    (s 0 [pkt 3 []]).fpkts[0]? == some (pkt 3 []) && (s 0 []).collectorOf 3 == 3 && ((s 127 []).core (svcBase + 3)).collector.length == 127 &&
    ((s 128 []).core (svcBase + 3)).collector.length == 128 && (s 0 [pkt 3 [], pkt 3 []]).fpkts[1]? == some (pkt 3 []) && pktMerges (pkt 3 []) (pkt 3 []) &&
    !pktMerges (pkt 3 []) (pkt 3 [(144, 16, 1)]) && (sCore 0 fun c => { c with frz := fz }).frozen 0 && !debugSize 8 16 && debugGuarded 0x8C18 && !debugGuarded 0x9000 &&
    !s0.frozen 0 && !(s0.core 0).frz.stopped && !(s0.core (svcBase + 3)).dmpc.getLsbD 1 && ((dmp {}).core (svcBase + 3)).dmpc.getLsbD 1 && !(dmp {}).frozen (svcBase + 3) &&
    (dmp fz).frozen (svcBase + 3) && neighbourSc 3 == 4 && !(dmp fz).frozen (svcBase + 4) && !((dmp fz).core (svcBase + 4)).dmpc.getLsbD 1 &&
    ((trc 8).core 0).trcc.getLsbD 3 && decide (((trc 8).core 0).sampleAt.toNat ≤ ((trc 8).cycOf 0).toNat) && !((trc 0).core 0).trcc.getLsbD 3) = true := by decide +kernel

/-- A trace record with a sink that takes it, a full one, and none; an evaluation due and not; a cluster that idles, and a gated one; race control
of a context with and without a sweep. -/
theorem wit_ObservationResults_trace : (let s (k : Sink) : State := { sPT.setCluster 0 { sPT.cluster 0 with trace := [0] } with host := { sPT.host with sinks := [(0, k)] } }
    let k : Sink := { tsb := ea0 0x100C }
    let late : Sink := { evalAt := 1 }
    let t (k : Sink) (h n : BitVec 32) : Sink := { k with head := h, tail := n }
    let idle : State := s0.modSlot 0 0 fun sl => { sl with run := .dormant }
    ((s k).cluster 0).trace == [0] && (s k).traceCtx 0 0 == 0 && (s k).sink 0 == k && k.valid && decide ((k.head - k.tail).toNat ≠ 2 ^ k.logn) &&
    sPT.vaWritable 0 (ea0 0x1000) 64 && !sPT.vaWritable 1 (ea0 0x1000) 64 && !({} : Sink).valid && decide (((t k (2 ^ k.logn) 0).head - (t k (2 ^ k.logn) 0).tail).toNat = 2 ^ k.logn) &&
    decide (k.evalAt.toNat ≤ (s k).reft.toNat) && decide ((s late).reft.toNat < late.evalAt.toNat) &&
    !(idle.cluster 0).gated && (idle.cluster 0).queue.isEmpty && (idle.cluster 0).trace.isEmpty &&
    idle.cores.all (fun p => clusterOf (coreNo p.2.phys) != 0 || isSvc p.1 || [0, 1, 2, 3].all fun k => !(p.2.slot k).live) &&
    ((s0.setCluster 0 { s0.cluster 0 with gated := true }).cluster 0).gated && (s0.llcHome ((s0.raceCtl 0 + 20) / 64)).isNone && memWf s0.mem &&
    (sPT.ctx 0).valid && !(sPT.ctx 0).sweep && !(s0.ctx 5).valid && ((s0.setCtx 0 { sweep := true }).ctx 0).sweep) = true := by decide +kernel

/-- Ring 0 with a packet of an opcode at its head, with the bytes `l` after it. -/
def sRing (s : State) (head len opc : Nat) (l : List (Nat × BitVec 8)) : State :=
  ({ s with mem := (l ++ [(hostKey head, BitVec.ofNat 8 len), (hostKey (head + 2), BitVec.ofNat 8 opc)]).filter (·.2 != 0) }).setRing 0
    { en := true, rbase := 12, head := BitVec.ofNat 32 head, tail := BitVec.ofNat 32 ((head + len) % 4096), rcomp := 0x100000 }
def sNoCtx : State := { s0 with launches := [] }

/-- Each packet with its effect, and with a context that is absent or busy; malformed packets; halted rings. -/
theorem wit_RingResults : (let ok (s : State) (opc : Nat) : Bool := let r := s.ring 0
      r.active && !s.host.off && s.host.pfstage != 1 && (s.hostPacket r).err r.head.toNat r.size == 0 && (s.hostPacket r).opc == opc && memWf s.mem
    let bad (s : State) (e : Nat) : Bool := (s.ring 0).active && (s.hostPacket (s.ring 0)).err (s.ring 0).head.toNat (s.ring 0).size == e
    let c0 (s : State) : State := s.setCtx 0 { valid := true }
    ok (sRing s0 4064 32 0 []) 0 && [1, 2, 3, 5, 6, 7].all (fun opc => ok (sRing s0 0 32 opc []) opc) && ok (sRing s0 0 192 4 []) 4 &&
    !(sRing s0 0 32 5 []).hostStoresOut && ({ s0 with reqs := [{ cid := hostBase, op := .store, stage := .home }] } : State).hostStoresOut &&
    bad (sRing s0 0 33 1 []) 1 && bad (sRing s0 4064 192 4 []) 2 && bad (sRing s0 0 32 8 []) 3 && bad (sRing s0 0 32 0 []) 5 &&
    ((sRing sNoCtx 0 32 2 [(hbmKey 8, 1)]).latchCtx 0).flags.getLsbD 0 && ok (sRing sNoCtx 0 32 2 [(hbmKey 8, 1)]) 2 && (sRing sNoCtx 0 32 2 []).queueUse 0 == 0 &&
    !((sRing sNoCtx 0 32 2 []).latchCtx 0).flags.getLsbD 0 && (sRing sL 0 32 2 [(hbmKey 8, 1)]).queueUse 0 == 1 && ((sRing sL 0 32 2 [(hbmKey 8, 1)]).latchCtx 0).flags.getLsbD 0 &&
    ((c0 (sRing sNoCtx 0 32 3 [])).ctx 0).valid && !((sRing s0 0 32 3 []).ctx 0).valid && (c0 (sRing sL 0 32 3 [])).queueUse 0 == 1 &&
    (s0.setRing 0 { halt := true }).ring 0 == { halt := true } && !(s0.ring 0).halt) = true := by decide +kernel

/-- A launch that is eligible alone; one that is quiescent and not; one that moves, before, during and after its grace; one that may widen. -/
theorem wit_SchedulingResults : (let one (l : Launch) (run : Run) : State := { sL with launches := [l] }.modSlot 0 0 fun sl => { sl with run := run }
    let q : Launch := { lL with state := .eligible }
    let off : State := { (one q .dormant) with cores := [] }
    let mv : Launch := { lL with moving := some (1, 0, 0, 0) }
    let noL1 (s : State) : State := (s.modCore 0 fun c => { c with noL1 := true }).modCore 1 fun c => { c with noL1 := true }
    let nar : Launch := { lL with live := (0, 0, 0, 0), narrowBy := some 9 }
    let found (l : Launch) : Bool := ((one l .dormant).launches.find? fun x => x.lid.toNat == 1 && x.state == .running) == some l
    (off.launches.filter fun l => l.state == .eligible) == [q] && !off.halted && off.rectFree q.lid q.rect && q.msgs.isEmpty &&
    found lL && (one lL .dormant).quiescent lL && (one lL .dormant).settled lL && !lL.ending && !(one lL .running).quiescent lL &&
    (let st : State := (one lL .dormant).addReq { op := .store, cid := 0, stage := .home }
     st.quiescent lL && !st.settled lL && (st.launches.find? fun x => x.lid.toNat == 1 && x.state == .running) == some lL) && found mv && mv.moving == some (1, 0, 0, 0) &&
    !(one mv .running).mapHeld mv && ({ one mv .running with fab := { sL.fab with draining := true } } : State).mapHeld mv && !(noL1 (one mv .dormant)).mapHeld mv &&
    decide (mv.graceAt.toNat ≤ ((one mv .running).launchCyc mv).toNat) && (one mv .running).movers mv == [0] && !(one mv .running).frozen 0 &&
    ((one mv .running).slotAt 0 0).run == .running && lL.moving.isNone && (one mv .dormant).members 1 == [0, 1] && !((one mv .dormant).core 0).noL1 &&
    ((noL1 (one mv .dormant)).members 1).all (fun c => ((noL1 (one mv .dormant)).core c).noL1) && (noL1 (one mv .dormant)).idleMovers ((noL1 (one mv .dormant)).movers mv) &&
    found nar && nar.narrowBy == some 9 && (one nar .dormant).launches.all (fun x => x.lid != 9) && nar.live != nar.whole && (one nar .dormant).rectFree nar.lid nar.rect &&
    lL.narrowBy.isNone) = true := by decide +kernel

/-! ## Erasure, recovery, time, power, the host -/

/-- Group 0, of this package and five others, with its data at VA 0 and its parity at VA 0x20000000; VA 0 to 64 GiB maps physical 0 as ERASE. -/
def sEg (f : Fabric → Fabric) : State :=
  { sPT with fab := f sPT.fab, mem := [(hbmKey 0, 1), (hbmKey 3, 0x80), (hbmKey 17, 0x40), (hbmKey 27, 0x20), (hbmKey 34, 5), (hbmKey 36, 6), (hbmKey 38, 7),
    (hbmKey 40, 8), (hbmKey 42, 9), (hbmKey 0x100000, 0x33), (hbmKey 0x100006, 0x80)] }
def isLeaf : WalkRes → Bool
  | .leaf _ _ _ => true
  | _ => false
def peersOf (l : List Nat) : List (Nat × W512 × BitVec 8) := l.map fun i => (i, 3, 0)

/-- A line that domain 1 write-protects. -/
theorem wit_DirectoryResults_protected : (let s : State := { sEg id with domains := [{ ctx := 0, did := 1, pres := [(ea0 0, 64, true)] }] }
    s.protLine 0 && s.dirTakes 1 && (s.dirGet 0).isNone && (s.transAt 0).isNone && !s.lineHeld 0 &&
    decide ((s.dirSet 0).length < 16) && decide (s.dir.trans.length < 4096)) = true := by
  decide +kernel

/-- A delta for a line that translates; a sync asked for while none runs and while one does, with a delta open and not; a line that HBM cannot
correct, with enough peers and without. -/
theorem wit_ErasureResults : (let s := sEg id
    let rq : Req := { stage := .fill, ea := ea0 0, pa := 0x40000, attr := { erase := true } }
    let sR : State := { withReq s rq with errs := [(cellKey 0x1000, true)] }
    let busy (d : List Delta) : State := { s with host := { s.host with esBusy := true, esRunAll := true, deltas := d } }
    (s.egEntry 0).valid && decide (0 < (s.egEntry 0).dlen) && !s.fab.fenced && isLeaf (s.walk 0 ((s.egEntry 0).pbase % 2 ^ 53)) &&
    isLeaf (s.walk 0 (((s.egEntry 0).pbase + (s.egEntry 0).dlen) % 2 ^ 53)) && (s.egEntry 0).ctx == 0 && (List.range 6).all (fun m => !(s.mdie m).mig.busy) && s.host.pfstage != 3 && (sEg fun f => { f with fenced := true }).fab.fenced &&
    !s.host.esBusy && (busy []).host.esBusy && !(busy []).syncOpen (busy []).host.syncs &&
    (sR.reqs.find? fun r => r.stage == .fill && r.pa / 64 == 0x40000 / 64 && r.attr.erase) == some { rq with id := 5 } && sR.errs.contains (cellKey 0x1000, true) &&
    (sR.egPlace 0 (fld (ea0 0) 6 47)).any (fun p => p.2 == 0 && (reconstruct p.1.scheme 0 (peersOf [1, 2, 3, 4])).isSome && (reconstruct p.1.scheme 0 []).isNone)) = true := by
  decide +kernel

theorem wit_RecoveryResults : (let heard (t q : W64) (f : List Nat) : State := { s0 with reft := t, fab := { s0.fab with heard := [(961, q)], silent := f } }
    let lostPkg (l : List DieRef) : State := { s0 with fab := { s0.fab with lost := l } }
    let gone : State := { s0.setDie 3 { s0.die 3 with gone := true } with cores := [], clusters := [] }
    s0.owls && !(lostPkg [.vdie]).owls && s0.neighbours.contains 961 && decide (1000000 ≤ (heard 1000000 0 []).quietFor 961) && !(heard 1000000 0 []).fab.silent.contains 961 &&
    decide ((heard 999999 0 []).quietFor 961 < 1000000) && !s0.fab.fenced && s0.neighbours.all (fun p => decide (2000000 ≤ (heard 2000000 0 []).quietFor p)) &&
    decide ((heard 2000000 1 []).quietFor 961 < 2000000) && s0.declarable .vdie [961, 962] && !s0.halted && !s0.fab.lost.contains .vdie && s0.declarable (.cdie 3) [961, 962] &&
    !s0.declarable .vdie [961] && (lostPkg [.vdie]).fab.lost.contains .vdie && s0.launches.isEmpty && (gone.die 3).gone && (vget gone.fab.map 3 0).toNat == 3 &&
    !gone.fab.draining && !gone.fab.lost.contains (.cdie 3) && !(s0.die 3).gone) = true := by decide +kernel

theorem wit_TimeAndPowerResults : (let die (d : Die) : State := s0.setDie 3 d
    let at_ (n : W64) : State := { s0 with reft := n }
    let pw (p : Power) : State := { s0 with power := p }
    decide (s0.reftNext.toNat ≤ s0.reft.toNat) && s0.reftAdj.isNone && decide (({ s0 with reftNext := 1 } : State).reft.toNat < ({ s0 with reftNext := 1 } : State).reftNext.toNat) &&
    (s0.die 3).running && (s0.die 3).code == s0.codeFor 3 && (die { ceil := 7 }).codeFor 3 == 7 && ((die { ceil := 7 }).die 3).code == 8 &&
    !((die { running := false }).die 3).running && decide (2000 ≤ ((2000 : W64) - (0 : W64)).toNat) && ((at_ 1999).reft - (s0.die 3).stopAt).toNat == 1999 &&
    decide (s0.power.evalAt.toNat ≤ s0.reft.toNat) && !s0.host.off && s0.host.pfstage != 1 && decide (s0.reft.toNat < (pw { evalAt := 1 }).power.evalAt.toNat) &&
    decide ((s0.power.temp 3) ≤ 25600) && (List.range 27).all (fun d => decide (s0.power.temp d < 24320)) && decide ((25601 : BitVec 16).toInt > 25600) &&
    decide ((28161 : BitVec 16).toInt > 28160) && isEvent 0 3) = true := by decide +kernel

theorem wit_HostResults : (let h (f : HostSt → HostSt) : State := { s0 with host := f s0.host }
    !s0.host.off && s0.host.pfstage == 0 && (h fun x => { x with pfstage := 1 }).reqs.isEmpty && (h fun x => { x with pfstage := 3 }).host.pfstage == 3 &&
    (h fun x => { x with drained := some {}, pfvalid := true }).host.pfvalid && !s0.host.pfvalid && (h fun x => { x with off := true }).host.off &&
    (h fun x => { x with ready := true }).host.ready && (h fun x => { x with ready := false }).host.ready == false && memWf s0.mem &&
    !(vget s0.host.windows 0 (0, 0)).2.getLsbD 8 && (vget (h fun x => { x with windows := vset x.windows 0 (0, 0x100) }).host.windows 0 (0, 0)).2.getLsbD 8 &&
    !(s0.mdie 0).mig.busy) = true := by decide +kernel

/-! ## The machine as a whole -/

theorem wit_DecodeAndEncodeAgree : wellFormed (.add (fr 1 2 4 0 3 0 0)) = true ∧ (decode true (encode (.add (fr 1 2 4 0 3 0 0)) ++ [])).isOk = true := by decide +kernel

/-- ADD at the PC of slot 0 of core 0, an undefined word there, and each input of the agenda. -/
def sCode (bs : List Byte) : State := s0.lmWrite 0 0 bs
theorem wit_StepRunsDecodedInstruction : (let s := sCode (encode (.add (fr 5 6 7 0 0 0 0)) ++ encode (.add (fr 1 2 4 0 3 0 0)))
    s.agenda.isEmpty && slotExists s.turn && s.canIssue s.turn.1 s.turn.2 && !formBad (rewriteEa s.pkg 0 s.cur.pc) &&
    (match placeOf (rewriteEa s.pkg 0 s.cur.pc) with
      | .localMem none core self _ off => (if self then 0 else s.memberCid (s.lidOf 0) core) == 0 && off == 0
      | _ => false) && decide (s.cur.pc.toNat % 32 ≤ 16) &&
    [8, 12, 16].all (fun n => (capCheck s.cur.pcc s.cur.pccTag s.cur.pc.toNat n pEXEC [0]).isNone) && !errIn s.errs (lmKey 0 0) 16 8 true &&
    !s.overdue 0 0 && (s.launchOf 0).all (fun l => (l.codeBytes (rewriteEa s.pkg 0 s.cur.pc) 4).isNone && (l.fetchedBytes 0 (rewriteEa s.pkg 0 s.cur.pc) 4).isNone) &&
    (lengthOf (((s.lmRead 0 0 4).headD 0).extractLsb' 0 2)).isSome && (lengthOf ((((sCode [0x03]).lmRead 0 0 4).headD 0).extractLsb' 0 2)).isNone &&
    (decode false (s.lmRead 0 0 8)).isOk && !(decode false ((sCode [0xA0, 0x03]).lmRead 0 0 8)).isOk && (lengthOf (((sCode [0xA0, 0x03]).lmRead 0 0 4).headD 0 |>.extractLsb' 0 2) == some 8) && (decode false (s.lmRead 0 0 16)).isOk && (pcBreak (s.core 0) 0 s.cur.pc).isNone && !(decode false ((sCode [0x03]).lmRead 0 0 16)).isOk &&
    ({ s with agenda := [.issue 0 4] } : State).agenda == [.issue 0 4] && !slotExists (0, 4) && !State.reset.canIssue State.reset.turn.1 State.reset.turn.2 &&
    (State.reset.endCheck State.reset.turn.1 State.reset.turn.2).isNone) = true := by decide +kernel

/-- Reset's memory is canonical, and the first step from reset answers a next state. -/
theorem wit_MemoryStaysCanonical : State.reset.wf = true ∧ (match step State.reset with
    | .next _ => true
    | _ => false) = true := by decide +kernel

theorem wit_ResetState : coreExists 0 = true ∧ coreExists 65535 = true ∧ coreExists svcBase = true ∧ coreExists (65536 * 65537) = false := by decide +kernel

/-- A core that runs, one frozen, and one frozen with a store fault queued. -/
theorem wit_ExceptionEntryAndReturn : (let s (f : Bool) (q : List SfqRec) : State := sL.modCore 0 fun c => { c with frz := { frozen := f }, sfq := q }
    !(s false []).frozen 0 && isSvc 0 == false && (s true []).frozen 0 && ((s true []).core 0).frz.frozen && ((s true []).core 0).sfq.isEmpty &&
    !((s true [{}]).core 0).sfq.isEmpty && !((s false []).core 0).frz.frozen &&
    (packFields 512 [(256, 64, 5)]).extractLsb' 256 64 != (s true []).reft) = true := by decide +kernel

/-- R426, R450: a store fault reported in the tick of a precise fault sets the record's SFQ flag and leaves its cause; ENGINE_LOST in the
tick of a store fault takes the record. -/
theorem test_one_cycle : (let s := (sL.preciseFault 0 1 { cause := cTRAP }).storeFault 0 2 8 8 sfPERM
    let u := (sL.storeFault 0 2 8 8 sfPERM).freeze 0 0 { cause := cENGINE_LOST }
    fld (s.core 0).faultRec 192 8 == cTRAP && fld (s.core 0).faultRec 226 1 == 1 && (s.core 0).frz.nested && s.fpkts.length == sL.fpkts.length + 1 &&
    fld (u.core 0).faultRec 192 8 == cENGINE_LOST && u.fpkts.any (fun p => fld p.2 160 8 == cENGINE_LOST) && u.fpkts.all (fun p => fld p.2 160 8 != cSTORE)) = true := by
  decide +kernel

theorem wit_MemoryReadsWhatWasWritten : s0.wf = true ∧ s0.tags.Pairwise (· < ·) ∧ lmKey 0 0x100 ≤ lmKey 0 0x101 ∧ lmKey 0 0x101 < lmKey 0 0x100 + 2 := by decide +kernel

/-! ## Ill-formed instructions, one for each check -/

/-- R78 to R81, R85: a field that the form does not use, OPT where it has no meaning, a reserved RM, a reserved TYPE, a SUB that is not zero, a
vector register beyond v31, a stream beyond s3, an offset beyond its range; and an event, which has no encoding. -/
theorem test_ill_formed : ([.add (fr 5 6 7 1 0 0 0), .add (fr 5 6 7 0 0x400 0 0), .add (fr 5 6 7 0 0xC3 0 0), .add (fr 5 6 7 0 0x1F 0 0),
    .fadd (fr 5 6 7 0 0x00B 1 0), .vadd (fr 40 1 2 0 0x0B 0 0), .sbind (fr 4 6 7 0 0 0 0), .loop (fi 0 2 0xFFFFFFFF 0 0), .schedulingPass] : List Instr).all
    (fun i => !wellFormed i) = true := by decide +kernel

/-! ## The spec's worked examples -/

def after (i : Instr) (s : State) : State := match exec i s with
  | .next t => t
  | _ => s
/-- What g[d] of the slot holds after one instruction on these g registers. -/
def g64After (i : Instr) (g : List (Nat × GReg)) (d : RegNo) : W64 := (after i (stG g)).cur.g64 d
def neg32 (x : Int) : Nat := truncI 32 x

/-- R105's example: the carry out, the low word, the high word. -/
theorem test_addc : (g64After (.addc (fr 10 4 6 0 0x400 0 0)) [(4, num (2 ^ 64 - 1)), (6, num 1)] 10 == 1 &&
    g64After (.addc (fr 8 4 6 0 0 0 0)) [(4, num (2 ^ 64 - 1)), (6, num 1)] 8 == 0 &&
    g64After (.addc (fr 9 5 7 10 0 0 0)) [(5, num 1), (7, num 2), (10, num 1)] 9 == 4) = true := by decide +kernel

/-- The table of R107. -/
theorem test_div : (g64After (.div (fr 1 2 3 0 3 0 0)) [(2, num 7)] 1 == 0xFFFFFFFFFFFFFFFF && g64After (.div (fr 1 2 3 0 7 0 0)) [(2, num 7)] 1 == 0xFFFFFFFF &&
    g64After (.div (fr 1 2 3 0 3 0 0)) [(2, num (neg32 (-2 ^ 31))), (3, num (neg32 (-1)))] 1 == 0xFFFFFFFF80000000 &&
    g64After (.div (fr 1 2 3 0 0 0 0)) [(2, num (truncI 64 (-7))), (3, num 2)] 1 == 0xFFFFFFFFFFFFFFFD) = true := by decide +kernel
theorem test_rem : (g64After (.rem (fr 1 2 3 0 3 0 0)) [(2, num 7)] 1 == 7 &&
    g64After (.rem (fr 1 2 3 0 3 0 0)) [(2, num (neg32 (-2 ^ 31))), (3, num (neg32 (-1)))] 1 == 0 &&
    g64After (.rem (fr 1 2 3 0 0 0 0)) [(2, num (truncI 64 (-7))), (3, num 2)] 1 == 0xFFFFFFFFFFFFFFFF) = true := by decide +kernel

/-- R116's example: inexact without `.round`; with it, E = 1, B = 0x91A2B and T = 0x11A2C. -/
theorem test_cbound : (let c : W128 := mkCap 0 (capEncode 0 0x1000000).1 (capEncode 0 0x1000000).2.1 (capEncode 0 0x1000000).2.2.1 0x7FF 0x123457
    capDecode c == some (0, 0x1000000) && capEncode 0x123457 0x223458 == (1, 0x91A2B, 0x11A2C, false) &&
    (match cboundVal c 0x100001 false, cboundVal c 0x100001 true with
      | .error e, .ok n => e == 7 && capDecode n == some (0x123456, 0x223458)
      | _, _ => false)) = true := by decide +kernel

/-- R127's example: LOOP at 32, and B taken to LEND at 56. -/
theorem test_loop : (let s := (stG [(5, num 100)]).modSlot 0 0 fun sl => { sl with pc := 32 }
    (after (.loop (fi 0 5 10 0 0)) s).cur.loop == { lact := true, lstart := 40, lend := 72, lcnt := 100 }) = true := by decide +kernel

/-- The table of R61: BF16, FP16, E4M3, E4M3 `.sat` and E5M2 under RNE. -/
theorem test_narrow : (let codes (x : Nat) : List Nat := [(0xD, false), (0xC, false), (0xE, false), (0xE, true), (0xF, false)].map fun p =>
      (roundF p.1 0 false p.2 0 (decodeF 0xB x)).bits
    [codes 0x3F800000, codes 0x3DCCCCCD, codes 0x43960000, codes 0x43FA0000, codes 0x3A83126F, codes 0xFF800000, codes 0x7FC00001]) =
    [[0x3F80, 0x3C00, 0x38, 0x38, 0x3C], [0x3DCD, 0x2E66, 0x1D, 0x1D, 0x2E], [0x4396, 0x5CB0, 0x79, 0x79, 0x5D], [0x43FA, 0x5FD0, 0x7F, 0x7E, 0x60],
     [0x3A83, 0x1419, 0x01, 0x01, 0x14], [0xFF80, 0xFC00, 0x7F, 0xFE, 0xFC], [0x7FC0, 0x7E00, 0x7F, 0x7F, 0x7E]] := by decide +kernel

/-- R65's example: 5.0, 2.6, −1.0, 0.7 and zeros. -/
theorem test_quantise : (quantise 0x12 false ([0x40A00000, 0x40266666, 0xBF800000, 0x3F333333].map (decodeF 0xB) ++ List.replicate 28 (decodeF 0xB 0))).1 =
    [0x78, 0x3C, 0, 0, 0, 0, 0, 0, 0, 0, 0, 0, 0, 0, 0, 0, 0x7E, 0x52] := by decide +kernel

/-- R192's example: −1.0 fills words 5 to 9 in 5 cycles, and +1.0 clears them again. -/
theorem test_lacc : (match laccAddend (decodeF 0xB 0xBF800000), laccAddend (decodeF 0xB 0x3F800000) with
    | some x, some y => truncI 640 x == (2 ^ 320 - 1) * 2 ^ 320 && addCycles 0 x == 5 && addCycles (truncI 640 x) y == 5 && x + y == 0
    | _, _ => false) = true := by decide +kernel

/-- R255's example: a row written at 100,000 and again, when it has expired, at 141,000. -/
theorem test_ephemeral : (let c0 : Core := { lmb1 := 0x40000, lmb2 := 0x60000 }
    let c1 := writeRows c0 100000 0x40200 64
    let c2 := writeRows c1 141000 0x40280 8
    let row (c : Core) : Row := tblGetD c.rows 513 {}
    row c1 == { stamp := 1562, aged := false, stale := 0xFE } && !(row c1).expired? 140000 && (row c1).expired? 140040 &&
    row c2 == { stamp := 2203, aged := false, stale := 0xFB }) = true := by decide +kernel

/-- R301's program: bounded_add below its limit and above it. -/
theorem test_bounded_add : (let img : Image := { version := 1, logsize := 3, ops := [0x4000, 0x02005000, 0x04005008, 0x26080000, 0xA8D00005, 0xE0000000, 0xE1000001, 0xB1000022, 0x10C04000, 0xF0000000] }
    let run (m a : Nat) : RunRes := runImage img 0 (BitVec.ofNat 512 m) (BitVec.ofNat 512 (a + 100 * 2 ^ 64))
    (run 90 5).line == 95 && (run 90 5).ret == 90 + BitVec.twoPow 512 64 && (run 95 10).line == 95 && (run 95 10).ret == 95) = true := by decide +kernel

/-- R369's example: the job-queue window of cluster 48 of die 6. -/
theorem test_window : winEa (6 * 512 + 48) = 0xFFFF000000061800 := by decide +kernel

/-- R398's example: mode 3, two sectors, and mode 4 after the store into w7. -/
theorem test_hedgehog : (let d : W512 := packFields 512 [(0, 64, 0x7F0000001000), (128, 64, 0x7F0000001008), (192, 64, 0x7F0000000FF8), (320, 64, 0x7F0000001100), (384, 64, 0x7F0000001000)]
    let d2 : W512 := setFld d 448 64 0x7F0000010000
    hhChoose d true == (3, 2) && hhHeader d 3 == 0x000923 && hhPayload d 3 == [0x00007F0000001000, 0x00000100FFF80008] && hhChoose d2 true == (4, 4)) = true := by
  decide +kernel

/-- R457's example: the ports of package 0, and the path to package 32. -/
theorem test_topology : joined 0 32 = false ∧ middle 0 32 = 991 ∧ joined 0 991 = true ∧ joined 991 32 = true := by decide +kernel

/-- R490's example: P and Q of the three bytes, the deltas of the new byte, and members 0 and 2 from the others. -/
theorem test_erasure : (let d (l : List Nat) : List (Nat × List Nat) := l.mapIdx fun i x => (i, [x])
    let ds := [1, 2, 0x35, 0, 0, 0, 0, 0]
    let known : List (Nat × List Nat) := [(1, [2]), (3, [0]), (4, [0]), (5, [0]), (6, [0]), (7, [0]), (8, [0x59]), (9, [0x70])]
    sumP (d ds) [0] == [0x36] && sumQ (d ds) [0] == [0xD1] && Nat.xor 0x36 (deltaByte false 2 0x6F) == 0x59 && Nat.xor 0xD1 (deltaByte true 2 0x6F) == 0x70 &&
    solveMember 8 2 known 1 == some [0x5A] && solveMember 8 0 known 1 == some [1]) = true := by decide +kernel

/-- R447's example: the periods of the six evaluations. -/
theorem test_sink : (let next (f cur : Nat) : Nat :=
      let s : State := { State.reset with host := { State.reset.host with sinks := [(0, { tsb := 10, head := BitVec.ofNat 32 f, cur := BitVec.ofNat 5 cur })] } }
      ((after (.sinkEvaluate 0) s).sink 0).cur.toNat
    [next 700 10, next 790 10, next 900 11, next 200 12, next 240 11, next 150 10]) = [10, 11, 12, 11, 10, 10] := by decide +kernel

/-- ADD placed by `withFetchWord` after reset runs as the first instruction. -/
theorem test_withFetchWord : (match step (State.reset.withFetchWord 64 0x0000000001C61404) with
    | .next t => t.cur.pc == selfAlias 8
    | _ => false) = true := by decide +kernel

end Sys2Proof.Tests
end

section
/-! The scalar instructions: an `execReg` meaning that raises no fault retires with the slot its body gives; the integer reading
and delivery of R100 as machine words; and from them the sums, logic operations and shifts. -/
namespace Sys2Proof.Machine

/-! ## A scalar meaning where it executes -/

/-- It is enough to know the body at the slot where its effect begins. -/
theorem acts_of_execReg_begun {s : State} {x : Instr} {i : Ins} {u : Uses} {vec : Bool} {w : BitVec 10}
    {body : Slot → Except Trap Slot} {put : Slot → Slot} (hx : exec x s = execReg i u vec w body s)
    (hb : body (s.begun i u w) = .ok (put (s.begun i u w))) : s.acts x i u vec w put := by
  intro h
  rw [hx, execReg_acts w body h, hb]

theorem acts_of_execReg {s : State} {x : Instr} {i : Ins} {u : Uses} {vec : Bool} {w : BitVec 10} {f put : Slot → Slot}
    (hx : exec x s = execReg i u vec w (fun sl => .ok (f sl)) s) (hf : f (s.begun i u w) = put (s.begun i u w)) :
    s.acts x i u vec w put :=
  acts_of_execReg_begun hx (congrArg Except.ok hf)

theorem putsG_of_execReg {s : State} {x : Instr} {i : Ins} {us : List RegNo} {w : BitVec 10} {f v : Slot → Nat}
    (hx : exec x s = execReg i { g := us, dg := [i.d] } false w (fun sl => .ok (sl.putG i.d (f sl))) s)
    (hv : f (s.begun i { g := us, dg := [i.d] } w) = v (s.begun i { g := us, dg := [i.d] } w)) : s.putsG x i us w v :=
  acts_of_execReg hx (congrArg (Slot.putG _ i.d) hv)

theorem putsG_of_intOp {s : State} {x : Instr} {i : Ins} {us : List RegNo} {f : Slot → Int} {v : Slot → Nat}
    (hx : exec x s = intOp i us f s) (hv : ∀ sl, intRes i.ty (f sl) = v sl) : s.putsG x i us (intWarn i) v :=
  putsG_of_execReg hx (hv _)

theorem putsG_of_intOp2 {s : State} {x : Instr} {i : Ins} {f : Nat → Int → Int → Int} {v : Slot → Nat}
    (hx : exec x s = intOp2 i f s) (hv : ∀ sl, intRes i.ty (f i.ty (srcX i sl) (srcY i sl)) = v sl) :
    s.putsG x i (usesAB i) (intWarn i) v :=
  putsG_of_intOp hx hv

/-! ## Reading a source and delivering a result (R22, R100) -/

theorem truncI_eq_toNat_ofInt (n : Nat) (v : Int) : truncI n v = (BitVec.ofInt n v).toNat := by
  simp [truncI, BitVec.toNat_ofInt]

theorem sextN_eq_toInt_ofNat (n x : Nat) : sextN n x = (BitVec.ofNat n x).toInt := by
  cases n with
  | zero => simp [sextN, Nat.mod_one, BitVec.of_length_zero]
  | succ n =>
    have hz : (2 : Int) ^ (n + 1) = ((2 * 2 ^ n : Nat) : Int) := by
      rw [← Nat.pow_succ', Int.natCast_pow]; rfl
    simp only [sextN, BitVec.toInt_eq_toNat_cond, BitVec.toNat_ofNat, hz, Nat.pow_succ', Nat.add_sub_cancel, Nat.zero_lt_succ,
      decide_true, Bool.true_and, decide_eq_true_eq]
    split <;> split <;> omega

theorem truncI_sextN (n x : Nat) : truncI n (sextN n x) = x % 2 ^ n := by
  rw [truncI_eq_toNat_ofInt, sextN_eq_toInt_ofNat, BitVec.ofInt_toInt, BitVec.toNat_ofNat]

theorem truncI_natCast (n x : Nat) : truncI n (x : Int) = x % 2 ^ n := by
  rw [truncI_eq_toNat_ofInt, BitVec.ofInt_natCast, BitVec.toNat_ofNat]

/-- The n-bit value of a source does not depend on the sign that its TYPE reads. -/
theorem truncI_intRead (t : Nat) (x : W64) : truncI (intWidth t) (intRead t x) = x.toNat % 2 ^ intWidth t := by
  unfold intRead
  split
  · exact truncI_sextN ..
  · rw [truncI_natCast, Nat.mod_mod]

theorem truncI_srcX (i : Ins) (sl : Slot) : truncI (intWidth i.ty) (srcX i sl) = rawX i sl := truncI_intRead ..
theorem truncI_srcY (i : Ins) (sl : Slot) : truncI (intWidth i.ty) (srcY i sl) = rawY i sl := truncI_intRead ..

theorem intRes_of_signed {t : Nat} (h : intSigned t = true) (v : Int) :
    intRes t v = ((BitVec.ofInt (intWidth t) v).signExtend 64).toNat := by
  simp only [intRes, h, ↓reduceIte, truncI_eq_toNat_ofInt, sextN_eq_toInt_ofNat, BitVec.ofNat_toNat, BitVec.setWidth_eq]
  rfl

theorem intRead_of_signed {t : Nat} (h : intSigned t = true) (x : W64) : intRead t x = (x.setWidth (intWidth t)).toInt := by
  simp only [intRead, h, ↓reduceIte, sextN_eq_toInt_ofNat, BitVec.ofNat_toNat]

theorem intRes_of_unsigned {t : Nat} (h : intSigned t = false) (hn : intWidth t ≤ 64) (v : Int) :
    intRes t v = ((BitVec.ofInt (intWidth t) v).zeroExtend 64).toNat := by
  have hv : (BitVec.ofInt (intWidth t) v).toNat < 2 ^ 64 :=
    Nat.lt_of_lt_of_le (BitVec.isLt _) (Nat.pow_le_pow_right (by decide) hn)
  simp only [intRes, h, Bool.false_eq_true, ↓reduceIte, truncI_eq_toNat_ofInt, BitVec.zeroExtend, BitVec.toNat_setWidth,
    Nat.mod_eq_of_lt hv]

theorem intRead_of_unsigned {t : Nat} (h : intSigned t = false) (x : W64) : intRead t x = (x.setWidth (intWidth t)).toNat := by
  simp only [intRead, h, Bool.false_eq_true, ↓reduceIte, BitVec.toNat_setWidth]

/-- The operation width of an integer TYPE (R80). -/
theorem intWidth_of_integer {t : Nat} (h : t ≤ 8) : intWidth t = 8 ∨ intWidth t = 16 ∨ intWidth t = 32 ∨ intWidth t = 64 := by
  have all : ∀ t < 9, intWidth t = 8 ∨ intWidth t = 16 ∨ intWidth t = 32 ∨ intWidth t = 64 := by decide
  exact all t (Nat.lt_succ_of_le h)

/-! ## Sums and logic (R104, R106, R108) -/

theorem minI_eq_min (t : Nat) (x y : Int) : minI t x y = min x y := by
  unfold minI; split <;> omega

theorem maxI_eq_max (t : Nat) (x y : Int) : maxI t x y = max x y := by
  unfold maxI; split <;> omega

theorem ite_neg_eq_natAbs (x : Int) : (if 0 ≤ x then x else -x) = (x.natAbs : Int) := by
  split <;> omega

/-- A logic operation sees the n-bit values of its sources alone. -/
theorem logicI_srcs (g : Nat → Nat → Nat) (i : Ins) (sl : Slot) :
    logicI g i.ty (srcX i sl) (srcY i sl) = (g (rawX i sl) (rawY i sl) : Nat) := by
  simp only [logicI, truncI_srcX, truncI_srcY]

/-- Taking away the common bits is `and` with the complement. -/
theorem sub_and_eq_and_not {n : Nat} (x y : BitVec n) : x - (x &&& y) = x &&& ~~~y := by
  have hdisj : (x &&& ~~~y) &&& (x &&& y) = 0 := by ext j; cases h : y[j] <;> simp [h]
  have hjoin : x &&& ~~~y ||| x &&& y = x := by ext j; cases h : y[j] <;> simp [h]
  rw [BitVec.sub_eq_iff_eq_add, BitVec.add_eq_or_of_and_eq_zero _ _ hdisj, hjoin]

theorem sub_and_eq_and_compl {n x y : Nat} (hx : x < 2 ^ n) (hy : y < 2 ^ n) : x - (x &&& y) = x &&& (2 ^ n - 1 - y) := by
  have hle : BitVec.ofNat n x &&& BitVec.ofNat n y ≤ BitVec.ofNat n x := by
    rw [BitVec.le_def, BitVec.toNat_and]
    exact Nat.and_le_left
  have h := congrArg BitVec.toNat (sub_and_eq_and_not (BitVec.ofNat n x) (BitVec.ofNat n y))
  rw [BitVec.toNat_sub_of_le hle] at h
  simpa [Nat.mod_eq_of_lt hx, Nat.mod_eq_of_lt hy] using h

theorem rawX_lt (i : Ins) (sl : Slot) : rawX i sl < 2 ^ intWidth i.ty := Nat.mod_lt _ (Nat.two_pow_pos _)
theorem rawY_lt (i : Ins) (sl : Slot) : rawY i sl < 2 ^ intWidth i.ty := Nat.mod_lt _ (Nat.two_pow_pos _)

theorem andnI_srcs (i : Ins) (sl : Slot) :
    andnI i.ty (srcX i sl) (srcY i sl) = (rawX i sl &&& (2 ^ intWidth i.ty - 1 - rawY i sl) : Nat) := by
  rw [andnI, logicI_srcs, sub_and_eq_and_compl (rawX_lt i sl) (rawY_lt i sl)]

/-! ## Shifts and rotates (R109) -/

/-- A shift sees the n-bit value of source a and a count below n. -/
theorem shiftI_srcs (g : Nat → Nat → Nat → Int) (i : Ins) (sl : Slot) :
    shiftI g i.ty (srcX i sl) (srcY i sl) = g (intWidth i.ty) (rawX i sl) (rawY i sl % intWidth i.ty) := by
  simp only [shiftI, truncI_srcX, truncI_srcY]

theorem shlI_srcs (i : Ins) (sl : Slot) :
    shlI i.ty (srcX i sl) (srcY i sl) = (rawX i sl * 2 ^ (rawY i sl % intWidth i.ty) : Nat) := by
  rw [shlI, shiftI_srcs, Nat.shiftLeft_eq]

theorem shrI_srcs (i : Ins) (sl : Slot) :
    shrI i.ty (srcX i sl) (srcY i sl) = (rawX i sl / 2 ^ (rawY i sl % intWidth i.ty) : Nat) := by
  rw [shrI, shiftI_srcs, Nat.shiftRight_eq_div_pow]

theorem sarI_srcs (i : Ins) (sl : Slot) : sarI i.ty (srcX i sl) (srcY i sl) =
    (BitVec.ofNat (intWidth i.ty) (rawX i sl)).toInt / 2 ^ (rawY i sl % intWidth i.ty) := by
  rw [sarI, shiftI_srcs, sextN_eq_toInt_ofNat]

theorem rolI_srcs (i : Ins) (sl : Slot) : rolI i.ty (srcX i sl) (srcY i sl) =
    (((BitVec.ofNat (intWidth i.ty) (rawX i sl)).rotateLeft (rawY i sl % intWidth i.ty)).toNat : Int) := by
  rw [rolI, shiftI_srcs, BitVec.toNat_rotateLeft, BitVec.toNat_ofNat, Nat.mod_eq_of_lt (rawX_lt i sl), Nat.mod_mod]

theorem rorI_srcs (i : Ins) (sl : Slot) : rorI i.ty (srcX i sl) (srcY i sl) =
    (((BitVec.ofNat (intWidth i.ty) (rawX i sl)).rotateRight (rawY i sl % intWidth i.ty)).toNat : Int) := by
  rw [rorI, shiftI_srcs, BitVec.toNat_rotateRight, BitVec.toNat_ofNat, Nat.mod_eq_of_lt (rawX_lt i sl), Nat.mod_mod]

/-! ## The statements -/

/-- Settles O1: each meaning delivers its operation on the sources as read; reading and delivering are conversions of n-bit words. -/
theorem integerArithmeticResults : Obligations.IntegerArithmeticResults := by
  unfold Obligations.IntegerArithmeticResults
  refine ⟨fun s => ⟨?add, ?addi, ?addi96, ?addi128, ?sub, ?mul, ?neg, ?abs, ?min, ?min96, ?max, ?max96⟩, ?words⟩
  case add | addi | addi96 | addi128 | sub | mul => exact fun _ => putsG_of_intOp2 rfl fun _ => rfl
  case neg => exact fun _ => putsG_of_intOp rfl fun _ => rfl
  case abs => exact fun _ => putsG_of_intOp rfl fun _ => congrArg (intRes _) (ite_neg_eq_natAbs _)
  case min | min96 => exact fun _ => putsG_of_intOp2 rfl fun _ => congrArg (intRes _) (minI_eq_min ..)
  case max | max96 => exact fun _ => putsG_of_intOp2 rfl fun _ => congrArg (intRes _) (maxI_eq_max ..)
  case words =>
    intro t v x ht
    have hn := intWidth_of_integer ht
    exact ⟨hn, fun h => ⟨intRes_of_signed h v, intRead_of_signed h x⟩,
      fun h => ⟨intRes_of_unsigned h (by omega) v, intRead_of_unsigned h x⟩⟩

/-- Settles O2: logic operations and shifts see the n-bit values of their sources alone, and rotates are those of n-bit words. -/
theorem logicAndShiftResults : Obligations.LogicAndShiftResults := by
  unfold Obligations.LogicAndShiftResults
  constructor
  · have logic (s : State) {x : Instr} {i : Ins} (g : Nat → Nat → Nat) (hx : exec x s = intOp2 i (logicI g) s) :=
      putsG_of_intOp2 hx fun sl => congrArg (intRes i.ty) (logicI_srcs g i sl)
    refine fun s => ⟨fun _ => logic s _ rfl, fun _ => logic s _ rfl, fun _ => logic s _ rfl, fun _ => logic s _ rfl,
      fun _ => logic s _ rfl, fun _ => logic s _ rfl, ?andn, ?orn⟩
    case andn => exact fun _ => putsG_of_intOp2 rfl fun _ => congrArg (intRes _) (andnI_srcs ..)
    case orn => exact fun _ => putsG_of_intOp2 rfl fun _ => congrArg (intRes _) (logicI_srcs ..)
  · intro s
    refine ⟨?shl, ?shl96, ?shr, ?shr96, ?sar, ?sar96, ?rol, ?rol96, ?ror, ?ror96⟩
    case shl | shl96 => exact fun _ => putsG_of_intOp2 rfl fun _ => congrArg (intRes _) (shlI_srcs ..)
    case shr | shr96 => exact fun _ => putsG_of_intOp2 rfl fun _ => congrArg (intRes _) (shrI_srcs ..)
    case sar | sar96 => exact fun _ => putsG_of_intOp2 rfl fun _ => congrArg (intRes _) (sarI_srcs ..)
    case rol | rol96 => exact fun _ => putsG_of_intOp2 rfl fun _ => congrArg (intRes _) (rolI_srcs ..)
    case ror | ror96 => exact fun _ => putsG_of_intOp2 rfl fun _ => congrArg (intRes _) (rorI_srcs ..)

end Sys2Proof.Machine
end

section
/-! Bit counts, bit and byte reversals, fields, carries and division (R105, R107, R110, R111). -/
namespace Sys2Proof.Machine

/-! ## Counts and reversals of the bits of a value (R110) -/

theorem bitLen_le {n u : Nat} (h : u < 2 ^ n) : bitLen u ≤ n := by
  unfold bitLen
  split
  · exact Nat.zero_le n
  · next hu => exact (Nat.log2_lt (by simpa using hu)).2 h

theorem testBit_of_bitLen_le {u j : Nat} (h : bitLen u ≤ j) : u.testBit j = false := by
  by_cases hu : u = 0
  · simp [hu]
  · rw [bitLen, if_neg (by simpa using hu)] at h
    exact Nat.testBit_lt_two_pow ((Nat.log2_lt hu).1 h)

theorem testBit_bitLen_sub_one {u : Nat} (h : 0 < bitLen u) : u.testBit (bitLen u - 1) = true := by
  by_cases hu : u = 0
  · simp [hu, bitLen] at h
  · rw [bitLen, if_neg (by simpa using hu), Nat.add_sub_cancel]
    exact Nat.testBit_log2 hu

theorem trailZ_le (n u : Nat) : trailZ n u ≤ n := by
  induction n generalizing u with
  | zero => exact Nat.le_refl 0
  | succ n ih =>
    unfold trailZ
    split
    · exact Nat.zero_le _
    · have := ih (u / 2); omega

theorem testBit_of_lt_trailZ {n u j : Nat} (h : j < trailZ n u) : u.testBit j = false := by
  induction n generalizing u j with
  | zero => exact absurd h (Nat.not_lt_zero j)
  | succ n ih =>
    by_cases hu : u % 2 = 1
    · simp [trailZ, hu] at h
    · simp only [trailZ, beq_iff_eq, hu, ↓reduceIte] at h
      cases j with
      | zero => simp [Nat.testBit_zero, hu]
      | succ j => rw [Nat.testBit_add_one]; exact ih (by omega)

theorem testBit_trailZ {n u : Nat} (h : trailZ n u < n) : u.testBit (trailZ n u) = true := by
  induction n generalizing u with
  | zero => exact absurd h (Nat.not_lt_zero _)
  | succ n ih =>
    by_cases hu : u % 2 = 1
    · simp [trailZ, hu]
    · simp only [trailZ, beq_iff_eq, hu, ↓reduceIte] at h ⊢
      rw [Nat.add_comm 1, Nat.testBit_add_one]
      exact ih (by omega)

theorem popCount_eq_length_filter (n u : Nat) : popCount n u = ((List.range n).filter u.testBit).length := by
  induction n generalizing u with
  | zero => rfl
  | succ n ih =>
    have hsucc : u.testBit ∘ Nat.succ = (u / 2).testBit := by
      funext j
      exact Nat.testBit_add_one u j
    rw [popCount, ih, List.range_succ_eq_map, List.filter_cons, List.filter_map, hsucc, Nat.testBit_zero]
    rcases Nat.mod_two_eq_zero_or_one u with h | h <;> simp [h, Nat.add_comm]

theorem revBits_lt (n u : Nat) : revBits n u < 2 ^ n := by
  induction n generalizing u with
  | zero => exact Nat.one_pos
  | succ n ih =>
    have hb : u % 2 * 2 ^ n ≤ 1 * 2 ^ n := Nat.mul_le_mul_right _ (by omega)
    have := ih (u / 2)
    rw [revBits, Nat.pow_succ]
    omega

theorem testBit_revBits {n j : Nat} (u : Nat) (h : j < n) : (revBits n u).testBit j = u.testBit (n - 1 - j) := by
  induction n generalizing u with
  | zero => exact absurd h (Nat.not_lt_zero j)
  | succ n ih =>
    rw [revBits, Nat.mul_comm, Nat.testBit_two_pow_mul_add _ (revBits_lt n _)]
    by_cases hj : j < n
    · have e : n + 1 - 1 - j = n - 1 - j + 1 := by omega
      rw [if_pos hj, ih _ hj, e, Nat.testBit_add_one]
    · have e : j = n := by omega
      subst e
      simp

/-! ## Byte strings -/

theorem leNat_lt (bs : List Byte) : leNat bs < 256 ^ bs.length := by
  induction bs with
  | nil => decide
  | cons b bs ih =>
    have := b.isLt
    rw [leNat, List.length_cons, Nat.pow_succ]
    omega

theorem leBytes_length (n u : Nat) : (leBytes n u).length = n := by
  induction n generalizing u with
  | zero => rfl
  | succ n ih => rw [leBytes, List.length_cons, ih]

/-- Byte `j` of the value of a string. -/
theorem leNat_byte {bs : List Byte} {j : Nat} (h : j < bs.length) : leNat bs / 256 ^ j % 256 = (bs[j]).toNat := by
  induction bs generalizing j with
  | nil => exact absurd h (Nat.not_lt_zero j)
  | cons b bs ih =>
    have hb : b.toNat < 256 := b.isLt
    cases j with
    | zero => simp only [leNat, List.getElem_cons_zero]; omega
    | succ j =>
      have e : (b.toNat + 256 * leNat bs) / 256 = leNat bs := by omega
      rw [leNat, Nat.pow_succ', ← Nat.div_div_eq_div_mul, e, ih (by simpa using h), List.getElem_cons_succ]

theorem leBytes_byte {n u j : Nat} (h : j < (leBytes n u).length) : ((leBytes n u)[j]).toNat = u / 256 ^ j % 256 := by
  induction n generalizing u j with
  | zero => exact absurd h (Nat.not_lt_zero j)
  | succ n ih =>
    cases j with
    | zero => simp [leBytes]
    | succ j =>
      simp only [leBytes, List.getElem_cons_succ]
      rw [ih (by simpa [leBytes] using h), Nat.div_div_eq_div_mul, ← Nat.pow_succ']

theorem bswapN_lt {n : Nat} (h : n % 8 = 0) (u : Nat) : bswapN n u < 2 ^ n := by
  have hp : 2 ^ n = 256 ^ (n / 8) := by
    rw [show (256 : Nat) = 2 ^ 8 from rfl, ← Nat.pow_mul, Nat.mul_div_cancel' (Nat.dvd_of_mod_eq_zero h)]
  have hb := leNat_lt (leBytes (n / 8) u).reverse
  rw [List.length_reverse, leBytes_length] at hb
  rw [hp]
  exact hb

theorem bswapN_byte {n j : Nat} (u : Nat) (h : j < n / 8) : bswapN n u / 256 ^ j % 256 = u / 256 ^ (n / 8 - 1 - j) % 256 := by
  rw [bswapN, leNat_byte (by simpa [leBytes_length] using h), List.getElem_reverse, leBytes_byte, leBytes_length]

theorem intWidth_mod_eight (t : Nat) : intWidth t % 8 = 0 := Nat.mul_mod_right 8 _

section
variable {s : State} {x : Instr} {f : FR} {g : Nat → Nat → Nat}

/-- Source a of an instruction of opcode 0x17. -/
def bitsSrc (s : State) (i : Ins) : Nat := rawX i (s.begun i { g := [i.a], dg := [i.d] } (intWarn i))

/-- A count is delivered whatever the TYPE. -/
theorem putsG_of_countOp (hx : exec x s = bitsOp (insR f) true g s) :
    s.putsG x (insR f) [f.a] (intWarn (insR f)) fun _ => g (intWidth (insR f).ty) (bitsSrc s (insR f)) :=
  putsG_of_execReg hx rfl

/-- A permutation of bits is delivered as TYPE extends it. -/
theorem putsG_of_permuteOp (hx : exec x s = bitsOp (insR f) false g s) :
    s.putsG x (insR f) [f.a] (intWarn (insR f)) fun _ =>
      intRes (insR f).ty (g (intWidth (insR f).ty) (bitsSrc s (insR f)) : Nat) :=
  putsG_of_execReg hx rfl

end

/-! ## Fields (R111) -/

/-- Position and length of the field that a control word names. -/
def ctlPos (ctl : W64) : Nat := ctl.toNat % 64
def ctlLen (ctl : W64) : Nat := min (min (ctl.toNat / 256 % 128) 64) (64 - ctlPos ctl)

theorem ctlPos_add_ctlLen_le (ctl : W64) : ctlPos ctl + ctlLen ctl ≤ 64 := by
  unfold ctlLen ctlPos; omega

theorem bfCtl_eq (ctl : W64) : bfCtl ctl = (ctlPos ctl, ctlLen ctl, (2 ^ ctlLen ctl - 1) <<< ctlPos ctl) := by
  have hpos : fld ctl 0 6 = ctlPos ctl := rfl
  have hlen : (if 64 < ctlPos ctl + min (fld ctl 8 7) 64 then 64 - ctlPos ctl else min (fld ctl 8 7) 64) = ctlLen ctl := by
    have e : fld ctl 8 7 = ctl.toNat / 256 % 128 := by simp [fld, Nat.shiftRight_eq_div_pow]
    have : ctlPos ctl < 64 := Nat.mod_lt _ (by decide)
    rw [e, ctlLen]
    split <;> omega
  simp only [bfCtl, hpos, hlen]

theorem and_mask_shiftRight (x pos len : Nat) : (x &&& (2 ^ len - 1) <<< pos) >>> pos = x / 2 ^ pos % 2 ^ len := by
  rw [Nat.shiftRight_and_distrib, Nat.shiftLeft_shiftRight, Nat.and_two_pow_sub_one_eq_mod, Nat.shiftRight_eq_div_pow]

/-- The sign extension to 64 bits of a value of `len` bits. -/
theorem truncI_sextN_of_lt {len v : Nat} (hv : v < 2 ^ len) (hl : len ≤ 64) (h0 : 0 < len) :
    truncI 64 (sextN len v) = if v.testBit (len - 1) then v + 2 ^ 64 - 2 ^ len else v := by
  have hp : 2 ^ len ≤ 2 ^ 64 := Nat.pow_le_pow_right (by decide) hl
  have hmsb : (BitVec.ofNat len v).msb = v.testBit (len - 1) := by
    rw [BitVec.msb_eq_getLsbD_last, BitVec.getLsbD_ofNat, decide_eq_true (by omega), Bool.true_and]
  have hext : truncI 64 (sextN len v) = ((BitVec.ofNat len v).signExtend 64).toNat := by
    rw [truncI_eq_toNat_ofInt, sextN_eq_toInt_ofNat]
    rfl
  rw [hext, BitVec.toNat_signExtend, hmsb, BitVec.toNat_setWidth, BitVec.toNat_ofNat, Nat.mod_eq_of_lt hv,
    Nat.mod_eq_of_lt (by omega)]
  split <;> omega

/-- R111: the field of source a that the control word names, with its sign under TYPE `.s64`. -/
theorem bfxVal_eq (t : Nat) (x ctl : W64) :
    bfxVal t x ctl =
      let v := x.toNat / 2 ^ ctlPos ctl % 2 ^ ctlLen ctl
      if t = 4 ∧ v.testBit (ctlLen ctl - 1) = true then v + 2 ^ 64 - 2 ^ ctlLen ctl else v := by
  have hv : x.toNat / 2 ^ ctlPos ctl % 2 ^ ctlLen ctl < 2 ^ ctlLen ctl := Nat.mod_lt _ (Nat.two_pow_pos _)
  have hlen := ctlPos_add_ctlLen_le ctl
  simp only [bfxVal, bfCtl_eq, and_mask_shiftRight, Bool.and_eq_true, beq_iff_eq, decide_eq_true_eq]
  rcases Nat.eq_zero_or_pos (ctlLen ctl) with h0 | h0
  · simp [h0, Nat.mod_one]
  · rw [truncI_sextN_of_lt hv (by omega) h0]
    by_cases ht : t = 4 <;> simp [ht, h0]

theorem testBit_sub_and {n x y : Nat} (hx : x < 2 ^ n) (hy : y < 2 ^ n) (j : Nat) :
    (x - (x &&& y)).testBit j = (x.testBit j && !y.testBit j) := by
  rw [sub_and_eq_and_compl hx hy, Nat.testBit_and, Nat.sub_sub, Nat.add_comm 1 y, Nat.testBit_two_pow_sub_succ hy]
  by_cases hj : j < n
  · simp [hj]
  · simp [Nat.testBit_lt_two_pow (Nat.lt_of_lt_of_le hx (Nat.pow_le_pow_right (by decide) (Nat.le_of_not_lt hj)))]

theorem testBit_mask (len pos j : Nat) : ((2 ^ len - 1) <<< pos).testBit j = decide (pos ≤ j ∧ j < pos + len) := by
  rw [Nat.testBit_shiftLeft, Nat.testBit_two_pow_sub_one, ← Bool.decide_and]
  exact decide_eq_decide.2 (by omega)

theorem mask_lt {len pos n : Nat} (h : pos + len ≤ n) : (2 ^ len - 1) <<< pos < 2 ^ n :=
  Nat.lt_pow_two_of_testBit _ fun j hj => by rw [testBit_mask]; exact decide_eq_false (by omega)

/-- R111: source a with the field that the control word names replaced by the low bits of source b. -/
theorem testBit_bfiVal (x y ctl : W64) (j : Nat) :
    (bfiVal x y ctl).testBit j = if ctlPos ctl ≤ j ∧ j < ctlPos ctl + ctlLen ctl then y.getLsbD (j - ctlPos ctl) else x.getLsbD j := by
  simp only [bfiVal, bfCtl_eq]
  rw [Nat.testBit_or, testBit_sub_and x.isLt (mask_lt (ctlPos_add_ctlLen_le ctl)), Nat.testBit_and, testBit_mask,
    Nat.testBit_shiftLeft]
  by_cases h : ctlPos ctl ≤ j ∧ j < ctlPos ctl + ctlLen ctl
  · simp [h, BitVec.getLsbD]
  · simp [h, BitVec.getLsbD]

theorem bfMask_lt (ctl : W64) : (bfCtl ctl).2.2 < 2 ^ 64 := by
  rw [bfCtl_eq]
  exact mask_lt (ctlPos_add_ctlLen_le ctl)

theorem bfiVal_lt (x y ctl : W64) : bfiVal x y ctl < 2 ^ 64 :=
  Nat.or_lt_two_pow (Nat.lt_of_le_of_lt (Nat.sub_le ..) x.isLt)
    (Nat.lt_of_le_of_lt Nat.and_le_right (bfMask_lt ctl))

/-! ## Carries (R105) -/

theorem carryVal_add (t : Nat) (co : Bool) (x y w : Nat) :
    carryVal t false co x y w = if co then (x + y + w % 2) / 2 ^ intWidth t else (x + y + w % 2) % 2 ^ intWidth t := by
  have hsum : (x : Int) + y + (w % 2 : Nat) = ((x + y + w % 2 : Nat) : Int) := by push_cast; rfl
  have hdiv (a : Nat) : ((a : Int) / 2 ^ intWidth t).toNat = a / 2 ^ intWidth t := by
    exact_mod_cast Int.toNat_natCast (a / 2 ^ intWidth t)
  cases co
  · simp only [carryVal, Bool.false_eq_true, ↓reduceIte, Bool.not_false, hsum, truncI_natCast]
  · simp only [carryVal, Bool.false_eq_true, ↓reduceIte, Bool.not_true, hsum, hdiv]

theorem carryVal_sub (t : Nat) (co : Bool) {x y : Nat} (w : Nat) (hy : y < 2 ^ intWidth t) :
    carryVal t true co x y w =
      if co then (if x < y + w % 2 then 1 else 0) else (x + 2 ^ (intWidth t + 1) - y - w % 2) % 2 ^ intWidth t := by
  cases co
  · have hmod : (x : Int) - y - (w % 2 : Nat) =
        ((x + 2 ^ (intWidth t + 1) - y - w % 2 : Nat) : Int) - ((2 ^ intWidth t : Nat) : Int) * 2 := by
      rw [Nat.pow_succ]; omega
    have hpow : ((2 ^ intWidth t : Nat) : Int) = 2 ^ intWidth t := Int.natCast_pow ..
    have htrunc : truncI (intWidth t) ((x : Int) - y - (w % 2 : Nat)) =
        truncI (intWidth t) ((x + 2 ^ (intWidth t + 1) - y - w % 2 : Nat) : Int) := by
      rw [hmod, truncI, hpow, Int.sub_mul_emod_self_left, ← truncI]
    simp only [carryVal, Bool.false_eq_true, ↓reduceIte, Bool.not_false, htrunc, truncI_natCast]
  · have hlt : (x : Int) - y - (w % 2 : Nat) < 0 ↔ x < y + w % 2 := by omega
    simp only [carryVal, Bool.false_eq_true, ↓reduceIte, Bool.not_true, hlt]

/-! ## Division (R107) -/

theorem divRem_zero (t : Nat) (x : Int) {y : Int} (hy : y = 0) : divRem t x y = (2 ^ intWidth t - 1, x, true) := by
  subst hy; rfl

theorem divRem_overflow {t : Nat} {x y : Int} (ht : intSigned t = true) (hx : x = -2 ^ (intWidth t - 1)) (hy : y = -1) :
    divRem t x y = (x, 0, false) := by
  simp [divRem, ht, hx, hy]

theorem divRem_trunc {t : Nat} {x y : Int} (hy : y ≠ 0) (h : ¬(intSigned t = true ∧ x = -2 ^ (intWidth t - 1) ∧ y = -1)) :
    divRem t x y = (x.tdiv y, x.tmod y, false) := by
  have h' : (intSigned t && x == -(2 ^ (intWidth t - 1)) && y == -1) = false := by
    rw [Bool.eq_false_iff]
    intro hb
    simp only [Bool.and_eq_true, beq_iff_eq, and_assoc] at hb
    exact h hb
  simp only [divRem, beq_iff_eq, hy, ↓reduceIte, h', Bool.false_eq_true]

/-- The remainder of a division toward zero has the sign of the dividend. -/
theorem mul_tmod_nonneg (x y : Int) : 0 ≤ x * x.tmod y := by
  rcases Int.le_total 0 x with hx | hx
  · exact Int.mul_nonneg hx (Int.tmod_nonneg y hx)
  · have h : 0 ≤ -x * (-x).tmod y := Int.mul_nonneg (by omega) (Int.tmod_nonneg y (by omega))
    rwa [Int.neg_tmod, Int.neg_mul_neg] at h

/-- The quotient, the remainder and the zero divisor of a slot. -/
def slotDivRem (i : Ins) (sl : Slot) : Int × Int × Bool := divRem i.ty (srcX i sl) (srcY i sl)

theorem acts_of_divOp {s : State} {x : Instr} {f : FR} {rem : Bool} (hx : exec x s = divOp (insR f) rem s) :
    s.acts x (insR f) { g := [f.a, f.b], dg := [f.d] } false (intWarn (insR f)) fun sl =>
      let r := slotDivRem (insR f) sl
      (if r.2.2 then sl.addWarn wDIVZ else sl).putG f.d (intRes (insR f).ty (if rem then r.2.1 else r.1)) :=
  acts_of_execReg hx rfl

/-- DIV and REM deliver the quotient and the remainder, and warn of a zero divisor. -/
theorem acts_of_divRem {s : State} {f : FR} {q r : Int} {dz : Bool}
    (h : slotDivRem (insR f) (s.begun (insR f) { g := [f.a, f.b], dg := [f.d] } (intWarn (insR f))) = (q, r, dz)) :
    s.acts (.div f) (insR f) { g := [f.a, f.b], dg := [f.d] } false (intWarn (insR f))
      (fun sl => (if dz then sl.addWarn wDIVZ else sl).putG f.d (intRes (insR f).ty q)) ∧
    s.acts (.rem f) (insR f) { g := [f.a, f.b], dg := [f.d] } false (intWarn (insR f))
      (fun sl => (if dz then sl.addWarn wDIVZ else sl).putG f.d (intRes (insR f).ty r)) := by
  have act {x : Instr} {rem : Bool} (hx : exec x s = divOp (insR f) rem s) (hi : s.issues (insR f) { g := [f.a, f.b], dg := [f.d] } false = true) :=
    acts_of_divOp hx hi
  simp only [h] at act
  exact ⟨act (rem := false) rfl, act (rem := true) rfl⟩

theorem intRes_zero (t : Nat) : intRes t 0 = 0 := by
  simp [intRes, truncI, sextN]

/-! ## The statements -/

/-- Settles O3: the counts and reversals bit by bit, by induction on the width; the fields by the bits of their mask. -/
theorem bitCountAndFieldResults : Obligations.BitCountAndFieldResults := by
  unfold Obligations.BitCountAndFieldResults
  constructor
  · intro s f i n u
    have hu : u < 2 ^ n := rawX_lt ..
    refine ⟨?clz, ?ctz, ?popc, ?brev, ?bswap⟩
    case clz =>
      have hle := bitLen_le hu
      refine ⟨n - bitLen u, Nat.sub_le .., fun j _ hj => testBit_of_bitLen_le (by omega), fun hc => ?_,
        putsG_of_countOp (g := fun n u => n - bitLen u) rfl⟩
      rw [show n - 1 - (n - bitLen u) = bitLen u - 1 by omega]
      exact testBit_bitLen_sub_one (by omega)
    case ctz =>
      exact ⟨trailZ n u, trailZ_le n u, fun _ hj => testBit_of_lt_trailZ hj, testBit_trailZ, putsG_of_countOp rfl⟩
    case popc =>
      rw [← popCount_eq_length_filter]
      exact putsG_of_countOp rfl
    case brev => exact ⟨revBits n u, revBits_lt n u, fun _ hj => testBit_revBits u hj, putsG_of_permuteOp rfl⟩
    case bswap => exact ⟨bswapN n u, bswapN_lt (intWidth_mod_eight _) u, fun _ hj => bswapN_byte u hj, putsG_of_permuteOp rfl⟩
  · intro s f i pos len
    constructor
    · exact putsG_of_execReg rfl (bfxVal_eq ..)
    · refine ⟨fun sl => BitVec.ofNat 64 (bfiVal (sl.g64 f.a) (sl.g64 f.b) (sl.g64 f.c)), fun sl j hj => ?_,
        putsG_of_execReg rfl (BitVec.toNat_ofNat .. |>.trans (Nat.mod_eq_of_lt (bfiVal_lt ..))).symm⟩
      rw [BitVec.getLsbD_ofNat, decide_eq_true hj, Bool.true_and, testBit_bfiVal]
      rfl

/-- Settles O4: the carries by arithmetic modulo 2^n; the division by the three cases of `divRem`. -/
theorem carryAndDivisionResults : Obligations.CarryAndDivisionResults := by
  unfold Obligations.CarryAndDivisionResults
  constructor
  · intro s f i n rd cin
    have hrd (sl : Slot) (r : RegNo) : rd sl r < 2 ^ n := Nat.mod_lt _ (Nat.two_pow_pos _)
    exact ⟨putsG_of_execReg rfl (carryVal_add ..), putsG_of_execReg rfl (carryVal_sub _ _ _ (hrd _ f.b))⟩
  · intro s f i n u x y
    refine ⟨fun hy => ?_, fun _ ht hx hy => ?_, fun hy h => ?_⟩
    · exact acts_of_divRem (dz := true) (divRem_zero i.ty x hy)
    · have ⟨hdiv, hrem⟩ := acts_of_divRem (s := s) (dz := false) (divRem_overflow ht hx hy)
      rw [intRes_zero] at hrem
      exact ⟨hdiv, hrem⟩
    · refine ⟨x.tdiv y, x.tmod y, (Int.mul_tdiv_add_tmod x y).symm, ?_, mul_tmod_nonneg x y,
        acts_of_divRem (dz := false) (divRem_trunc hy h)⟩
      rw [Int.natAbs_tmod]
      exact Nat.mod_lt _ (Int.natAbs_pos.2 hy)

end Sys2Proof.Machine
end

section
/-! Comparison, moves and the capability instructions (R112 to R120). -/
namespace Sys2Proof.Machine

/-! ## Comparison and moves (R112, R113) -/

theorem acts_of_cmpOp {s : State} {x : Instr} {i : Ins} {r : BitVec 16} (hx : exec x s = cmpOp i s)
    (hr : let sl := s.begun i { g := usesAB i } (intWarn i)
      (if cmpHolds (fld i.sub 0 4) (intWidth i.ty) (rawX i sl) (rawY i sl) then 0xFFFF else 0) = r) :
    s.acts x i { g := usesAB i } false (intWarn i) fun sl => sl.writeP i.d.toNat r :=
  acts_of_execReg hx (congrArg (Slot.writeP _ i.d.toNat) hr)

theorem fld_eq_toNat {n len : Nat} {x : BitVec n} (h : x.toNat < 2 ^ len) : fld x 0 len = x.toNat := Nat.mod_eq_of_lt h

/-- A write of a g register never leaves it pending. -/
theorem moveG_eq_writeG (sl : Slot) (d r : RegNo) : moveG sl d r = sl.writeG d (sl.readG r) := rfl

/-! ## Fields of capabilities (R26) -/

theorem capAddr_eq (c : W128) : capAddr c = c.toNat % 2 ^ 64 := rfl

theorem capPerm_toNat (c : W128) : (capPerm c).toNat = c.toNat / 2 ^ 64 % 2 ^ 12 := by
  rw [capPerm, BitVec.extractLsb'_toNat, Nat.shiftRight_eq_div_pow]

theorem capKind_eq (c : W128) : capKind c = c.toNat / 2 ^ 122 % 2 ^ 2 := by
  rw [capKind, fld, Nat.shiftRight_eq_div_pow]

theorem capTop_eq (c : W128) : fld c 124 4 = c.toNat / 2 ^ 124 := by
  have := c.isLt
  rw [fld, Nat.shiftRight_eq_div_pow]
  omega

theorem capSame_eq (c c' : W128) : capSame c c' = decide (capDecode c' = capDecode c) := by
  rw [capSame, Bool.eq_iff_iff, beq_iff_eq, decide_eq_true_eq]
  exact eq_comm

/-! ## What the effects begin from: the source registers -/

@[simp] theorem begun_readG (s : State) (i : Ins) (u : Uses) (w : BitVec 10) (r : RegNo) : (s.begun i u w).readG r = s.cur.readG r := rfl

@[simp] theorem begun_g64 (s : State) (i : Ins) (u : Uses) (w : BitVec 10) (r : RegNo) : (s.begun i u w).g64 r = s.cur.g64 r := rfl

@[simp] theorem begun_capB (s : State) (j : Ins) (sg : Bool) (i : Ins) (u : Uses) (w : BitVec 10) :
    capB j sg (s.begun i u w) = capB j sg s.cur := rfl

/-! ## The shared checks, tag then kind (R115) -/

theorem capUsable_untagged {x : GReg} (h : x.tag = false) (kinds : List Nat) : capUsable x kinds = some 1 := by
  simp [capUsable, h]

theorem capUsable_tagged {x : GReg} (h : x.tag = true) (kinds : List Nat) :
    capUsable x kinds = if x.val.toNat / 2 ^ 124 = 0 ∧ capKind x.val ∈ kinds then none else some 2 := by
  simp only [capUsable, h, capTop_eq]
  generalize x.val.toNat / 2 ^ 124 = top
  by_cases ht : top = 0 <;> by_cases hk : capKind x.val ∈ kinds <;> simp [ht, hk]

/-- Kind 3 is the only one that CBOUND refuses. -/
theorem capKind_mem_iff (c : W128) : capKind c ∈ [0, 1, 2] ↔ capKind c ≠ 3 := by
  have : capKind c < 4 := Nat.mod_lt _ (by decide)
  simp only [List.mem_cons, List.not_mem_nil, or_false]
  omega

/-! ## CBOUND and CCHAN (R116, R119) -/

section
variable {c : W128} {len pb pt : Nat} {round : Bool}

theorem cboundVal_malformed (hc : capDecode c = none) : cboundVal c len round = .error 5 := by
  simp only [cboundVal, hc]

theorem cboundVal_outside (hc : capDecode c = some (pb, pt)) (h : capAddr c < pb ∨ pt < capAddr c + len) :
    cboundVal c len round = .error 4 := by
  simp [cboundVal, hc, h]

theorem cboundVal_inexact (hc : capDecode c = some (pb, pt)) (hlo : pb ≤ capAddr c) (hhi : capAddr c + len ≤ pt)
    (hex : (capEncode (capAddr c) (capAddr c + len)).2.2.2 = false) : cboundVal c len false = .error 7 := by
  simp [cboundVal, hc, Nat.not_lt.2 hlo, Nat.not_lt.2 hhi, hex]

theorem cboundVal_ok {n : W128} {nb nt : Nat} (hc : capDecode c = some (pb, pt)) (hlo : pb ≤ capAddr c) (hhi : capAddr c + len ≤ pt)
    (hex : (capEncode (capAddr c) (capAddr c + len)).2.2.2 = true ∨ round = true)
    (hn : n = capWithBounds c (capEncode (capAddr c) (capAddr c + len)).1 (capEncode (capAddr c) (capAddr c + len)).2.1
      (capEncode (capAddr c) (capAddr c + len)).2.2.1)
    (hd : capDecode n = some (nb, nt)) (hb : pb ≤ nb) (ht : nt ≤ pt) : cboundVal c len round = .ok n := by
  have hround : (!(capEncode (capAddr c) (capAddr c + len)).2.2.2 && !round) = false := by
    rcases hex with h | h <;> simp [h]
  subst hn
  simp only [cboundVal, hc, Nat.not_lt.2 hlo, Nat.not_lt.2 hhi, decide_false, Bool.or_self, Bool.false_eq_true, ↓reduceIte, hround, hd,
    Nat.not_lt.2 hb, Nat.not_lt.2 ht]

end

theorem cchanVal_ok {x : GReg} {v pb pt : Nat} (hx : capUsable x [2] = none) (hv : v = v / 2 ^ 36 % 2 ^ 27 * 2 ^ 36 + v % 32)
    (hc : capDecode x.val = some (pb, pt)) (hlo : pb ≤ v) (hhi : v + 1 ≤ pt) :
    cchanVal x v = .ok (capWithBounds (capWithAddr x.val (BitVec.ofNat 64 v)) (capEncode v (v + 1)).1 (capEncode v (v + 1)).2.1
      (capEncode v (v + 1)).2.2.1) := by
  have hv' : (v != (v >>> 36) % 2 ^ 27 * 2 ^ 36 + v % 32) = false := by
    rw [Nat.shiftRight_eq_div_pow, bne_eq_false_iff_eq]
    exact hv
  simp only [cchanVal, hx, hv', hc, Nat.not_lt.2 hlo, Nat.not_lt.2 hhi, decide_false, Bool.or_self, Bool.false_eq_true, ↓reduceIte]

theorem acts_of_cboundOp {s : State} {x : Instr} {i : Ins} {n : W128} (hx : exec x s = cboundOp i s)
    (hu : capUsable (s.cur.readG i.a) [0, 1, 2] = none)
    (hn : cboundVal (s.cur.readG i.a).val (capB i false s.cur).toNat (i.mod.getLsbD 0) = .ok n) :
    s.acts x i { g := usesAB i, dg := [i.d] } false 0 fun sl => sl.writeG i.d { val := n, tag := true } :=
  acts_of_execReg_begun hx (by simp only [begun_readG, begun_capB, hu, hn])

theorem acts_of_cchanOp {s : State} {x : Instr} {i : Ins} {n : W128} (hx : exec x s = cchanOp i s)
    (hn : cchanVal (s.cur.readG i.a)
      (if i.hasImm then capAddr (s.cur.readG i.a).val / 32 * 32 + i.imm % 32 else (s.cur.g64 i.b).toNat) = .ok n) :
    s.acts x i { g := usesAB i, dg := [i.d] } false 0 fun sl => sl.writeG i.d { val := n, tag := true } :=
  acts_of_execReg_begun hx (by simp only [begun_readG, begun_g64, hn])

/-- A meaning whose body faults where it executes. -/
theorem faults_of_execReg {s : State} {x : Instr} {i : Ins} {u : Uses} {vec : Bool} {w : BitVec 10} {body : Slot → Except Trap Slot}
    {t : Trap} (h : s.issues i u vec = true) (hx : exec x s = execReg i u vec w body s) (hb : body (s.begun i u w) = .error t) :
    exec x s = s.faults t := by
  rw [hx, execReg_acts w body h, hb]

/-- CBOUND's faults of its tag and kind checks. -/
theorem faults_of_capUsable {s : State} {x : Instr} {i : Ins} {sub : Nat} (h : s.issues i { g := usesAB i, dg := [i.d] } false = true)
    (hx : exec x s = cboundOp i s) (hu : capUsable (s.cur.readG i.a) [0, 1, 2] = some sub) :
    exec x s = s.faults (capTrap sub i.a (s.cur.g64 i.a)) :=
  faults_of_execReg h hx (by simp only [begun_readG, begun_g64, hu])

/-- CBOUND's faults of its bounds; the one of inexact bounds reports the length asked for. -/
theorem faults_of_cboundVal {s : State} {x : Instr} {i : Ins} {sub : Nat} (h : s.issues i { g := usesAB i, dg := [i.d] } false = true)
    (hx : exec x s = cboundOp i s) (hu : capUsable (s.cur.readG i.a) [0, 1, 2] = none)
    (hn : cboundVal (s.cur.readG i.a).val (capB i false s.cur).toNat (i.mod.getLsbD 0) = .error sub) :
    exec x s = s.faults { capTrap sub i.a (s.cur.g64 i.a) with aux := if sub == 7 then capB i false s.cur else 0 } :=
  faults_of_execReg h hx (by simp only [begun_readG, begun_g64, begun_capB, hu, hn])

/-! ## The other capability instructions (R117, R118, R120) -/

/-- A copy at another address keeps its tag where its bounds decode as before; else a tagged one is warned of. -/
theorem moveAddr_eq (sl : Slot) (d : RegNo) (x : GReg) (a : W64) :
    moveAddr sl d x a =
      let same := decide (capDecode (capWithAddr x.val a) = capDecode x.val)
      (if x.tag && !same then sl.addWarn wCAPCLR else sl).writeG d { val := capWithAddr x.val a, tag := x.tag && same } := by
  simp only [moveAddr, capSame_eq]

theorem acts_of_coffOp {s : State} {x : Instr} {i : Ins} {put : Slot → Slot} (hx : exec x s = coffOp i s)
    (hp : ∀ sl, moveAddr sl i.d (sl.readG i.a) (sl.g64 i.a + capB i true sl) = put sl) :
    s.acts x i { g := usesAB i, dg := [i.d] } false 0 put :=
  acts_of_execReg hx (hp _)

theorem acts_of_csetaOp {s : State} {x : Instr} {i : Ins} {put : Slot → Slot} (hx : exec x s = csetaOp i s)
    (hp : ∀ sl, moveAddr sl i.d (sl.readG i.a) (capB i true sl) = put sl) :
    s.acts x i { g := usesAB i, dg := [i.d] } false 0 put :=
  acts_of_execReg hx (hp _)

theorem acts_of_cpermOp {s : State} {x : Instr} {i : Ins} (hx : exec x s = cpermOp i s) :
    s.acts x i { g := usesAB i, dg := [i.d] } false 0 fun sl => sl.writeG i.d
      { val := setFld (sl.readG i.a).val 64 12 (capPerm (sl.readG i.a).val &&& (capB i false sl).extractLsb' 0 12).toNat,
        tag := (sl.readG i.a).tag } :=
  acts_of_execReg hx rfl

/-! ## The statements -/

/-- Settles O5: the eleven conditions of CMP one by one; the copies are `writeG` of what is read, which is never left pending. -/
theorem compareAndMoveResults : Obligations.CompareAndMoveResults := by
  unfold Obligations.CompareAndMoveResults
  constructor
  · intro s holds
    have hcond (i : Ins) (sl : Slot) (hi : i.sub.toNat ≤ 10) :
        cmpHolds (fld i.sub 0 4) (intWidth i.ty) (rawX i sl) (rawY i sl) = true ↔ holds i sl := by
      have hsub : fld i.sub 0 4 = i.sub.toNat := fld_eq_toNat (by omega)
      simp only [holds, hsub]
      generalize i.sub.toNat = k at hi
      have hk : k = 0 ∨ k = 1 ∨ k = 2 ∨ k = 3 ∨ k = 4 ∨ k = 5 ∨ k = 6 ∨ k = 7 ∨ k = 8 ∨ k = 9 ∨ k = 10 := by omega
      rcases hk with rfl | rfl | rfl | rfl | rfl | rfl | rfl | rfl | rfl | rfl | rfl <;>
        simp only [cmpHolds, sextN_eq_toInt_ofNat, beq_iff_eq, bne_iff_ne, decide_eq_true_eq, gt_iff_lt, ge_iff_le]
    have hval (i : Ins) (sl : Slot) (hi : i.sub.toNat ≤ 10) (r : BitVec 16) (h1 : holds i sl → r = 0xFFFF) (h0 : ¬holds i sl → r = 0) :
        (if cmpHolds (fld i.sub 0 4) (intWidth i.ty) (rawX i sl) (rawY i sl) then 0xFFFF else 0) = r := by
      by_cases h : holds i sl
      · rw [if_pos ((hcond i sl hi).2 h), h1 h]
      · rw [if_neg (mt (hcond i sl hi).1 h), h0 h]
    exact ⟨fun f hf r h1 h0 => acts_of_cmpOp rfl (hval _ _ hf r h1 h0), fun f hf r h1 h0 => acts_of_cmpOp rfl (hval _ _ hf r h1 h0)⟩
  · intro s
    refine ⟨?mov, ?sel, ?li, ?li96, ?li128⟩
    case mov => exact fun f => acts_of_execReg (f := fun sl => moveG sl f.d f.a) rfl (moveG_eq_writeG ..)
    case sel =>
      exact fun f => acts_of_execReg (f := fun sl => moveG sl f.d (if (sl.readP f.c.toNat).getLsbD 0 then f.a else f.b)) rfl
        (by rw [moveG_eq_writeG, apply_ite (Slot.readG _)])
    case li | li96 | li128 => exact fun _ => putsG_of_intOp rfl fun _ => rfl

/-- Settles O6: each copy is its meaning's own write; CBOUND and CCHAN by the outcome of `capUsable`, then of `cboundVal` and `cchanVal`. -/
theorem capabilityResults : Obligations.CapabilityResults := by
  unfold Obligations.CapabilityResults
  refine ⟨fun s => ?_, fun s => ?_, fun s f => ?_⟩
  · intro perm move ub
    refine ⟨?cperm, ?cperm96, ?coff, ?coff96, ?coff128, ?cseta, ?cseta96, ?cseta128, ?cclr, ?cget, ?csub⟩
    case cperm => exact fun f => acts_of_cpermOp (i := insR f) rfl
    case cperm96 => exact fun f => acts_of_cpermOp (i := insX f) rfl
    case coff => exact fun f => acts_of_coffOp (i := insR f) rfl fun _ => moveAddr_eq ..
    case coff96 => exact fun f => acts_of_coffOp (i := insX f) rfl fun _ => moveAddr_eq ..
    case coff128 => exact fun f => acts_of_coffOp (i := insL f) rfl fun _ => moveAddr_eq ..
    case cseta => exact fun f => acts_of_csetaOp (i := insR f) rfl fun _ => moveAddr_eq ..
    case cseta96 => exact fun f => acts_of_csetaOp (i := insX f) rfl fun _ => moveAddr_eq ..
    case cseta128 => exact fun f => acts_of_csetaOp (i := insL f) rfl fun _ => moveAddr_eq ..
    case cclr => exact fun f => acts_of_execReg (f := fun sl => sl.writeG f.d { val := (sl.readG f.a).val }) rfl rfl
    case cget =>
      intro f hf
      refine putsG_of_execReg (f := fun sl => cgetVal f.sub.toNat (sl.readG f.a)) rfl ?_
      rw [begun_readG]
      generalize s.cur.readG f.a = x
      generalize f.sub.toNat = k at hf ⊢
      have hk : k = 0 ∨ k = 1 ∨ k = 2 ∨ k = 3 ∨ k = 4 ∨ k = 5 := by omega
      rcases hk with rfl | rfl | rfl | rfl | rfl | rfl
      · exact capAddr_eq x.val
      · cases h : capDecode x.val <;> simp [cgetVal, h]
      · cases h : capDecode x.val <;> simp [cgetVal, h]
      · exact capPerm_toNat x.val
      · exact capKind_eq x.val
      · rfl
    case csub => exact fun f => putsG_of_execReg (f := fun sl => b2n (capSubset (sl.readG f.a) (sl.readG f.b))) rfl rfl
  · intro ok usable chan isChan
    have hok {c n : W128} {len : Nat} {round : Bool} (h : ok c len round n) : cboundVal c len round = .ok n := by
      obtain ⟨pb, pt, nb, nt, hc, hlo, hhi, hex, hn, hd, hb, ht⟩ := h
      exact cboundVal_ok hc hlo hhi hex hn hd hb ht
    have husable {x : GReg} (h : usable x) : capUsable x [0, 1, 2] = none := by
      obtain ⟨htag, htop, hkind⟩ := h
      rw [capUsable_tagged htag, if_pos ⟨htop, (capKind_mem_iff _).2 hkind⟩]
    have hchan {x : GReg} {v : Nat} {n : W128} (hx : isChan x) (h : chan x.val v n) : cchanVal x v = .ok n := by
      obtain ⟨htag, htop, hkind⟩ := hx
      obtain ⟨pb, pt, hc, hv, hlo, hhi, rfl⟩ := h
      refine cchanVal_ok ?_ hv hc hlo hhi
      rw [capUsable_tagged htag, if_pos ⟨htop, List.mem_singleton.2 hkind⟩]
    exact ⟨fun f n hx h => acts_of_cboundOp (i := insR f) rfl (husable hx) (hok h),
      fun f n hx h => acts_of_cboundOp (i := insX f) rfl (husable hx) (hok h),
      fun f n hx h => acts_of_cchanOp (i := insR f) rfl (hchan hx h),
      fun f n hx h => acts_of_cchanOp (i := insX f) rfl (hchan hx h)⟩
  · intro x len stops hi
    have unusable {sub : Nat} (hu : capUsable x [0, 1, 2] = some sub) : stops sub 0 := faults_of_capUsable (i := insR f) hi rfl hu
    refine ⟨fun htag => unusable (capUsable_untagged htag _), fun htag hbad => unusable ?_, fun htag htop hkind => ?_⟩
    · exact (capUsable_tagged htag _).trans (if_neg fun h => hbad.elim (absurd h.1) ((capKind_mem_iff _).1 h.2))
    · have hu : capUsable x [0, 1, 2] = none := by
        rw [capUsable_tagged htag, if_pos ⟨htop, (capKind_mem_iff _).2 hkind⟩]
      have fails {sub : Nat} (hn : cboundVal x.val len.toNat (f.mod.getLsbD 0) = .error sub) :
          stops sub (if sub == 7 then len else 0) := faults_of_cboundVal (i := insR f) hi rfl hu hn
      refine ⟨fun hd => fails (cboundVal_malformed hd), fun pb pt hd => ⟨fun hout => fails (cboundVal_outside hd hout), ?_⟩⟩
      intro hlo hhi hround hex
      exact fails (hround ▸ cboundVal_inexact hd hlo hhi hex)

end Sys2Proof.Machine
end

section
/-! What each scope covers (R332). -/
namespace Sys2Proof.Machine

/-- R330: the logical core of an identity is all of it above the two bits of the slot. -/
theorem fld_identity_core (w : BitVec 18) : fld w 2 16 = w.toNat / 4 := by
  have hcore : w.toNat / 4 < 2 ^ 16 := by omega
  rw [fld, Nat.shiftRight_eq_div_pow]
  exact Nat.mod_eq_of_lt hcore

theorem covers_slot_iff (w x : BitVec 18) : covers scSLOT w x = true ↔ w = x := beq_iff_eq

theorem covers_core_iff (w x : BitVec 18) : covers scCORE w x = true ↔ w.toNat / 4 = x.toNat / 4 := by
  rw [← fld_identity_core w, ← fld_identity_core x]
  exact beq_iff_eq

theorem covers_cluster_iff (w x : BitVec 18) :
    covers scCLUSTER w x = true ↔ clusterOf (w.toNat / 4) = clusterOf (x.toNat / 4) := by
  rw [← fld_identity_core w, ← fld_identity_core x]
  exact beq_iff_eq

/-- R332: the die is bits 15:12 of the logical core. -/
theorem covers_die_iff (w x : BitVec 18) : covers scDIE w x = true ↔ w.toNat / 4 / 2 ^ 12 = x.toNat / 4 / 2 ^ 12 := by
  rw [← fld_identity_core w, ← fld_identity_core x]
  exact beq_iff_eq

theorem covers_package (w x : BitVec 18) : covers scPACKAGE w x = true := rfl

theorem covers_fabric (w x : BitVec 18) : covers scFABRIC w x = true := rfl

/-- Settles O60, row by row of R332's table. -/
theorem scopeCovers : Obligations.ScopeCovers := by
  unfold Obligations.ScopeCovers
  intro w x
  exact ⟨covers_slot_iff w x, covers_core_iff w x, covers_cluster_iff w x, covers_die_iff w x, covers_package w x, covers_fabric w x⟩

end Sys2Proof.Machine
end
